-- ==== Sys2Proof/Word.lean ====
section
/-! DEFINITION. The word types of the module and the sparse table every storage of it is held in. -/

namespace Sys2Proof

/-- One byte of storage. -/
abbrev Byte := BitVec 8

/-- A 32-bit register or register lane. -/
abbrev Word := BitVec 32

/-- A 64-bit value: an instruction word (R156), a status word, a backup register. -/
abbrev DWord := BitVec 64

/-- A sparse table: pairs of a key and a value, keys strictly rising, no value equal to the one an
unlisted key has. The value of an unlisted key is an argument of every operation on the table. -/
abbrev Tab (α : Type) := List (Nat × α)

/-- Bytes by address (`Host.Cell` pairs); an unlisted byte reads as 0 (DESIGN CHOICE, log 4). -/
abbrev Mem := Tab Byte

end Sys2Proof
end

