-- ==== Sys2Proof/Syntax.lean ====
section
/-! DEFINITION. The commands of the module: one constructor for each row of spec/opcode_table.json, with
what the sender or the outside world supplies with it. A command names WHICH unit acts and what the
environment delivers (a sensor reading, a host's bytes, whether a code word was correctable); everything
else it needs it reads from State. -/

namespace Sys2Proof

/-- What the memories of a core deliver to one instruction (R138, 7.3, R191). -/
inductive Ecc where
  /-- No error. -/
  | ok
  /-- A single-bit register-file error was corrected, in this row of the group's quarter of the file. -/
  | regCorrected (row : Nat)
  /-- An uncorrectable error in a source register (trap 0x0C). -/
  | regUncorrectable (reg : Fin 128)
  /-- A single-bit local-memory error was corrected, in this row of the memory. -/
  | lmCorrected (row : Nat)
  /-- An uncorrectable local-memory error on the access of a lane (trap 0x0D). -/
  | lmUncorrectable (lane : Fin 32)
  /-- A table-bank coefficient was corrected, in this row of the banks (R191). -/
  | tableCorrected (row : Nat)
  /-- A table-bank entry was uncorrectable and is read again from the Crown's copy (R191). -/
  | tableRefetched
deriving DecidableEq, Repr

/-- What slice SRAM delivers to one request (R234, R235, R304). -/
inductive SramEv where
  /-- No error. -/
  | ok
  /-- A single-bit data or tag error was corrected, in this row of the slice's SRAM. -/
  | corrected (row : Nat)
  /-- The data of the line named is uncorrectable. -/
  | uncorrectable
  /-- Both copies of a tag are uncorrectable. -/
  | tagFatal
  /-- The Seam transfer met a CRC-8 mismatch and was replayed. -/
  | crcReplay
deriving DecidableEq, Repr

/-- What a bonded channel delivers to one transfer (R241, R242). -/
inductive BcEv where
  /-- No error. -/
  | ok
  /-- The die corrected single-bit errors in this many words. -/
  | dieCorrected (words : Nat)
  /-- The bits flipped on the DRAM seam in each attempt of the transfer: byte of the transfer (256 of data, 32 of the
  byte mask, 5 of the address, 2 of the CRC) and the bits flipped in it. -/
  | transfer (attempts : List (List (Nat × Byte)))
  /-- The on-die code could not correct this 128-bit word of the line. -/
  | dieUncorrectable (word : Fin 16)
deriving DecidableEq, Repr

/-- What a Palm engine's weight read meets (R129, R123). -/
inductive WeightEv where
  /-- No error. -/
  | ok
  /-- An uncorrectable SRAM error in source-0 weights, in the line at this offset of the slice's aperture. -/
  | sramUncorrectable (off : Fin 0x1000000)
  /-- What the read of the `n`-th line of source-1 weights meets at its bonded channel. -/
  | bonded (n : Nat) (ev : BcEv)
deriving DecidableEq, Repr

/-- What an LPDDR6 device delivers in place of a stored page: symbols XORed into the code word, and bits
XORed into the tag (R246, R251). -/
structure LpNoise where
  /-- Symbol number in the code word (message first, then parity) and the bits flipped in it. -/
  symbols : List (Nat × BitVec 12)
  /-- Bits flipped in the stored tag. -/
  mac : BitVec 128
deriving DecidableEq, Repr

/-- A controller that publishes level codes (R257). -/
inductive Ctl where
  /-- A slice. -/
  | slice (s : Fin 128)
  /-- A bonded channel. -/
  | bonded (c : Fin 16)
  /-- An LPDDR6 channel. -/
  | lpddr (c : Fin 16)
deriving DecidableEq, Repr

/-- A unit that can be reset or fenced (Tables 1-2, 15-4). -/
inductive UnitRef where
  /-- A cluster. -/
  | cluster (c : Fin 68)
  /-- A core. -/
  | core (c : Fin 272)
  /-- A slice. -/
  | slice (s : Fin 128)
  /-- A bonded channel and its controller. -/
  | bonded (c : Fin 16)
  /-- An LPDDR6 channel and its controller. -/
  | lpddr (c : Fin 16)
  /-- A partition (reset only). -/
  | partition (p : Fin 4)
  /-- A Palm engine. -/
  | palm (s : Fin 128)
deriving DecidableEq, Repr

/-- One of the 560 receivers of 14.7, the participants of a mode change (R367). -/
inductive Receiver where
  /-- A core. -/
  | core (c : Fin 272)
  /-- A Palm engine. -/
  | palm (s : Fin 128)
  /-- A slice controller. -/
  | slice (s : Fin 128)
  /-- A bonded controller. -/
  | bonded (c : Fin 16)
  /-- An LPDDR6 controller. -/
  | lpddr (c : Fin 16)
deriving DecidableEq, Repr

/-- A bond of a Seam port or DRAM seam that a test found failing (R14, R302). -/
structure Bond where
  /-- The unit is a bonded channel (a slice otherwise). -/
  bonded : Bool
  /-- Its physical number. -/
  unit : Fin 128
  /-- The lane group. -/
  group : Fin 200
  /-- The bond of the group: signal bonds 0 to 31, and 32 for its spare. -/
  lane : Fin 33
deriving DecidableEq, Repr

/-- The structures of Table 14-7 that step 7 tests. -/
inductive Struct where
  /-- Rows of slice SRAM and tags. -/
  | sramRow
  /-- Columns of slice SRAM and tags. -/
  | sramCol
  /-- Rows of local memory. -/
  | lmRow
  /-- Columns of local memory. -/
  | lmCol
  /-- Rows of a quarter of the register file. -/
  | regRow (quarter : Fin 4)
  /-- Rows of the special-function table banks. -/
  | tableRow
deriving DecidableEq, Repr

/-- What a receiver meets in one round of a distribution (R307). -/
structure FwdLoss where
  /-- The receiver. -/
  receiver : Receiver
  /-- The round: 0 the broadcast, 1 to 3 the resends. -/
  round : Fin 4
  /-- Chunks of the round that reach it with a bad CRC or not at all. -/
  bad : List Nat
  /-- With every chunk held, its digest does not match. -/
  digestBad : Bool
  /-- It does not answer the close of the round. -/
  silent : Bool
deriving DecidableEq, Repr

/-- The hot resets of R285. -/
inductive HotReset where
  /-- Hot reset, secondary bus reset or link disable. -/
  | hot
  /-- Function level reset. -/
  | flr
deriving DecidableEq, Repr

/-- The two IDE kinds of Table 13-1. -/
inductive IdeKind where
  /-- Link IDE for CXL.io. -/
  | io
  /-- CXL.cachemem IDE. -/
  | cachemem
deriving DecidableEq, Repr

/-- What an IDE key belongs to (R351). -/
structure IdeStream where
  /-- Which IDE. -/
  kind : IdeKind
  /-- Stream ID. -/
  stream : Byte
  /-- Direction. -/
  dir : Bool
  /-- Key set. -/
  keySet : Bool
deriving DecidableEq, Repr

/-- The two SPDM transports (Table 17-5). -/
inductive Port where
  /-- The DOE mailbox on CXL.io. -/
  | doe
  /-- The management port. -/
  | mgmt
deriving DecidableEq, Repr

/-- What the outside of the logic decides at a boot: straps, test and training outcomes, the link
partner, and where the boot hangs if it does (14.1, 14.3). -/
structure BootEnv where
  /-- PSEL[2:0], latched only at cold reset release (R374). -/
  psel : Fin 8
  /-- PROF_CMD_EN, latched only at cold reset release (R374). -/
  profCmdEn : Bool
  /-- Units that fail the test or training of a step (4, 6, 7, 8, 9 or 13), for what its repairs do not reach. -/
  fails : List (Nat × UnitRef)
  /-- Firmware copies (A, B) whose bytes read back do not match their directory CRC-32C at step 2 (R299). -/
  fwBad : Bool × Bool
  /-- Bonds that step 6 finds failing. -/
  bonds : List Bond
  /-- Rows or columns of structures that step 7 finds failing: unit, structure, how many (Table 14-7). -/
  structs : List (UnitRef × Struct × Nat)
  /-- What receivers meet at step 12 (R307). -/
  fwd : List FwdLoss
  /-- The step that never ends, and the units whose part of it had ended (R294, R295). -/
  hang : Option (Nat × List UnitRef)
  /-- The slot that a step 10 which never ends is copying (R297). -/
  hungSlot : Option (Fin 8)
  /-- Width and rate code the link trains at; none without a partner (step 11). -/
  link : Option (Nat × Nat)
  /-- The random source fails step 9's health tests (R352). -/
  rngFails : Bool
  /-- A Lining word is uncorrectable (R322). -/
  liningBad : Bool
  /-- Neither manufacturing record is valid (R343). -/
  manufacturingBad : Bool
deriving DecidableEq, Repr

/-- The commands, in the order of spec/opcode_table.json. -/
inductive Instr where
  /-- IADD (R161): Integer add of 32 or 64 bits, wrapping, per active lane or once for a uniform destination. -/
  | iadd (core : Fin 272) (grp : Fin 16) (ecc : Ecc)
  /-- ISUB (R161): Integer subtract of 32 or 64 bits, wrapping. -/
  | isub (core : Fin 272) (grp : Fin 16) (ecc : Ecc)
  /-- IMUL (R161): Integer multiply returning the low half of the product. -/
  | imul (core : Fin 272) (grp : Fin 16) (ecc : Ecc)
  /-- IMULHI_U (R161): Returns the high 32 bits of the unsigned product. -/
  | imulhiU (core : Fin 272) (grp : Fin 16) (ecc : Ecc)
  /-- IMULHI_S (R161): Returns the high 32 bits of the signed product. -/
  | imulhiS (core : Fin 272) (grp : Fin 16) (ecc : Ecc)
  /-- AND (R161): Bitwise and of 32 or 64 bits. -/
  | and (core : Fin 272) (grp : Fin 16) (ecc : Ecc)
  /-- OR (R161): Bitwise or of 32 or 64 bits. -/
  | or (core : Fin 272) (grp : Fin 16) (ecc : Ecc)
  /-- XOR (R161): Bitwise exclusive or of 32 or 64 bits. -/
  | xor (core : Fin 272) (grp : Fin 16) (ecc : Ecc)
  /-- SHL (R161): Shift left by the low 5 or 6 bits of the count. -/
  | shl (core : Fin 272) (grp : Fin 16) (ecc : Ecc)
  /-- SHR (R161): Logical shift right by the low 5 or 6 bits of the count. -/
  | shr (core : Fin 272) (grp : Fin 16) (ecc : Ecc)
  /-- SAR (R161): Arithmetic shift right by the low 5 or 6 bits of the count. -/
  | sar (core : Fin 272) (grp : Fin 16) (ecc : Ecc)
  /-- IMIN_S (R161): Signed integer minimum. -/
  | iminS (core : Fin 272) (grp : Fin 16) (ecc : Ecc)
  /-- IMAX_S (R161): Signed integer maximum. -/
  | imaxS (core : Fin 272) (grp : Fin 16) (ecc : Ecc)
  /-- IMIN_U (R161): Unsigned integer minimum. -/
  | iminU (core : Fin 272) (grp : Fin 16) (ecc : Ecc)
  /-- IMAX_U (R161): Unsigned integer maximum. -/
  | imaxU (core : Fin 272) (grp : Fin 16) (ecc : Ecc)
  /-- ISETP (R161): Integer compare writing 1 where the condition holds and 0 elsewhere. -/
  | isetp (core : Fin 272) (grp : Fin 16) (ecc : Ecc)
  /-- SEL (R161): Writes rb where ra is non-zero and rc elsewhere. -/
  | sel (core : Fin 272) (grp : Fin 16) (ecc : Ecc)
  /-- MOV (R161): Copies ra to rd. -/
  | mov (core : Fin 272) (grp : Fin 16) (ecc : Ecc)
  /-- FADD (R88): FP32 add under IEEE 754 binary32 with roundTiesToEven. -/
  | fadd (core : Fin 272) (grp : Fin 16) (ecc : Ecc)
  /-- FSUB (R88): FP32 subtract. -/
  | fsub (core : Fin 272) (grp : Fin 16) (ecc : Ecc)
  /-- FMUL (R88): FP32 multiply. -/
  | fmul (core : Fin 272) (grp : Fin 16) (ecc : Ecc)
  /-- FFMA (R161): FP32 fused multiply-add ra × rb + rc with one rounding. -/
  | ffma (core : Fin 272) (grp : Fin 16) (ecc : Ecc)
  /-- FMIN (R88): FP32 minimumNumber. -/
  | fmin (core : Fin 272) (grp : Fin 16) (ecc : Ecc)
  /-- FMAX (R88): FP32 maximumNumber. -/
  | fmax (core : Fin 272) (grp : Fin 16) (ecc : Ecc)
  /-- FSETP (R161): FP32 compare writing 1 where the condition holds. -/
  | fsetp (core : Fin 272) (grp : Fin 16) (ecc : Ecc)
  /-- CVT (R163): Converts one value per lane between FP32 and a narrow format under Table 4-7, ORing flags into CORE_NUMFLAGS. -/
  | cvt (core : Fin 272) (grp : Fin 16) (ecc : Ecc)
  /-- CVT_SCALE (R163): Converts an E8M0 scale code to FP32. -/
  | cvtScale (core : Fin 272) (grp : Fin 16) (ecc : Ecc)
  /-- LD (R164): Loads 1–16 bytes per lane from local or device memory at the effective address. -/
  | ld (core : Fin 272) (grp : Fin 16) (ecc : Ecc)
  /-- ST (R164): Stores 1–16 bytes per lane to local or device memory, same-byte lanes resolved by highest lane. -/
  | st (core : Fin 272) (grp : Fin 16) (ecc : Ecc)
  /-- ATOM_ADD (R142): Atomic integer add applied per address in ascending lane order. -/
  | atomAdd (core : Fin 272) (grp : Fin 16) (ecc : Ecc)
  /-- ATOM_MIN_S (R142): Atomic signed minimum. -/
  | atomMinS (core : Fin 272) (grp : Fin 16) (ecc : Ecc)
  /-- ATOM_MAX_S (R142): Atomic signed maximum. -/
  | atomMaxS (core : Fin 272) (grp : Fin 16) (ecc : Ecc)
  /-- ATOM_MIN_U (R142): Atomic unsigned minimum. -/
  | atomMinU (core : Fin 272) (grp : Fin 16) (ecc : Ecc)
  /-- ATOM_MAX_U (R142): Atomic unsigned maximum. -/
  | atomMaxU (core : Fin 272) (grp : Fin 16) (ecc : Ecc)
  /-- ATOM_AND (R142): Atomic bitwise and. -/
  | atomAnd (core : Fin 272) (grp : Fin 16) (ecc : Ecc)
  /-- ATOM_OR (R142): Atomic bitwise or. -/
  | atomOr (core : Fin 272) (grp : Fin 16) (ecc : Ecc)
  /-- ATOM_XOR (R142): Atomic bitwise exclusive or. -/
  | atomXor (core : Fin 272) (grp : Fin 16) (ecc : Ecc)
  /-- ATOM_XCHG (R142): Atomic exchange. -/
  | atomXchg (core : Fin 272) (grp : Fin 16) (ecc : Ecc)
  /-- ATOM_CAS (R164): Atomic compare-exchange writing rs where the word equals rc and returning the old word. -/
  | atomCas (core : Fin 272) (grp : Fin 16) (ecc : Ecc)
  /-- ATOM_FADD (R142): Atomic FP32 add rounding after each lane in ascending lane order. -/
  | atomFadd (core : Fin 272) (grp : Fin 16) (ecc : Ecc)
  /-- FENCE_D (R141): Stalls the group until every earlier device store, atomic and retire is accepted at its home slice. -/
  | fenceD (core : Fin 272) (grp : Fin 16) (ecc : Ecc)
  /-- CACHE_RETIRE (R165): Marks the line of each active lane's device address dead after last use. -/
  | cacheRetire (core : Fin 272) (grp : Fin 16) (ecc : Ecc)
  /-- MX_ISSUE (R99): Checks a matrix or element-wise descriptor, counts its token and queues it in the matrix queue. -/
  | mxIssue (core : Fin 272) (grp : Fin 16) (ecc : Ecc)
  /-- DMA_ISSUE (R99): Checks a DMA descriptor, counts its token and queues it in the DMA queue. -/
  | dmaIssue (core : Fin 272) (grp : Fin 16) (ecc : Ecc)
  /-- PALM_ISSUE (R119): Address-checks a Palm descriptor and places the launch in the core's DMA queue. -/
  | palmIssue (core : Fin 272) (grp : Fin 16) (ecc : Ecc)
  /-- WAIT (R167): Tests or stalls on the named completion tokens. -/
  | wait (core : Fin 272) (grp : Fin 16) (ecc : Ecc)
  /-- WAIT_COMPLETE (R167): When the named token counts reach zero, writes flags and errors to rd, clears the tokens and retires, trapping 0x03 next if an error bit was set. -/
  | waitComplete (core : Fin 272) (grp : Fin 16)
  /-- FRAG_OPEN (R107): Claims and zeroes a fragment accumulator bank in A0, stalling until a bank is free. -/
  | fragOpen (core : Fin 272) (grp : Fin 16) (ecc : Ecc)
  /-- FRAG_LDB (R168): Loads a K × N tile into A0's cells from the group's registers. -/
  | fragLdb (core : Fin 272) (grp : Fin 16) (ecc : Ecc)
  /-- FRAG_MMA (R168): Multiplies an M × K tile by the loaded tile, adding products to the held bank. -/
  | fragMma (core : Fin 272) (grp : Fin 16) (ecc : Ecc)
  /-- FRAG_ROUND (R168): Rounds the held bank to FP32 or BF16 into registers, writing flags, and releases or keeps the bank. -/
  | fragRound (core : Fin 272) (grp : Fin 16) (ecc : Ecc)
  /-- BRA (R144): Divergent branch pushing reconvergence entries and running the fall-through path first. -/
  | bra (core : Fin 272) (grp : Fin 16) (ecc : Ecc)
  /-- JMP (R169): Uniform jump to an encoded target. -/
  | jmp (core : Fin 272) (grp : Fin 16) (ecc : Ecc)
  /-- JMPC (R169): Jump on a uniform predicate. -/
  | jmpc (core : Fin 272) (grp : Fin 16) (ecc : Ecc)
  /-- JMPI (R169): Indirect jump to the address in a uniform register. -/
  | jmpi (core : Fin 272) (grp : Fin 16) (ecc : Ecc)
  /-- EXIT (R145): Clears exiting lanes from every mask and ends the group when none are left. -/
  | exit (core : Fin 272) (grp : Fin 16) (ecc : Ecc)
  /-- TRAP (R170): Takes trap 0x0E with the instruction's code as detail. -/
  | trap (core : Fin 272) (grp : Fin 16) (ecc : Ecc)
  /-- NOP (R156): Issues with no effect. -/
  | nop (core : Fin 272) (grp : Fin 16) (ecc : Ecc)
  /-- BAR_SYNC (R146): Arrives at a barrier and waits for its phase to complete. -/
  | barSync (core : Fin 272) (grp : Fin 16) (ecc : Ecc)
  /-- BAR_ARRIVE (R146): Arrives at a barrier without waiting. -/
  | barArrive (core : Fin 272) (grp : Fin 16) (ecc : Ecc)
  /-- EPOCH_RD (R170): Writes the committed mode epoch, compatibility mode and active table bank to a uniform register. -/
  | epochRd (core : Fin 272) (grp : Fin 16) (ecc : Ecc)
  /-- SF_EVAL (R172): Evaluates a built-in or loadable special function per lane under the bank and mode in force at issue. -/
  | sfEval (core : Fin 272) (grp : Fin 16) (ecc : Ecc)
  /-- ROWSTAT (R194): Reads a row and writes two exact-then-rounded FP32 statistics to a uniform pair. -/
  | rowstat (core : Fin 272) (grp : Fin 16) (ecc : Ecc)
  /-- INSTRUCTION_FETCH (R158): Fetch buffer refill from the code region, trapping 0x01 for a PC outside it. -/
  | instructionFetch (core : Fin 272) (grp : Fin 16)
  /-- DEVICE_ACCESS_REPLY (R141): A device load or atomic reply returns, or a bus error makes the group take trap 0x08. -/
  | deviceAccessReply (core : Fin 272) (grp : Fin 16)
  /-- BLOCK_START (R132): A work-graph step starts its blocks in the state of Table 7-1 once the stream's previous step has drained. -/
  | blockStart (stream : Fin 64) (step : Nat)
  /-- GROUP_DRAIN_END (R134): When an ended group's tokens reach zero its slot becomes idle, and the block and step end when all groups have drained. -/
  | groupDrainEnd (core : Fin 272) (grp : Fin 16)
  /-- DESCRIPTOR_START (R96): The arrays start the next matrix-queue descriptor when the predecessor's occupancy ends. -/
  | descriptorStart (core : Fin 272)
  /-- DESCRIPTOR_COMPLETE (R102): A matrix or element-wise descriptor's writes become visible; its flags are ORed and its token decremented. -/
  | descriptorComplete (core : Fin 272) (stopRow : Option Nat)
  /-- DMA_START (R110): The DMA engine starts the next DMA-queue descriptor. -/
  | dmaStart (core : Fin 272)
  /-- DMA_COMPLETE (R110): A DMA descriptor completes once every byte is accepted, decrementing its token. -/
  | dmaComplete (core : Fin 272) (lmRow : Option Nat)
  /-- FRAG_MMA_RESULT (R107): FRAG.MMA results reach the bank 68 cycles after start, releasing a stalled FRAG.ROUND. -/
  | fragMmaResult (core : Fin 272)
  /-- LAUNCH_DISPATCH (R119): A Palm launch at the head of the DMA queue is sent with its vectors to every engine of the window. -/
  | launchDispatch (core : Fin 272) (lmError : Bool)
  /-- LAUNCH_START (R122): Each engine checks the launch against Table 6-5 and starts reading weights, preempting context 1 for class 0. -/
  | launchStart (slice : Fin 128) (ev : WeightEv)
  /-- LAUNCH_COMPLETE (R120): Launch outputs become visible; flags are ORed and the token decremented. -/
  | launchComplete (core : Fin 272)
  /-- CONTEXT1_RESUME (R121): A suspended context 1 resumes once context 0 has no launch left. -/
  | context1Resume (slice : Fin 128)
  /-- WINDOW_STAGING_START (R118): A staging or eviction of a window begins once every queued launch for the window has completed. -/
  | windowStagingStart (win : Fin 64)
  /-- RESTAGE_COMPLETE (R127): After an engine loss, dealt shares are restaged and in-flight launch parts are replayed on survivors. -/
  | restageComplete (slice : Fin 128)
  /-- KV_OPEN (R202): Opens a sequence bound to a ring slot and reserves its pages. -/
  | kvOpen (stream : Fin 64)
  /-- KV_APPEND (R202): Advances the fill pointer, allocating tentative pages from the reservation. -/
  | kvAppend (stream : Fin 64)
  /-- KV_COMMIT (R207): Commits kept positions, rolls back the rest, publishes items and writes the status word. -/
  | kvCommit (stream : Fin 64)
  /-- KV_END (R202): Releases every page of the sequence and closes it. -/
  | kvEnd (stream : Fin 64)
  /-- KV_LENGTHS (R210): Writes the length table for a ragged batch of sequences. -/
  | kvLengths (stream : Fin 64)
  /-- SLICE_READ (R222): A read served at its home slice as a hit, a miss allocating a miss register, or a dead read. -/
  | sliceRead (slice : Fin 128) (ev : SramEv)
  /-- SLICE_WRITE (R222): A write served at its home slice, allocating without fetch and removing any filter entry. -/
  | sliceWrite (slice : Fin 128) (ev : SramEv)
  /-- LINE_RETIRE (R231): A retire drops the line's data at its home and enters it in the dead-tag filter. The slice comes with what its SRAM and the Seam deliver. -/
  | lineRetire (slice : Fin 128 × SramEv)
  /-- FILL_ARRIVAL (R224): A fill writes invalid bytes and serves the waiter list in order, multicasting when more than two clusters wait. The slice comes with whether a CRC mismatch on the Seam was replayed (R304). -/
  | fillArrival (slice : Fin 128 × Bool)
  /-- SLICE_FENCE (R236): A fenced slice hands over its lines, deals its buckets and releases held requests to new homes. -/
  | sliceFence (slice : Fin 128)
  /-- BONDED_READ (R244): A bonded channel reads a line with on-die ECC and CRC repeats, returning a bus error if uncorrectable. -/
  | bondedRead (ch : Fin 16) (ev : BcEv)
  /-- BONDED_WRITE (R243): A bonded channel writes masked bytes, listing the line in the lost-write list on failure. -/
  | bondedWrite (ch : Fin 16) (ev : BcEv)
  /-- LPDDR6_READ (R252): An LPDDR6 controller reads a code page, corrects it, checks its tag and decrypts it, merging newer buffered bytes. -/
  | lpddr6Read (ch : Fin 16) (noise : LpNoise)
  /-- LPDDR6_WRITE (R249): A write merges into an open merge-buffer entry or opens a new one. -/
  | lpddr6Write (ch : Fin 16)
  /-- MERGE_ENTRY_TIMEOUT (R249): A merge entry open for 2 µs starts to drain. -/
  | mergeEntryTimeout (ch : Fin 16)
  /-- MERGE_DRAIN_COMPLETE (R249): A draining entry is written as a whole page, by read-modify-write if partial, with counters and tag updated. -/
  | mergeDrainComplete (ch : Fin 16) (noise : LpNoise)
  /-- LEVEL_CODE_PUBLISH (R257): Every 64 cycles a controller publishes per-class level codes to requesters. -/
  | levelCodePublish (ctl : Ctl) (peaks : List Nat)
  /-- LEVEL_CODE_STALE (R258): A code missing for four periods counts as 0b11 for classes 1–7. -/
  | levelCodeStale (kind : Fin 7) (ctl : Ctl)
  /-- BUDGET_WINDOW (R256): Each 4096-cycle window renews class-0 budgets at a controller. -/
  | budgetWindow (ctl : Ctl)
  /-- INTAKE_POLL (R275): The intake engine polls a ring from its scan pointer, answering up to 64 pending slots. -/
  | intakePoll (stream : Fin 64)
  /-- TEST5_READ_COMPLETE (R277): The first 64 bytes of a host-memory body return for test 5. -/
  | test5ReadComplete (stream : Fin 64) (data : Option (List Byte))
  /-- TEST5_READ_TIMEOUT (R287): A test-5 read without completion in 1500 ticks is abandoned and the slot written not-accepted 0x06. -/
  | test5ReadTimeout (stream : Fin 64)
  /-- BODY_COPY_COMPLETE (R277): A host-memory body copy to the result buffer ends and the request may start running. -/
  | bodyCopyComplete (stream : Fin 64) (data : Option (List Byte))
  /-- BODY_COPY_TIMEOUT (R287): A body-copy CXL.cache read without completion after 50,000 ticks fails the request with reason 0x44. -/
  | bodyCopyTimeout (stream : Fin 64)
  /-- COMPLETION_WRITE (R58): The work graph's completion write ends a request complete, or late-by-fault when after its promise. -/
  | completionWrite (stream : Fin 64)
  /-- RECHECK (R62): Within 100 µs of a floor plan or regulator change, re-checks class-0 streams under checks 2–5 and publishes new promises. -/
  | recheck
  /-- FULL_REFIT (R63): Completes a full re-fit of the running image within 200 ms, replacing the re-check's promises. -/
  | fullRefit
  /-- SHADOW_REFIT (R35): Re-fits every shadowed profile in the background after a floor plan or regulator change. -/
  | shadowRefit
  /-- FAULT_CLEARS (R61): A fault ceases to be active when class-0 service has resumed on every stream not shed. -/
  | faultClears
  /-- MAINTENANCE_SLOT (R47): The last 256 cycles of a partition's frame run field self-test and Crown housekeeping. The bonds that mismatch, and the rows that deliver a corrected error as they are copied to their spares (R306). -/
  | maintenanceSlot (part : Fin 4) (mismatch : List Bond) (correctedRows : List Nat)
  /-- FIELD_TEST_TURN (R302): A unit's self-test turn comes due in a pass and takes the next four maintenance slots of its partition. -/
  | fieldTestTurn (index : Fin 144)
  /-- PROFILE_SWITCH (R36): Checks and starts a profile switch in abort or drain mode through the steps of Table 2-10. -/
  | profileSwitch (entry : Fin 32)
  /-- PROFILE_SWITCH_DRAIN_END (R39): In drain mode, the switch proceeds once every accepted request is complete or late-by-fault. -/
  | profileSwitchDrainEnd
  /-- SLOT_WRITE (R31): Writes and verifies an image in a profile slot, refusing the running slot. -/
  | slotWrite (entry : Fin 32) (data : Option (List Byte))
  /-- SLOT_ERASE (R31): Erases a profile slot to state empty. -/
  | slotErase (entry : Fin 32)
  /-- FW_WRITE (R300): Writes and verifies the firmware copy that is not running, giving it the next sequence number. -/
  | fwWrite (entry : Fin 32) (data : Option (List Byte))
  /-- FLASH_WRITE_COMPLETE (R31): A flash program and verification ends and sets the target valid. -/
  | flashWriteComplete
  /-- BUNDLE_LOAD (R353): Reads, checks, unwraps and decrypts a bundle into its home, making it resident. -/
  | bundleLoad (entry : Fin 32) (data : Option (List Byte))
  /-- BUNDLE_STAGE (R42): Copies a resident bundle into its sram_window, evicting another bundle first and building shares. -/
  | bundleStage (entry : Fin 32)
  /-- BUNDLE_EVICT (R117): Removes a staged bundle and its share records from its window. -/
  | bundleEvict (entry : Fin 32)
  /-- STAGE_AT_START (R41): A stage_at_start bundle is staged as soon as it is resident, ending the stream's hold. -/
  | stageAtStart (ref : Fin 1024)
  /-- SF_TABLE_LOAD (R187): Writes table records into every enabled core's shadow bank. -/
  | sfTableLoad (entry : Fin 32) (data : Option (List Byte)) (fwd : List FwdLoss)
  /-- SF_COMMIT (R188): Swaps banks and sets compatibility mode on every core as one mode epoch. -/
  | sfCommit (entry : Fin 32)
  /-- HOST_WINDOW_BIND (R282): Binds or unbinds a host-memory window to a host physical base and size. -/
  | hostWindowBind (entry : Fin 32)
  /-- RESET_UNIT (R317): Requests a partial reset of one unit through its Cuff. -/
  | resetUnit (entry : Fin 32)
  /-- MODULE_RESET (R384): Requests a warm reset of the module, writing complete before it begins. -/
  | moduleReset (entry : Fin 32) (env : BootEnv)
  /-- LINING_WRITE (R322): Writes an operator backup register 12–15 of the Lining. -/
  | liningWrite (entry : Fin 32)
  /-- PROV_CLAIM (R342): Registers an operator credential from the management port on an unprovisioned module. -/
  | provClaim (entry : Fin 32)
  /-- SIGNER_SET (R344): Authorised command registering an image signer in a free slot. -/
  | signerSet (entry : Fin 32)
  /-- SIGNER_CLEAR (R344): Authorised command clearing a registered signer slot. -/
  | signerClear (entry : Fin 32)
  /-- FLOOR_RAISE (R347): Authorised command raising a signer or firmware security_version floor. -/
  | floorRaise (entry : Fin 32)
  /-- SETTING_WRITE (R346): Authorised command writing a provisioning setting for the next boot. -/
  | settingWrite (entry : Fin 32)
  /-- OPERATOR_REPLACE (R358): Authorised command replacing the operator credential and ending any Visor session. -/
  | operatorReplace (entry : Fin 32)
  /-- PROV_RELEASE (R343): Authorised command marking release pending for the next cold reset. -/
  | provRelease (entry : Fin 32)
  /-- VISOR_OPEN (R357): Authorised command incrementing the debug epoch and opening a Visor session. -/
  | visorOpen (entry : Fin 32)
  /-- VISOR_CLOSE (R358): Ends the Visor session, disabling breakpoints and resuming halted groups. -/
  | visorClose (entry : Fin 32)
  /-- VISOR_SESSION_EXPIRY (R358): The session's duration runs out and it ends as VISOR_CLOSE does. -/
  | visorSessionExpiry
  /-- VISOR_HALT (R152): Halts the selected group within 64 cycles unless refused. -/
  | visorHalt
  /-- VISOR_RESUME (R153): Resumes the selected halted group. -/
  | visorResume
  /-- VISOR_STEP (R153): Issues exactly one instruction of the halted group and halts it again. -/
  | visorStep (ecc : Ecc)
  /-- VISOR_ABORT (R153): Aborts the selected group's block as R149 does. -/
  | visorAbort
  /-- VISOR_ACCESS_LOAD (R154): Loads VIS_DATA from the selected group's register, PC, mask, stack or token. -/
  | visorAccessLoad (value : Word)
  /-- VISOR_ACCESS_STORE (R154): Stores VIS_DATA into the selected halted group's state, marking the epoch altered. -/
  | visorAccessStore (value : Word)
  /-- CORE_SW_RESET (R317): A Crown write to CORE_CTRL.sw_reset requests a core reset. -/
  | coreSwReset (core : Fin 272)
  /-- PALM_SW_RESET (R317): A Crown write to PALM_CTRL.sw_reset requests an engine reset. -/
  | palmSwReset (slice : Fin 128)
  /-- SLICE_SW_RESET (R317): A Crown write to SLC_CTRL.sw_reset requests a slice reset. -/
  | sliceSwReset (slice : Fin 128)
  /-- CONTROLLER_SW_RESET (R317): A Crown write to BC_CTRL or LP_CTRL sw_reset requests a controller reset. -/
  | controllerSwReset (lpddr : Bool) (ch : Fin 16)
  /-- FIT_COUNT_LO_READ (R43): A read of FIT_COUNT_LO returns the low intake counter and latches the high half. -/
  | fitCountLoRead
  /-- W1C_CLEAR_WRITE (R366): Writing 1 to a W1C field clears it unless a set falls in the same cycle. -/
  | w1cClearWrite (offset : BitVec 28) (value : Word) (sets : Word)
  /-- REGISTER_WRITE (R263): A write to a register with no row of its own takes effect or is ignored and counted. -/
  | registerWrite (offset : BitVec 28) (value : Word)
  /-- COMMAND_PAGE_POLL (R280): Every 10 µs the Crown takes up to four posted command entries, management entries first. -/
  | commandPagePoll
  /-- HOST_COMMAND_ENTRY_WRITE (R281): A host write to a command entry is judged against its state and taken or discarded. -/
  | hostCommandEntryWrite (entry : Fin 16) (offset : Fin 256) (bytes : List Byte)
  /-- HOST_MEM_READ (R267): A host CXL.mem read passes the HDM firewall per line and enters the host-line directory. -/
  | hostMemRead (offset : BitVec 40) (len : Nat)
  /-- HOST_MEM_WRITE (R267): A host CXL.mem write passes the HDM firewall per line at its window's class. -/
  | hostMemWrite (offset : BitVec 40) (bytes : List Byte)
  /-- CONFIG_WRITE (R264): A configuration write is taken within the rate limit or discarded and counted. -/
  | configWrite (offset : BitVec 12) (value : Word)
  /-- BI_RESPONSE (R270): The host answers a back-invalidation, its modified data applied as a host write. -/
  | biResponse (line : Nat) (data : Option (List Byte))
  /-- BI_TIMEOUT (R271): A back-invalidation unanswered for 4000 ticks counts as answered with no data. -/
  | biTimeout (line : Nat)
  /-- LINK_DOWN (R284): Link loss clears the directory, unbinds host windows, fails body copies and starts retraining. -/
  | linkDown
  /-- LINK_UP (R284): The link trains at the best width and rate. -/
  | linkUp (width : Nat) (rate : Nat)
  /-- HOT_RESET (R285): Hot reset, secondary bus reset, link disable or FLR resets host-link state, and under policy 1 warm-resets. -/
  | hotReset (kind : HotReset) (env : BootEnv)
  /-- IDE_KEY_PROG (R351): A KEY_PROG in a DOE session derives and programs IDE keys, refusing a non-zero key field. -/
  | ideKeyProg (session : Nat) (ide : IdeStream) (key : List Byte)
  /-- IDE_K_SET_STOP (R351): Stops the programmed IDE key set. -/
  | ideKSetStop (session : Nat) (ide : IdeStream)
  /-- IDE_INTEGRITY_FAILURE (R286): An IDE check failure returns the module to the unkeyed state. -/
  | ideIntegrityFailure
  /-- MGMT_DATAGRAM (R289): A management-port datagram is checked and discarded or dispatched. -/
  | mgmtDatagram (bytes : List Byte)
  /-- MGMT_DISCOVERY (R288): Answers discovery with part_id, stepping and firmware version. -/
  | mgmtDiscovery (seq : Word)
  /-- MGMT_COMMAND (R288): A secured management message posting a command in a management entry. -/
  | mgmtCommand (session : Nat) (entry : Fin 16) (bytes : List Byte)
  /-- MGMT_STATUS_QUERY (R288): A secured management message querying a management entry's status. -/
  | mgmtStatusQuery (session : Nat) (entry : Fin 16)
  /-- MGMT_CONTROL_READ (R288): A secured management message reading 1–64 control-space words. -/
  | mgmtControlRead (session : Nat) (offset : BitVec 28) (count : Nat)
  /-- GET_VERSION (R289): SPDM request for supported versions. -/
  | getVersion (port : Port)
  /-- GET_CAPABILITIES (R289): SPDM request for capabilities. -/
  | getCapabilities (port : Port)
  /-- NEGOTIATE_ALGORITHMS (R289): SPDM algorithm negotiation. -/
  | negotiateAlgorithms (port : Port)
  /-- GET_DIGESTS (R289): SPDM request for certificate digests. -/
  | getDigests (port : Port)
  /-- GET_CERTIFICATE (R289): SPDM request for the slot-0 certificate chain. -/
  | getCertificate (port : Port) (slot : Nat) (offset : Nat) (len : Nat)
  /-- CHALLENGE (R289): SPDM challenge signed with the identity key. -/
  | challenge (port : Port) (nonce : BitVec 256)
  /-- GET_MEASUREMENTS (R348): Returns signed measurements taken from one snapshot. -/
  | getMeasurements (port : Port) (nonce : BitVec 256)
  /-- KEY_EXCHANGE (R350): Starts an SPDM session, refused beyond four per transport. -/
  | keyExchange (port : Port) (exchange : List Byte)
  /-- FINISH (R289): Completes SPDM session establishment. -/
  | finish (port : Port) (session : Nat) (valid : Bool)
  /-- END_SESSION (R350): Ends an SPDM session. -/
  | endSession (port : Port) (session : Nat)
  /-- HEARTBEAT (R350): SPDM heartbeat keeping a session alive. -/
  | heartbeat (port : Port) (session : Nat)
  /-- KEY_UPDATE (R350): SPDM session key update. -/
  | keyUpdate (port : Port) (session : Nat)
  /-- SESSION_TIMEOUT (R350): A session with no traffic for 180 s ends. -/
  | sessionTimeout (port : Port) (session : Nat)
  /-- POWER_ON_RESET (R325): Input within 42–60 V for 100 ms powers up the rails and releases cold reset. -/
  | powerOnReset (env : BootEnv)
  /-- IMAGE_START (R291): Boot step 14 fits and starts the active image once step 10 and step 13 have ended, making the module ready. -/
  | imageStart
  /-- BOOT_WATCHDOG_EXPIRY (R295): A boot step's limit expires and the watchdog warm-resets with cause 0x03. -/
  | bootWatchdogExpiry (env : BootEnv)
  /-- FWD_ANSWER_TIMEOUT (R307): A receiver not answering a close within 20 µs counts as an empty bitmap. -/
  | fwdAnswerTimeout (unit : Receiver)
  /-- RESET_N_ASSERT (R373): A low on RESET_N of at least 1 µs requests a warm reset. -/
  | resetNAssert (ns : Nat) (taken : Bool) (env : BootEnv)
  /-- RESET_N_RELEASE (R373): RESET_N going high lets a held reset proceed past step 4 or cold reset release. -/
  | resetNRelease (env : BootEnv)
  /-- WARM_RESET_CROWN_TIMEOUT (R309): If the Crown does not answer step 3 within 1 ms the reset proceeds without it. -/
  | warmResetCrownTimeout (env : BootEnv)
  /-- FLASH_PULSE_END (R312): A delayed reset enters step 4 when the flash program or erase pulse ends. -/
  | flashPulseEnd (env : BootEnv)
  /-- CUFF_TIMEOUT (R314): A Cuff reaching its drain timeout absorbs what is left and resets the block. -/
  | cuffTimeout (unit : UnitRef)
  /-- PARTIAL_RESET_COMPLETE (R318): A unit leaves partial reset, its kept state restored and held requests released. -/
  | partialResetComplete (unit : UnitRef)
  /-- PARTIAL_RESET_TIMEOUT (R320): Held requests unreleased at 200 µs receive a bus error and the unit is fenced. -/
  | partialResetTimeout (unit : UnitRef)
  /-- UNIT_POLL_TIMEOUT (R362): A unit failing to answer a Crown status poll for 50 µs is reset as fault recovery, or fenced on a second time. -/
  | unitPollTimeout (unit : UnitRef)
  /-- FATAL_RESET_TIMER (R360): 10 ms after a fatal error the Crown warm-resets with cause 0x04. -/
  | fatalResetTimer (env : BootEnv)
  /-- CROWN_LOCKSTEP_MISMATCH (R360): The reset controller drives FAULT_N low, sets lockstep and warm-resets within 10 µs. -/
  | crownLockstepMismatch
  /-- INPUT_UNDERVOLTAGE (R325): Input below 40 V for 1 ms or below 36 V powers the module down as a trip. -/
  | inputUndervoltage
  /-- INPUT_OVERVOLTAGE (R325): Input above 62 V powers the module down as a trip. -/
  | inputOvervoltage
  /-- BUS_CONVERTER_FAIL (R324): A bus converter loss throttles classes 1–7 to level 4, cuts available current and is a fault. -/
  | busConverterFail (conv : Fin 2)
  /-- STAGE_TWO_PHASE_LOSS (R323): A lost VCMP or VCACHE phase reduces available current, published in PWR_AVAIL. -/
  | stageTwoPhaseLoss (vcache : Bool)
  /-- ON_DIE_PHASE_LOSS (R327): A lost on-die phase halves the cluster clock, or on a second loss fences the cluster. -/
  | onDiePhaseLoss (cluster : Fin 68) (phase : Fin 4)
  /-- REGION_SWITCH_ON (R328): A cluster region is admitted to switch on when headroom covers its in-rush estimate. -/
  | regionSwitchOn (cluster : Fin 68) (measured : Nat)
  /-- SWITCH_ON_FORCED (R328): A region waiting 150 µs is admitted whatever the headroom, with classes 4–7 skipping cycles. -/
  | switchOnForced (cluster : Fin 68)
  /-- THERMAL_SAMPLE (R334): A diode reading updates its partition and moves throttle levels of classes 1–7 and class 0. -/
  | thermalSample (diode : Fin 24) (reading : Option (BitVec 16))
  /-- THERMISTOR_SAMPLE (R338): A 1 ms thermistor reading compares NTC0 with inlet_max and sets env_inlet. -/
  | thermistorSample (input : Fin 4) (reading : Option (BitVec 16))
  /-- POWER_SAMPLE (R337): A 100 µs input-power average enforces power_cap and env_input. -/
  | powerSample (watts : BitVec 16) (volts : BitVec 16)
  /-- RNG_HEALTH_FAIL (R352): A random-source health failure clears rng_ok and refuses new SPDM sessions. -/
  | rngHealthFail
  /-- MODE_PREPARE_COMPLETE (R367): Once every participant acknowledges prepare, the Crown broadcasts commit. -/
  | modePrepareComplete
  /-- MODE_COMMIT_COMPLETE (R367): The last commit acknowledgement completes the mode change. -/
  | modeCommitComplete
  /-- MODE_PREPARE_TIMEOUT (R367): A missing prepare acknowledgement after 1 ms rolls back the change. -/
  | modePrepareTimeout
  /-- MODE_COMMIT_TIMEOUT (R368): A participant missing its commit acknowledgement after 1 ms is fenced. -/
  | modeCommitTimeout (late : List Receiver)
  /-- CROWN_WATCHDOG_EXPIRY (R309): The Crown watchdog expires on a Crown firmware hang in service and warm-resets the module with cause 0x03. -/
  | crownWatchdogExpiry
  /-- CONTROL_STATE_UNCORRECTABLE (R362): A slice controller, Palm engine, memory controller or core reports an uncorrectable error in its own control state, and the Crown resets it as fault recovery or fences it on a second time. -/
  | controlStateUncorrectable (unit : UnitRef)
  /-- FENCE_BY_CROWN_COMMAND (R19): A Crown command fences a unit, or every enabled core of a cluster, with reason 0x07. -/
  | fenceByCrownCommand (unit : UnitRef)
  /-- MGMT_PORT_SYNC_GAINED (R288): The 1000BASE-X management link completes Clause 37 auto-negotiation and synchronises, setting HLK_MGMT.up. -/
  | mgmtPortSyncGained
  /-- MGMT_PORT_SYNC_LOST (R288): The 1000BASE-X management link loses synchronisation, clearing HLK_MGMT.up. -/
  | mgmtPortSyncLost
  /-- OPTICAL_LANE_FAILURE (R378): A host lane whose received power falls below sensitivity is treated as failed and the link down-trains to ×8 or ×4. -/
  | opticalLaneFailure (lane : Fin 16)
  /-- MALFORMED_TLP_OR_FLIT (R283): A malformed TLP or flit, or an unsupported request, is dropped or answered as unsupported with AER to the host and a corrected event. -/
  | malformedTlpOrFlit (answered : Bool)
  /-- IDE_K_SET_GO (R351): The CXL IDE key-set switch activates the programmed keys, establishing IDE or completing a rekey. -/
  | ideKSetGo (session : Nat) (ide : IdeStream)
  /-- DOE_DISCOVERY (R262): A DOE Discovery request on the mailbox is answered with the supported protocols. -/
  | doeDiscovery (index : Nat)
  /-- CDAT_TABLE_ACCESS (R262): A DOE Table Access request for CDAT is answered with the table. -/
  | cdatTableAccess (handle : Nat)
  /-- ARP_REQUEST (R288): An ARP request on the management port is answered. -/
  | arpRequest (target : BitVec 32)
  /-- NEIGHBOUR_SOLICITATION (R288): An IPv6 neighbour-discovery solicitation on the management port is answered. -/
  | neighbourSolicitation (target : BitVec 128)
  /-- ICMP_ECHO_REQUEST (R288): An ICMP echo request on the management port is answered. -/
  | icmpEchoRequest (payload : List Byte)
  /-- REGION_SWITCH_ON_END (R328): A region's 64 header stages end after 24 µs, ending any class 4–7 cycle skipping and letting the next waiting region be admitted. -/
  | regionSwitchOnEnd (cluster : Fin 68)
deriving DecidableEq, Repr

end Sys2Proof
end

