-- ==== Sys2Proof/Decode.lean ====
section
/-! DEFINITION. The host's reading of an opcode-table word. No row of spec/opcode_table.json gives bits (the
module takes commands, not words), so no word spells a command. -/

namespace Sys2Proof

/-- The command a word spells by the table's bits: none, since no row has any. -/
def decodeTableWord (_nbits _w : Nat) : Option Instr := none

end Sys2Proof
end

