-- ==== Sys2Proof/Config.lean ====
section
/-! DEFINITION. What one implementation fixes and the spec does not state: uninterpreted constants
without a body, so that nothing can be proved of their values, and the few numbers that size the part. -/

namespace Sys2Proof.Config

/-- A value the spec leaves open, drawn at a counter of State (free value, log 8): which byte a racing
descriptor reads (R101), what a lane at or beyond M or N receives (5.7). -/
opaque freeByte : Nat → Byte

/-- A 32-bit free value (log 8). -/
opaque freeWord : Nat → Word

/-- A draw of the on-chip random source (R352): memory keys, session ephemerals, nonces (log 8). -/
opaque random : Nat → BitVec 256

/-- The mask ROM coefficients c0 and c1 of a built-in function: `rom compat fn segment` (9.2, 9.5).
The spec states only a few of them (R181); the rest are free (log 7). -/
opaque rom : Bool → Nat → Nat → Word × Word

/-- The identity public key (Table 17-1), made at manufacture (log 7). -/
opaque identityKey : Nat × Nat

/-- The private scalar of the binding key (Table 17-1), made at manufacture (log 7). -/
opaque bindingScalar : Nat

/-- The public Civelith firmware key (R299), whose digest lies in mask ROM (log 7). -/
opaque firmwareKey : Nat × Nat

/-- The identity key's signature over a message (17.3); the draw is the random nonce's (log 7). -/
opaque identitySign : Nat → List Byte → List Byte

/-- The export master secret of an SPDM session by the draw of its ephemeral key (R351, log 8). -/
opaque exportSecret : Nat → List Byte

/-- The certificate chain of slot 0 (Table 17-5), written at manufacture (log 7). -/
opaque certChain : List Byte

/-- The digest of the mask ROM (Table 17-6, index 1; log 7). -/
opaque romDigest : List Byte

/-- The CDAT table the DOE mailbox answers with (Table 13-1); its content is not given (log 7). -/
opaque cdatTable : List Byte

/-- Civelith's PCI-SIG Vendor ID (13.1); the number is not given (log 7). -/
opaque vendorId : BitVec 16

/-- The payload of an SPDM response whose bytes DMTF SPDM 1.2 fixes and the spec does not restate,
by the request's code and the draw (log 7). -/
opaque spdmPayload : Nat → Nat → List Byte

/-- The bytes of the firmware copy the module was delivered with (2.4; log 5). -/
opaque deliveredFirmware : List Byte

/-- Its version (Table 14-6; log 5). -/
opaque deliveredFirmwareVersion : Nat

/-- Its security_version (Table 14-6; log 5). -/
opaque deliveredFirmwareSecurity : Nat

/-- The clock of an LPDDR6 controller in kHz; the spec gives its pins' rate only (R256; log 7). -/
opaque lpClockKHz : Nat

/-- The VCMP and VCACHE current that one bus converter's 650 W supports at an input_min in 0.1 V (R324); the
figure is not given (log 31). -/
opaque oneConverterAmps : Nat → Nat × Nat

/-- Ticks from the broadcast of a prepare or commit until a participant of a mode change acknowledges it, by twice the tick of
the broadcast, plus 1 for a commit, and the participant's number: the spec gives no time below 1 ms (R367; log 42). -/
opaque ackDelay : Nat → Nat → Nat

/-- Current of a rail in 0.1 A as PWR_RAIL measures it, by rail and tick (log 32). -/
opaque railCurrent : Nat → Nat → BitVec 16

/-- The set point of VCACHE in millivolts; the figure is not given as one value (log 32). -/
opaque vcacheMillivolts : BitVec 16

/-- Content the spec does not define: the Crown firmware's part of the Lining and its backup registers, by the
tick at which Crown firmware last ran and offset (log 33). -/
opaque crownState : Nat → Nat → Word

/-- A correction record of the Lining (Table 15-7), whose layout the spec does not give: by core, structure, row and byte
of the record (log 33). -/
opaque correctionByte : Nat → Nat → Nat → Nat → Byte

/-! The module's sizes (Table 1-2). -/

/-- Cores, numbered 0 to 271. -/
def cores : Nat := 272
/-- Clusters C00 to C67. -/
def clusters : Nat := 68
/-- Slices S000 to S127. -/
def slices : Nat := 128
/-- Channels of each tier. -/
def channels : Nat := 16

end Sys2Proof.Config
end

