-- ==== Sys2Proof/Machine/State.lean ====
section
/-! DEFINITION. The state of the module as plain data, every field with its reset value, and the state
right after a cold reset. Tables are sparse (`Tab`): the value of an unlisted key is the reset value of
the thing tabled, named where the table is read (Machine/Access.lean). Times are ticks of the intake
counter (R43). A field without a word of its own holds the register field or structure field of its
name in the table its comment cites. -/

namespace Sys2Proof.Machine

/-- No command stops the module: every error of the spec is a trap, a bus error, a status, an event or a
reset, all of them effects on State (18, Table 18-1). So this type has no constructor. Safe. -/
inductive Fault where
deriving DecidableEq, Repr

/-- Why a command is not run. -/
inductive Refusal where
  /-- Raised only by an arm of exec whose command has no meaning yet; safe. -/
  | notModelled (mnemonic : String)
deriving DecidableEq, Repr

/-! ### The floor plan (01) -/

/-- The floor plan record (Table 1-8): states by physical number, 0 where not listed. Counts, crc and
delivered are computed from it. -/
structure FloorPlan where
  generation : Nat := 0
  cluster : Tab Nat := []
  core : Tab Nat := []
  slice : Tab Nat := []
  bc : Tab Nat := []
  lp : Tab Nat := []
  seamSpared : Nat := 0
  dramSpared : Nat := 0
  changedAt : Nat := 0
  /-- slice_set: bit n is 1 when set B carries the port of slice n. -/
  sliceSet : Nat := 0
  bcSet : Nat := 0
deriving DecidableEq, Repr

/-- A floor plan delta (Table 1-9). -/
structure Delta where
  generation : Nat := 0
  unitType : Nat := 0
  unitId : Nat := 0
  old : Nat := 0
  new : Nat := 0
  reason : Nat := 0
  detail : Nat := 0
  stamp : Nat := 0
deriving DecidableEq, Repr

/-- The floor plan in force, the delivered one, the delta ring and FLP_STATUS. -/
structure FloorSt where
  cur : FloorPlan := {}
  delivered : FloorPlan := {}
  deltas : Tab Delta := []
  next : Nat := 0
  changedSets : Nat := 0
  changed : Bool := false
  /-- Changes put off to the end of a switch (R39): unit_type, id, new state, reason, detail. -/
  deferred : List (Nat × Nat × Nat × Nat × Nat) := []
deriving DecidableEq, Repr

/-! ### Cores and thread groups (05, 07, 09) -/

/-- A completion token (5.5). -/
structure Token where
  count : Nat := 0
  flags : Nat := 0
  err : Bool := false
  /-- Reason the error gives a request (R150): 9, 8 or 3; 0 without an error. -/
  why : Nat := 0
deriving DecidableEq, Repr

/-- A reconvergence stack entry (7.5). -/
structure StackEnt where
  pc : Word
  mask : Word
  stop : Option Word
deriving DecidableEq, Repr

/-- The atomic operations of 7.4. -/
inductive AtomOp where
  | add | minS | maxS | minU | maxU | and | or | xor | xchg | cas | fadd
deriving DecidableEq, Repr

/-- Who a request is answered to. -/
inductive Src where
  /-- Lane `lane` of access `acc` of a group. -/
  | group (core grp acc lane : Nat)
  /-- Nobody waits for it. -/
  | none
deriving DecidableEq, Repr

/-- What a request asks of its line. -/
inductive ReqKind where
  | read
  | write (bytes : List Byte)
  | retire
  /-- Lane, operand and compare value of each lane, in ascending lane order (R142). -/
  | atomic (op : AtomOp) (lanes : List (Nat × Nat × Nat))
deriving DecidableEq, Repr

/-- A request to a home slice; its bytes lie in one line. -/
structure Req where
  src : Src
  kind : ReqKind
  addr : Nat
  len : Nat
  cls : Nat
deriving DecidableEq, Repr

/-- An outstanding device access of a group: where it was issued, its destination registers (`regs`
of them from `rd`, 0 for none), and what has come back (R141, R174). -/
structure DevAcc where
  id : Nat
  pc : Word
  rd : Nat
  regs : Nat
  size : Nat
  sext : Bool
  /-- It is a load (FENCE.D does not wait for it). -/
  load : Bool
  /-- Requests not yet answered. -/
  left : Nat
  /-- Home slices and requests that have still to be issued, oldest first (R258). -/
  unsent : List (Nat × Req)
  /-- Lane and value. -/
  got : List (Nat × Nat)
  /-- Lane and detail of the lowest lane that met a bus error. -/
  err : Option (Nat × Nat)
deriving DecidableEq, Repr

/-- What a group slot is doing (CORE_GSTATE.state, the waits apart). -/
inductive GState where
  | idle
  | running
  | halted
  | trapped
  | draining
deriving DecidableEq, Repr

/-- What stalls a running group at its PC. -/
inductive Stall where
  | none
  /-- WAIT with test 0 on these tokens, its result for this register (R167). -/
  | tokens (rd mask : Nat)
  /-- BAR.SYNC at a barrier (R146). -/
  | barrier (b : Nat)
  /-- The instruction could not go on (a full queue, a token at 15, no bank, a fence); it is tried again
  by the same command. -/
  | retry
deriving DecidableEq, Repr

/-- A thread group slot. -/
structure Group where
  st : GState := .idle
  stall : Stall := .none
  /-- Base slot and group count of the block. -/
  base : Nat := 0
  size : Nat := 0
  pc : Word := 0
  mask : Word := 0
  live : Word := 0
  stop : Option Word := none
  stack : List StackEnt := []
  /-- v registers; key 32 × register + lane. -/
  v : Tab Word := []
  u : Tab Word := []
  tokens : Tab Token := []
  /-- The fetch buffer (R158): 64-byte units, newest first, at most four. -/
  fetch : List (Nat × List Byte) := []
  /-- The descriptor error to be taken at the next instruction: its token and reason (R167, R150). -/
  pend : Option (Nat × Nat) := none
  outst : List DevAcc := []
  nextAcc : Nat := 0
  trapCode : Nat := 0
  trapDetail : Nat := 0
  trapLane : Nat := 0
  /-- Reason that a descriptor error gave the trap (R150); 0 for none. -/
  trapWhy : Nat := 0
  /-- halt_cause of VIS_GSTATUS. -/
  haltCause : Nat := 0
  stepDone : Bool := false
  /-- Issue the instruction at a breakpoint without matching it again (R153). -/
  skipBp : Bool := false
  /-- The Visor steps the group: it halts once it has issued one instruction (R153). -/
  stepping : Bool := false
  /-- Barriers at which the group has arrived in the current phase (bits). -/
  arrived : Nat := 0
  /-- Stream and ring slot of the request the block serves. -/
  req : Option (Nat × Nat) := none
deriving DecidableEq, Repr

/-- An accumulator with its sticky states (R74, R77, R79; Table 4-6). -/
structure Acc where
  v : Int := 0
  nan : Bool := false
  pinf : Bool := false
  ninf : Bool := false
  nanGen : Bool := false
  /-- A NaN element or a 0xFF scale code was among the causes of nan; no bit of a record (Table 4-5; log 17). -/
  nanIn : Bool := false
  tr : Bool := false
  of96 : Bool := false
deriving DecidableEq, Repr

/-- A fragment accumulator bank of A0 (5.7). -/
structure Bank where
  owner : Option Nat := none
  m : Nat := 0
  n : Nat := 0
  k : Nat := 0
  fmtA : Nat := 0
  fmtB : Nat := 0
  /-- Columns of the loaded tile, each its K element codes; none before a FRAG.LDB. -/
  tile : Option (List (List Nat)) := none
  /-- Key 32 × row + column. -/
  acc : Tab Acc := []
  /-- Products of FRAG.MMAs still in flight, oldest first, each with its number in the core's order of starting. -/
  flight : List (Nat × Tab Acc) := []
deriving DecidableEq, Repr

/-- A barrier (7.6). -/
structure Barrier where
  owned : Bool := false
  base : Nat := 0
  phase : Bool := false
  /-- Groups that have arrived (bits by slot). -/
  arrived : Nat := 0
deriving DecidableEq, Repr

/-- A breakpoint of a core (VIS_BP_ADDR, VIS_BP_MASK). -/
structure BreakP where
  enable : Bool := false
  addr : Nat := 0
  groups : Nat := 0
deriving DecidableEq, Repr

/-- A queued descriptor or launch: the issuing group and the descriptor's 64 bytes. A launch (`palm`) whose
bytes met an uncorrectable error when they were read is `bad` (Table 6-5, cause 0x20). -/
structure QEnt where
  grp : Nat
  bytes : List Byte
  palm : Bool := false
  bad : Bool := false
deriving DecidableEq, Repr

/-- A started descriptor, and what local-memory bytes held that have been written since: address and byte before each
write, oldest first (R101). -/
structure RunDesc where
  ent : QEnt
  /-- Tick of its start. -/
  since : Nat := 0
  seen : List (Nat × Byte) := []
  /-- A DMA row whose request a slice's Cuff held until it was answered with a bus error (R320). -/
  cut : Option Nat := none
deriving DecidableEq, Repr

/-- A loadable table (Table 9-4). -/
structure TblRec where
  segLog2 : Nat := 4
  below : Nat := 0
  above : Nat := 0
  symmetry : Nat := 0
  postMul : Bool := false
  lo : Word := 0
  q : Int := 0
  /-- c0 and c1 of each segment. -/
  coef : List (Word × Word) := []
deriving DecidableEq, Repr

/-- The special-function unit of a core (9.4, 9.7). -/
structure Sfu where
  epoch : Nat := 0
  loading : Bool := false
  compat : Bool := false
  /-- Bank 1 is active. -/
  bank : Bool := false
  bank0 : Tab (Option TblRec) := []
  bank1 : Tab (Option TblRec) := []
  /-- Bank and mode held at prepare (R173). -/
  shadow : Option (Bool × Bool) := none
  evals : Nat := 0
  rows : Nat := 0
  corrected : Nat := 0
  refetched : Nat := 0
  rdSel : Word := 0
deriving DecidableEq, Repr

/-- A core (5.1, 5.10, 7.9, 9.7). -/
structure Core where
  groups : Tab Group := []
  lm : Mem := []
  codeBase : Nat := 0xF0
  mq : List QEnt := []
  dq : List QEnt := []
  mxRun : List RunDesc := []
  dmaRun : List RunDesc := []
  /-- Kind and mode of the descriptor started last (R96). -/
  lastKind : Option (Nat × Nat) := none
  banks : Tab Bank := []
  /-- Tick at which the fragment instructions issued so far can have left A0 (R109; log 23). -/
  a0Free : Nat := 0
  bars : Tab Barrier := []
  mode : Nat := 0
  descSets : Nat := 0
  descGrp : Nat := 0
  descCause : Nat := 0
  descErr : Bool := false
  flagSets : Nat := 0
  numFlags : Nat := 0
  perfDesc : Nat := 0
  perfBusy : Nat := 0
  lmCorrected : Nat := 0
  trapSets : Nat := 0
  trapped : Nat := 0
  sfu : Sfu := {}
  bps : Tab BreakP := []
  hold : Bool := false
  /-- Corrections since boot by structure and row (R306), and spares used by structure (Table 14-7). -/
  rowCorr : Tab Nat := []
  spares : Tab Nat := []
deriving DecidableEq, Repr

/-! ### Palm engines (06) -/

/-- An entry of a matrix table (Table 6-2). -/
structure MatEnt where
  id : Nat
  fmt : Nat
  split : Bool
  source : Bool
  n : Nat
  k : Nat
  stride : Nat
  wOff : Nat
  scOff : Nat
  rmOff : Nat
deriving DecidableEq, Repr

/-- A share record (Table 6-3), with what the Crown notes beside it (log 27): the reference index of its bundle, the bundle's
home, and the matrix table entry. -/
structure Share where
  ref : Nat
  base : Nat
  mat : MatEnt
  matrixId : Nat
  window : Nat
  fmtW : Nat
  split : Bool
  source : Bool
  extra : Bool
  rows : Nat
  outFirst : Nat
  outStride : Nat
  kTotal : Nat
  nTotal : Nat
  wAddr : Nat
  wStride : Nat
  scaleOff : Int
  rmaxOff : Int
  kFirst : Nat
  kBlocks : Nat
  home : Nat
deriving DecidableEq, Repr

/-- A launch in flight: its issuing core and group, its class, its 64 bytes, what local-memory bytes held that have been
written since it was sent (R101), the engines of its window, those that have started it, and its cause. -/
structure Launch where
  core : Nat
  grp : Nat
  cls : Nat
  bytes : List Byte
  seen : List (Nat × Byte) := []
  engines : List Nat
  started : List Nat
  cause : Nat
  /-- An engine of its window left service while it was in flight, and its part runs again (R127). -/
  moved : Bool := false
deriving DecidableEq, Repr

/-- A Palm engine (6.8). Queues hold launch numbers. -/
structure Engine where
  q0 : List Nat := []
  q1 : List Nat := []
  run0 : Option Nat := none
  run1 : Option Nat := none
  suspended : Bool := false
  shares : List Share := []
  restaging : Bool := false
  errSets : Nat := 0
  cause : Nat := 0
  errCore : Nat := 0
  err : Bool := false
  flagSets : Nat := 0
  flags : Nat := 0
  launches : Nat := 0
  readCycles : Nat := 0
  refetches : Nat := 0
  replays : Nat := 0
deriving DecidableEq, Repr

/-! ### Slices and memory (11, 12) -/

/-- A line of a slice (11.1, R222): its line number, byte mask, bytes by offset, dirty and poison marks,
window and age (larger is more recent). -/
structure Line where
  present : Bool := false
  no : Nat := 0
  valid : Nat := 0
  data : Mem := []
  dirty : Bool := false
  poison : Bool := false
  win : Option Nat := none
  /-- Protected as a line of a persistent or slice-local window (R223, R229). -/
  prot : Bool := false
  age : Int := 0
  cls : Nat := 0
deriving DecidableEq, Repr

/-- A miss register (11.3). -/
structure Miss where
  line : Nat
  waiters : List Req
deriving DecidableEq, Repr

/-- A slice and its controller (11.8), its port's lane groups (1.3) among it. -/
structure Slice where
  /-- Key 16 × set + way. -/
  lines : Tab Line := []
  ageHi : Int := 0
  ageLo : Int := 0
  miss : List Miss := []
  inq : List Req := []
  /-- Requests that a Cuff or a limit holds at their sources, oldest first (R314, R258). -/
  held : List Req := []
  /-- Fills that have come back: line number and its 256 bytes, none for a bus error. -/
  rets : List (Nat × Option (List Byte)) := []
  /-- Dead-tag filter, oldest first: line number and window (0xFF for none). -/
  filter : List (Nat × Nat) := []
  hits : Tab Nat := []
  misses : Tab Nat := []
  merges : Tab Nat := []
  mcasts : Tab Nat := []
  deadSets : Nat := 0
  deadReads : Nat := 0
  deadBit : Bool := false
  deadLine : Nat := 0
  demoted : Nat := 0
  overflows : Nat := 0
  corrected : Nat := 0
  refetched : Nat := 0
  poisonSets : Nat := 0
  codes : Nat := 0
  /-- Lane groups with a failed bond and which bond it is: a lane the spare stands in for, or 32, the spare itself. -/
  spared : List (Nat × Nat) := []
  /-- Sets out of service (bit 0 A, bit 1 B). -/
  setsDown : Nat := 0
  /-- The Cuff has isolated the slice for fencing: reason and detail of the change to come. -/
  fencing : Option (Nat × Nat) := none
  /-- Corrections since boot of each SRAM row, and the rows that wait for repair (R306). -/
  rowCorr : Tab Nat := []
  rowsDue : List Nat := []
  /-- Spare rows and columns used (Table 14-7). -/
  rowsUsed : Nat := 0
  colsUsed : Nat := 0
  /-- Class-0 bytes served in the budget window (R256). -/
  budgetUsed : Nat := 0
  /-- Requests served by weighted round robin in the window, by class (R256). -/
  turns : Tab Nat := []
  /-- The highest use of each class's part of the request queue in the period (R257). -/
  peak : Tab Nat := []
deriving DecidableEq, Repr

/-- A request at a memory controller: a line, the slice that asked, a read or a masked write. -/
structure MemReq where
  line : Nat
  slice : Nat
  cls : Nat
  /-- Offset in the line and byte. -/
  write : Option (List (Nat × Byte))
deriving DecidableEq, Repr

/-- A merge-buffer entry (12.4). -/
structure MergeEnt where
  page : Nat
  opened : Nat
  draining : Bool
  data : Mem
  valid : Nat
  cls : Nat
deriving DecidableEq, Repr

/-- A bonded or LPDDR6 controller (12.11). -/
structure Ctlr where
  q : List MemReq := []
  /-- Requests that the controller's Cuff holds at their slices, oldest first (R314). -/
  held : List MemReq := []
  /-- Lost-write list (R244): line numbers. -/
  lost : List Nat := []
  /-- 128-bit words of the die that fail its code until written whole (R244), by device address div 16. -/
  bad : List Nat := []
  merge : List MergeEnt := []
  /-- Code pages decoded last, newest first: page and plaintext (R248). -/
  heldPages : List (Nat × List Byte) := []
  corrected : Nat := 0
  aux : Nat := 0
  errSets : Nat := 0
  errCause : Nat := 0
  errCls : Nat := 0
  err : Bool := false
  errLine : Nat := 0
  codes : Nat := 0
  served : Tab Nat := []
  hot : Bool := false
  spared : List (Nat × Nat) := []
  setsDown : Nat := 0
  /-- Class-0 bytes served in the budget window (R256). -/
  budgetUsed : Nat := 0
  /-- Requests served by weighted round robin in the window, by class (R256). -/
  turns : Tab Nat := []
  /-- The highest use of each class's part of the request queue in the period (R257). -/
  peak : Tab Nat := []
deriving DecidableEq, Repr

/-- An LPDDR6 code page as stored: ciphertext, parity symbols and tag (Table 12-4). -/
structure Page where
  cipher : List Byte := []
  parity : List (BitVec 12) := []
  mac : BitVec 128 := 0
deriving DecidableEq, Repr

/-- A version counter entry (Table 12-5): minors and poison bits by page of the entry. -/
structure CtrEnt where
  major : Nat := 0
  minor : Tab Nat := []
  poison : Nat := 0
deriving DecidableEq, Repr

/-- The three memory keys (R250). -/
structure MemKeys where
  k1 : BitVec 256 := 0
  k2 : BitVec 256 := 0
  km : BitVec 256 := 0
deriving DecidableEq, Repr

/-- A regulation record in force (Table 12-10). -/
structure Resv where
  unitType : Nat
  unitId : Nat
  cls : Nat
  entries : Nat
  miss : Nat
  bandwidth : Nat
deriving DecidableEq, Repr

/-- Traffic regulation (12.8 to 12.11). -/
structure Reg where
  overSets : Nat := 0
  overB : Bool := false
  stale : Bool := false
  overCount : Nat := 0
  held : Tab Nat := []
  /-- Limits of the image's records, key 8 × kind + class: four limits. -/
  limits : Tab (List Nat) := []
  resv : List Resv := []
  /-- Controllers a requester kind counts as stale (R258): key 1000 × kind + controller. -/
  staleSet : Tab Bool := []
  /-- Tick at which each controller's codes last went out (R257): key 0 to 127 slices, 128 bonded, 144 LPDDR6. -/
  codeAt : Tab Nat := []
deriving DecidableEq, Repr

/-! ### Images (02, 08) -/

/-- A structure record (Table 2-4). -/
structure StructRec where
  logical : Nat
  partition : Nat
  stream : Nat
  mode : Nat
  layerFirst : Nat
  layerLast : Nat
deriving DecidableEq, Repr

/-- A stream record (Table 2-5). -/
structure StreamRec where
  id : Nat
  cls : Nat
  graph : Nat
  pollNs : Nat
  rateCount : Nat
  rateUs : Nat
  deadline : Nat
  ringSlots : Nat
  ringBase : Nat
  resultBase : Nat
  resultBytes : Nat
  maxItems : Nat
  specDepth : Nat
  bundleFirst : Nat
  bundleCount : Nat
deriving DecidableEq, Repr

/-- A block record (Table 8-16). -/
structure BlockRec where
  logical : Nat
  localCore : Nat
  base : Nat
  n : Nat
  barriers : Nat
  entry : Nat
  arg : Nat
deriving DecidableEq, Repr

/-- The demands of a step (Tables 8-15 and 8-17). -/
structure Demand where
  compute : Nat := 0
  sram : Nat := 0
  seam : Nat := 0
  bonded : Nat := 0
  lpddr : Nat := 0
  frame : Nat := 0
  kvWrites : Nat := 0
deriving DecidableEq, Repr

/-- A step record with its blocks and its five single-loss records (Tables 8-15 to 8-17). -/
structure StepRec where
  kind : Nat
  perItem : Bool
  blocks : List BlockRec
  base : Demand
  loss : List Demand
deriving DecidableEq, Repr

/-- A KV pool record (Table 10-2). -/
structure PoolRec where
  base : Nat
  columnBytes : Nat
  columns : Nat
  pageCode : Nat
  unitType : Nat
  window : Nat
  firstUnit : Nat
deriving DecidableEq, Repr

/-- A KV layer record (Table 10-3). -/
structure LayerRec where
  layer : Nat
  pool : Nat
  fmt : Nat
  byPosition : Bool
  causal : Bool
  bias : Bool
  heads : Nat
  headDim : Nat
  biasAddr : Nat
deriving DecidableEq, Repr

/-- A KV layout (Table 10-1). -/
structure KvLayout where
  seqMax : Nat
  maxPositions : Nat
  seqBase : Nat
  ptBase : Nat
  pools : List PoolRec
  layers : List LayerRec
deriving DecidableEq, Repr

/-- A work graph (8.12): steps, code, KV layout, largest input and power record (Table 8-18, mW). -/
structure Graph where
  steps : List StepRec
  code : List Byte
  kv : Option KvLayout
  maxInput : Nat
  power : List Nat
deriving DecidableEq, Repr

/-- A cache-window record (Table 11-1). -/
structure WinRec where
  window : Nat
  persistence : Nat
  slocal : Bool
  deadFault : Bool
  ways : Nat
  quota0 : Nat
  quota1 : Nat
  firstSlice : Nat
  sliceCount : Nat
  base : Nat
  size : Nat
deriving DecidableEq, Repr

/-- A host-window record (Table 13-3). -/
structure HostWin where
  kind : Nat
  window : Nat
  hostRead : Bool
  hostWrite : Bool
  cls : Nat
  hdmOffset : Nat
  size : Nat
  devBase : Nat
deriving DecidableEq, Repr

/-- A bundle reference (Table 2-6). -/
structure BundleRef where
  digest : List Byte
  plainSize : Nat
  home : Nat
  atStart : Bool
  onDemand : Bool
  window : Nat
deriving DecidableEq, Repr

/-- The thermal envelope (Table 2-7). -/
structure Envelope where
  inletMax : Nat := 0
  flowMin : Nat := 0
  inputMin : Nat := 0
  powerCap : Nat := 0
deriving DecidableEq, Repr

/-- A verified image, parsed. -/
structure Image where
  digest : List Byte := []
  signer : List Byte := []
  security : Nat := 0
  structs : List StructRec := []
  streams : List StreamRec := []
  graphs : List Graph := []
  /-- Slot and table of each table record. -/
  tables : List (Nat × TblRec) := []
  /-- The mode record's compat bit. -/
  compat : Option Bool := none
  windows : List WinRec := []
  limits : List (Nat × List Nat) := []
  resv : List Resv := []
  shed : List Nat := []
  hostWins : List HostWin := []
  bundles : List BundleRef := []
  envelope : Envelope := {}
deriving DecidableEq, Repr

/-! ### Streams and the contract (03) -/

/-- A body copy from host memory (R277): the tick of its start, its window, and its length. -/
structure BodyCopy where
  since : Nat
  window : Nat
  bytes : Nat
deriving DecidableEq, Repr

/-- A request accepted and not yet ended. -/
structure ReqSt where
  slot : Nat
  commit : Nat
  promise : Nat
  items : Nat
  /-- The first step has started. -/
  started : Bool
  /-- A body copy from host memory in flight (R277). -/
  copying : Option BodyCopy
  /-- Step of the work graph whose blocks run. -/
  step : Option Nat
  /-- Reason of a cause of lateness met in flight (R60, R61); 0 for none. -/
  cause : Nat
  /-- The request ends failed at its next step boundary with this reason (R65, Table 2-10). -/
  failing : Option Nat
deriving DecidableEq, Repr

/-- A slot answered but for test 5's host read (R277): its first 64 bytes as the poll read them, the tick of the poll, and
how many slots the poll may still answer (R275). -/
structure Test5 where
  slot : Nat
  bytes : List Byte
  since : Nat
  left : Nat
  /-- How the read ended, while the slot is still to be read again. -/
  ended : Option Bool := none
deriving DecidableEq, Repr

/-- A stream (STRM_ and HLK_RING registers). -/
structure Stream where
  state : Nat := 0
  cls : Nat := 0
  margin : Nat := 0
  promise : Nat := 0
  late : Nat := 0
  notAccepted : Nat := 0
  accepted : Nat := 0
  scan : Nat := 0
  polls : Nat := 0
  malformed : Nat := 0
  dropped : Nat := 0
  /-- Ticks of acceptance inside the rate window (R56). -/
  ticks : List Nat := []
  reqs : List ReqSt := []
  test5 : Option Test5 := none
  /-- A poll that waits for the host's answer to the back-invalidation of its slot (R270, R275): its tick, and how many slots
  it may still answer. -/
  scanWait : Option (Nat × Nat) := none
  /-- The last cluster of the stream that was fenced (R62). -/
  lastFenced : Nat := 0
deriving DecidableEq, Repr

/-- The Fitting's registers and the faults of 3.7. -/
structure Fit where
  refusedSets : Nat := 0
  shedSets : Nat := 0
  voidSets : Nat := 0
  fitting : Bool := false
  faultActive : Bool := false
  atRisk : Bool := false
  void : Bool := false
  shed : Bool := false
  refused : Bool := false
  /-- Codes of FIT_CLOCKS by partition; 0xFF where not listed. -/
  clocks : Tab Nat := []
  rechecks : Nat := 0
  lastDuration : Nat := 0
  refusal : List Byte := []
  hiLatch : Nat := 0
  /-- Units lost since the fit, by unit_type (R62). -/
  losses : Tab Nat := []
  /-- Units in service when the image was fitted, by unit_type. -/
  fitted : Tab Nat := []
  faultUnit : Option (Nat × Nat) := none
  /-- Reason of the active fault; 0x0B once a second one has joined it (R61). -/
  faultReason : Nat := 0
  /-- Tick at which the last fault ceased to be active, and its reason (R61). -/
  faultEnd : Nat := 0
  faultEndReason : Nat := 0
  /-- A re-check is due since this tick. -/
  recheckDue : Option Nat := none
  /-- A re-check has passed and the full re-fit after it is due (R63). -/
  refitDue : Bool := false
  /-- Persistent load of each half as fitted (CACHE_PERSIST). -/
  persist0 : Nat := 0
  persist1 : Nat := 0
deriving DecidableEq, Repr

/-! ### KV agent (10) -/

/-- A page of a sequence: its page-table word (Table 10-5). -/
structure KvPage where
  held : Bool := false
  tentative : Bool := false
  pool : Nat := 0
  column : Nat := 0
  addr : Nat := 0
deriving DecidableEq, Repr

/-- A sequence (Table 10-9). -/
structure Seq where
  state : Nat := 0
  last : Nat := 0
  slot : Nat := 0
  c : Nat := 0
  f : Nat := 0
  reserve : Nat := 0
  items : Nat := 0
  /-- Pages reserved at OPEN by pool. -/
  resv : Tab Nat := []
  /-- Pages by page-table index. -/
  pages : Tab KvPage := []
  stamp : Nat := 0
  commits : Nat := 0
  discarded : Nat := 0
deriving DecidableEq, Repr

/-- A column of a pool: is it enabled, and its pages in use (by number in the column). -/
structure Column where
  enabled : Bool := false
  used : List Nat := []
deriving DecidableEq, Repr

/-- The KV agent's state of one stream (10.8). -/
structure Kv where
  /-- Command stores that have reached the agent, oldest first: who waits for the acceptance, the request the issuing block
  serves (stream, slot and tick of its commit), and 16 bytes. -/
  queue : List (Src × Option (Nat × Nat × Nat) × List Byte) := []
  last : Nat := 0
  lost : Nat := 0
  errSets : Nat := 0
  errResult : Nat := 0
  errOp : Nat := 0
  err : Bool := false
  seqs : Tab Seq := []
  /-- Columns; key 128 × pool + column. -/
  cols : Tab Column := []
  /-- Pages reserved by open sequences, by pool. -/
  reserved : Tab Nat := []
deriving DecidableEq, Repr

/-! ### Profiles, flash and bundles (02, 14.4) -/

/-- A profile slot of flash and its directory entry. State 0 empty, 1 writing, 2 valid, 3 invalid. -/
structure FlashSlot where
  state : Nat := 0
  bytes : List Byte := []
  digest : List Byte := []
  writes : Nat := 0
deriving DecidableEq, Repr

/-- A firmware copy of flash (14.4). State 0 none, 1 writing, 2 valid. -/
structure FwCopy where
  state : Nat := 0
  seq : Nat := 0
  bytes : List Byte := []
  version : Nat := 0
  security : Nat := 0
  /-- The CRC-32C that the slot directory holds for it (2.4). -/
  crc : Nat := 0
  /-- The copy the module was delivered with, whose bytes the spec does not give (log 5). -/
  delivered : Bool := false
  /-- Written and verified since the last boot (R349). -/
  staged : Bool := false
deriving DecidableEq, Repr

/-- A flash program and verification in progress (R31): the command entry and its target. -/
inductive FlashOp where
  | slot (entry n : Nat) (bytes : List Byte)
  | erase (entry n : Nat)
  | fw (entry : Nat) (copyB : Bool) (bytes : List Byte)
deriving DecidableEq, Repr

/-- The shadow copy of a profile slot (R33). Verdict 0 none, 1 accepted, 2 refused. -/
structure Shadow where
  /-- Length of the copy, whose bytes lie in bonded DRAM (R34). -/
  size : Nat := 0
  digest : List Byte := []
  /-- The load error the copy's verification ended with (Table 2-8). -/
  loadError : Nat := 0
  verdict : Nat := 0
  current : Bool := false
  writes : Nat := 0
  made : Bool := false
deriving DecidableEq, Repr

/-- Where a profile switch stands (Table 2-10). -/
inductive SwitchPhase where
  /-- Step 3: every accepted request is to end. -/
  | drain
  /-- Step 4: the quiesce commit. -/
  | quiesce
  /-- Step 6: the structure commit. -/
  | commit
deriving DecidableEq, Repr

/-- A profile switch in progress. -/
structure Switch where
  entry : Nat
  target : Nat
  /-- The slot to restore under R38; none when no image ran. -/
  previous : Option Nat
  restoring : Bool
  /-- Abort mode: requests are ended and not awaited. -/
  abort : Bool
  phase : SwitchPhase
  /-- Digest of the image that ran when the switch began, which the module reports until step 8 (R349); none without one. -/
  digest : Option (List Byte)
deriving DecidableEq, Repr

/-- Images and profiles: the running image, its bindings, slots, shadow and IMG_STATUS, PRF_STATUS. -/
structure Img where
  running : Option Image := none
  /-- Physical cluster of each logical cluster (R26). -/
  bind : List (Nat × Nat) := []
  /-- First way of each slice-local window (R228). -/
  ways : List (Nat × Nat) := []
  loadSets : Nat := 0
  loadError : Nat := 0
  sourceSlot : Nat := 0
  loadFailed : Bool := false
  active : Nat := 0
  psel : Nat := 0
  cmdEn : Bool := false
  switch : Option Switch := none
  shadows : Tab Shadow := []
  slots : Tab FlashSlot := []
  fwA : FwCopy := {}
  fwB : FwCopy := {}
  /-- The running firmware copy is B. -/
  fwRunB : Bool := false
  flashOp : Option FlashOp := none
  /-- The flash is in a program or erase pulse (R312). -/
  pulse : Bool := false
  /-- Resident bundles: digest, home and plain size (R40). -/
  resident : List (List Byte × Nat × Nat) := []
  /-- Staged bundles by reference index of the running image (R42). -/
  staged : Tab Bool := []
  /-- Windows whose staging or eviction waits for their launches (R118): window, reference index,
  evict, command entry, and the number of the first launch that came after it. -/
  stagings : List (Nat × Nat × Bool × Option Nat × Nat) := []
deriving DecidableEq, Repr

/-! ### Host link, commands and sessions (13, 17) -/

/-- A command entry (Table 13-8): state, status, progress and bytes 0x08 to 0xFF. -/
structure CmdEntry where
  state : Nat := 0
  status : Nat := 0
  progress : Nat := 0
  body : List Byte := []
  /-- The Crown has taken the entry and has not yet written running or refused (R280). -/
  taken : Bool := false
deriving DecidableEq, Repr

/-- A command the Crown has taken: entry, opcode, bytes 0x08 to 0xFF as copied at the take. -/
structure Job where
  entry : Nat
  opcode : Nat
  args : List Byte
  /-- It has passed its checks and runs. -/
  started : Bool
deriving DecidableEq, Repr

/-- What the module has sent: replies and messages, oldest first. -/
inductive Out where
  /-- A CXL.mem read completed: the bytes of each 64-byte line, none where the spec gives a poisoned line none, and its
  poison. -/
  | memData (lines : List (Option (List Byte) × Bool))
  /-- A register value read. -/
  | regData (values : List Word)
  /-- A BAR access or configuration access completed as unsupported request. -/
  | unsupported
  /-- Configuration-retry status (R308). -/
  | retry
  /-- A back-invalidation sent: BISnpData when `data`, else BISnpInv (R270). -/
  | biSnp (data : Bool) (line : Nat)
  /-- An error message to the host under AER (Table 13-11). -/
  | aer
  /-- A management datagram or packet. -/
  | mgmt (kind : Nat) (payload : List Byte)
  /-- An SPDM response on a transport: response code and payload. -/
  | spdm (port : Port) (code : Nat) (payload : List Byte)
  /-- A DOE response that is not SPDM: object type and payload. -/
  | doe (kind : Nat) (payload : List Byte)
  /-- An IDE key-management response: 0 success, 1 failure. -/
  | ideKm (status : Nat)
deriving DecidableEq, Repr

/-- An SPDM session (R350). -/
structure Session where
  port : Port
  id : Nat
  established : Bool
  /-- Tick of its last traffic. -/
  last : Nat
  /-- Draw of its ephemeral key. -/
  draw : Nat
  /-- Key updates since its keys were first derived. -/
  updates : Nat := 0
deriving DecidableEq, Repr

/-- An IDE key (R351): programmed, in force. -/
structure IdeKey where
  ide : IdeStream
  key : List Byte
  active : Bool
deriving DecidableEq, Repr

/-- A CXL.mem access of the host that waits in the host link's own queue (R283, R314). -/
inductive HostAcc where
  | read (off len : Nat)
  | write (off : Nat) (bytes : List Byte)
deriving DecidableEq, Repr

/-- The host link (13.8). -/
structure Hlk where
  upCount : Nat := 0
  rate : Nat := 0
  width : Nat := 0
  up : Bool := false
  ide : Nat := 0
  evtSets : Nat := 0
  /-- Bits 5 to 0 of HLK_EVENTS. -/
  events : Nat := 0
  fwReads : Nat := 0
  fwWrites : Nat := 0
  dropSlot : Nat := 0
  dropCtl : Nat := 0
  biTimeouts : Nat := 0
  mgmtDropped : Nat := 0
  mgmtUp : Bool := false
  /-- The management port has lit since power-up (R379). -/
  mgmtLit : Bool := false
  /-- Host-line directory, oldest first: 64-byte line numbers (13.3). -/
  dir : List Nat := []
  /-- Back-invalidations outstanding, oldest first: BISnpData (else BISnpInv), line and tick of sending. -/
  biOut : List (Bool × Nat × Nat) := []
  /-- Bindings of host-memory windows: base and size (R282). -/
  binds : Tab (Option (Nat × Nat)) := []
  /-- Ticks of configuration writes and of BAR writes in the last 100,000 (R264). -/
  cfgTicks : List Nat := []
  barTicks : List Nat := []
  mgmtTicks : List Nat := []
  /-- Configuration space as written, by register offset; its header holds the BARs. -/
  cfg : Tab Word := []
  /-- Host physical base of the HDM range, once the host has committed the HDM decoder (R262, R265, R285). -/
  hdmBase : Option Nat := none
  /-- CXL.mem accesses that a Cuff or a limit holds at the host link, oldest first (R283, R314). -/
  queue : List HostAcc := []
  keys : List IdeKey := []
  /-- Failed optical lanes (R378). -/
  lanesDown : Nat := 0
  entries : Tab CmdEntry := []
deriving DecidableEq, Repr

/-- An image signer slot (Table 17-2). -/
structure Signer where
  valid : Bool := false
  x : Nat := 0
  y : Nat := 0
  floor : Nat := 0
deriving DecidableEq, Repr

/-- The operator record (Table 17-2). State 0 unprovisioned, 1 provisioned, 2 release pending. -/
structure OpRec where
  state : Nat := 0
  sequence : Nat := 0
  authCounter : Nat := 0
  debugEpoch : Nat := 0
  codeT : Nat := 2
  hotPolicy : Bool := false
  mgmtPort : Nat := 49760
  mac : Nat := 0
  ipv4 : Nat := 0
  ipv6 : Nat := 0
  fwFloor : Nat := 0
  opX : Nat := 0
  opY : Nat := 0
  signers : Tab Signer := []
deriving DecidableEq, Repr

/-- Security state (17.8). The two copies of the operator record carry whether their mac and reserved
fields check; `op` is the record in force. -/
structure Sec where
  op : OpRec := {}
  /-- Copies A and B in flash. -/
  opA : OpRec := {}
  opAValid : Bool := true
  opB : OpRec := {}
  opBValid : Bool := false
  /-- The epoch journal's two sectors, each its entries in order, and which is active (R343). -/
  journalA : List Nat := []
  journalB : List Nat := []
  journalOnB : Bool := false
  /-- Settings in force since the boot (R346). -/
  codeT : Nat := 2
  hotPolicy : Bool := false
  mgmtPort : Nat := 49760
  mac : Nat := 0
  ipv4 : Nat := 0
  ipv6 : Nat := 0
  authSets : Nat := 0
  authFail : Bool := false
  rngOk : Bool := false
  errOpcode : Nat := 0
  errStatus : Nat := 0
  sessions : List Session := []
  nextSession : Nat := 0
deriving DecidableEq, Repr

/-- The Visor (7.9, 17.8). -/
structure Visor where
  core : Nat := 0
  group : Nat := 0
  cmdStatus : Nat := 0
  access : Word := 0
  dataLo : Word := 0
  dataHi : Word := 0
  /-- Tick at which the open session ends. -/
  until_ : Option Nat := none
  altered : Bool := false
  stores : Nat := 0
  /-- A reset without the Crown ended a session, and the event of its close is still to be written (R357). -/
  closed : Bool := false
deriving DecidableEq, Repr

/-! ### Crown: events, modes, boot, resets (14, 15, 18) -/

/-- An event record (Table 18-3). -/
structure EvRec where
  sequence : Nat := 0
  cls : Nat := 0
  source : Nat := 0
  code : Nat := 0
  stamp : Nat := 0
  unitType : Nat := 0
  stream : Nat := 0
  unitId : Nat := 0
  reason : Nat := 0
  fault : Bool := false
  second : Bool := false
  detail : Nat := 0
deriving DecidableEq, Repr

/-- The event log and EVT registers (18.6). -/
structure Evt where
  ring : Tab EvRec := []
  /-- The newest 896 records as the Lining holds them, by their place in the ring (Table 15-7). -/
  tail : Tab EvRec := []
  /-- 128-bit words of the ring that fail the die's code until written whole (R244), by device address div 16. -/
  bad : List Nat := []
  head : Nat := 0
  seq : Nat := 1
  counts : Tab Nat := []
  sets : Nat := 0
  /-- EVT_STATUS bits 3 to 0. -/
  bits : Nat := 0
  /-- Open corrected records: source, unit_type, unit_id, ring index and stamp (R365). -/
  opened : List (Nat × Nat × Nat × Nat × Nat) := []
  lockstep : Bool := false
  fatalSource : Nat := 0
  fatalCode : Nat := 0
  /-- Tick of step 1 of a fatal error whose reset is to come (R360). -/
  fatalAt : Option Nat := none
  /-- Units that had a fault recovery since cold reset (R362): unit code and number. -/
  recovered : List (Nat × Nat) := []
deriving DecidableEq, Repr

/-- What a mode change alters (18.5). -/
inductive ModeKind where
  /-- Step 4 of a profile switch. -/
  | quiesce
  /-- Step 6 of a profile switch. -/
  | structure_
  /-- SF_COMMIT: swap the banks, and its compat argument (0 off, 1 on, 2 the pending mode). -/
  | sf (entry : Nat) (swap : Bool) (compat : Nat)
deriving DecidableEq, Repr

/-- Mode changes (EPOCH registers). -/
structure Epoch where
  epoch : Nat := 0
  rollbacks : Nat := 0
  rolledBack : Bool := false
  /-- The change in progress: what, is it past commit, when broadcast. -/
  change : Option (ModeKind × Bool × Nat) := none
  /-- The pending mode of SF_TABLE_LOAD (R187). -/
  pendMode : Option Bool := none
deriving DecidableEq, Repr

/-- One step of a boot record (Table 14-3). -/
structure BootStep where
  outcome : Nat := 0
  alt : Nat := 0
  fenced : Nat := 0
  start : Nat := 0
  stop : Nat := 0
deriving DecidableEq, Repr

/-- A boot record (Table 14-3). -/
structure BootRec where
  number : Nat := 0
  cause : Nat := 0
  fwB : Bool := false
  startStamp : Nat := 0
  fwVersion : Nat := 0
  incomplete : Nat := 0
  wdStep : Nat := 0
  terminalStep : Nat := 0
  /-- Units whose part of the step now running has ended. -/
  progress : List UnitRef := []
  steps : Tab BootStep := []
  /-- The slot that step 10 was copying when it hung (R297). -/
  copying : Option Nat := none
deriving DecidableEq, Repr

/-- A test placed in maintenance slots (R302). -/
structure FieldTest where
  /-- 0 to 127 a slice, 128 to 143 a bonded channel. -/
  unit : Nat
  /-- The test slot to come, 1 to 4. -/
  slot : Nat
  /-- Bonds to retest: group and lane. -/
  bonds : List (Nat × Nat)
  /-- It serves the unit's turn (an out-of-turn test otherwise, R304). -/
  turn : Bool
deriving DecidableEq, Repr

/-- A firmware distribution that waits for answers to the close of a round (R307). -/
structure FwdRun where
  /-- What the boot goes on with. -/
  env : BootEnv
  more : List (Nat × UnitRef)
  /-- Units fenced when step 12 began. -/
  fencedAt : Nat
  round : Nat
  /-- Tick of the close. -/
  closeAt : Nat
  /-- Receivers that have not answered it. -/
  waiting : List Receiver
  /-- Incomplete receivers with the chunks they lack. -/
  short : List (Receiver × List Nat)
deriving DecidableEq, Repr

/-- Boot state, field self-test and firmware distribution (14.9). -/
structure Boot where
  /-- The step running; 0xF once step 14 has ended. -/
  step : Nat := 1
  terminal : Bool := false
  ready : Bool := false
  cur : BootRec := {}
  prev : BootRec := {}
  slotSkip : Nat := 0
  imageSkip : Bool := false
  fwAlt : Bool := false
  linkLimit : Nat := 0
  /-- Channels put on their alternatives (R297): bonded half width, LPDDR6 reduced rate. -/
  bcHalf : Nat := 0
  lpSlow : Nat := 0
  fwdFenced : Nat := 0
  fwdRounds : Nat := 0
  fwdReceivers : Nat := 0
  fwd : Option FwdRun := none
  /-- Receivers that have installed their image of the running firmware; the others run mask-ROM microcode (R307). -/
  installed : List Receiver := []
  /-- The boot is a warm one. -/
  warm : Bool := false
  ftsPasses : Nat := 0
  ftsNext : Nat := 0
  ftsOut : Nat := 0
  ftsRepaired : Bool := false
  ftsType : Nat := 0
  ftsUnit : Nat := 0
  ftsGroup : Nat := 0
  rowsRepaired : Nat := 0
  rowsUnrepaired : Nat := 0
  /-- Tests placed in maintenance slots. -/
  tests : List FieldTest := []
  /-- Tick at which the pass began. -/
  passAt : Nat := 0
  /-- Ticks of the test slots of the last 10⁹ ticks (R302). -/
  testTicks : List Nat := []
deriving DecidableEq, Repr

/-- Where a warm reset stands (Table 15-2). -/
inductive ResetPhase where
  | none
  /-- The Crown has not answered step 3. -/
  | crownWait
  /-- Waiting for the flash pulse (R312). -/
  | pulseWait
  /-- Held at step 4 while RESET_N is low (R373). -/
  | held
deriving DecidableEq, Repr

/-- A partial reset in progress (15.4): its trigger, start, whether its Cuff absorbed, and the command
entry that waits for it. -/
structure Partial where
  unit : UnitRef
  trigger : Nat
  since : Nat
  absorbed : Bool
  entry : Option Nat
deriving DecidableEq, Repr

/-- The reset controller and the Lining's own contents (15). -/
structure Rst where
  warmCount : Nat := 0
  lastCause : Nat := 1
  phase : ResetPhase := .none
  /-- Cause latched by the pending reset, and the tick of step 1 of Table 15-2. -/
  cause : Nat := 0
  since : Nat := 0
  /-- RESET_N is low. -/
  pinLow : Bool := false
  partials : List Partial := []
  unit : Nat := 0
  unitId : Nat := 0
  outcome : Nat := 0
  trigger : Nat := 0
  absorbSets : Nat := 0
  absorbed : Bool := false
  /-- Backup registers of the Lining (Table 15-8). -/
  backup : Tab DWord := []
  /-- Write counts of the shadow record of the Lining (Table 15-7). -/
  shadowWrites : Tab Nat := []
  /-- Correction records of the Lining: core, structure and row (R306). -/
  corrections : List (Nat × Nat × Nat) := []
  /-- Tick at which Crown firmware last ran before the reset, if it has since cold reset (the model's own; log 33). -/
  crownAt : Option Nat := none
deriving DecidableEq, Repr

/-! ### Power and thermal (16) -/

/-- A cluster region (PWR_REGION). -/
structure Region where
  trim : Nat := 0
  waiting : Bool := false
  gated : Bool := true
  phasesOk : Nat := 0xF
  /-- Tick at which it began to wait (R328), and whether its header stages are closing. -/
  since : Nat := 0
  closing : Bool := false
  /-- Classes 4 to 7 skip one cycle in eight for it (R328). -/
  forced : Bool := false
deriving DecidableEq, Repr

/-- The power controller (16.7). -/
structure Pwr where
  /-- The rails but VAON are off after a trip. -/
  off : Bool := false
  /-- The 50 V input has gone since the trip, so that its return powers the module up (R339). -/
  inputGone : Bool := false
  phaseSets : Nat := 0
  tripCause : Nat := 0
  bcvOk : Nat := 3
  inletLost : Bool := false
  envPower : Bool := false
  envInput : Bool := false
  envInlet : Bool := false
  phaseLost : Bool := false
  watts : Nat := 0
  volts : Nat := 0
  vcmpPhases : Nat := 96
  vcachePhases : Nat := 24
  regions : Tab Region := []
  /-- Tick since which input power has stayed above the cap (R337). -/
  capSince : Option Nat := none
deriving DecidableEq, Repr

/-- A diode (THM_DIODE); the reading in 1/16 °C. -/
structure Diode where
  failed : Bool := false
  interval : Nat := 0
  temp : Int := 0
deriving DecidableEq, Repr

/-- The thermal sampler (16.7). -/
structure Thm where
  diodes : Tab Diode := []
  ntcs : Tab Diode := []
  /-- at_risk by partition. -/
  risk : Tab Bool := []
  /-- Throttle level and level4_count by cluster. -/
  level : Tab Nat := []
  level4 : Tab Nat := []
  /-- A first sample of the boot has been taken (R321). -/
  sampled : Bool := false
deriving DecidableEq, Repr

/-- The sideband outputs; true is high (R375). -/
structure Pins where
  faultN : Bool := true
  alertN : Bool := true
  pwrGood : Bool := false
deriving DecidableEq, Repr

/-! ### The module -/

/-- The state of the module. -/
structure State where
  /-- The intake counter (R43), in ticks. -/
  now : Nat := 0
  flp : FloorSt := {}
  cores : Tab Core := []
  engines : Tab Engine := []
  launches : Tab Launch := []
  nextLaunch : Nat := 0
  slices : Tab Slice := []
  /-- Home slice of each bucket, key 256 × half + bucket, where fencing has moved it (R236). -/
  homes : Tab Nat := []
  bcs : Tab Ctlr := []
  lps : Tab Ctlr := []
  /-- Bonded DRAM by device address. -/
  mem : Mem := []
  /-- LPDDR6 code pages, key 7,340,032 × channel + channel-local page number. -/
  pages : Tab Page := []
  /-- Version counter entries, key 229,376 × channel + p div 32. -/
  ctrs : Tab CtrEnt := []
  keys : MemKeys := {}
  reg : Reg := {}
  img : Img := {}
  fit : Fit := {}
  streams : Tab Stream := []
  kvs : Tab Kv := []
  hlk : Hlk := {}
  jobs : List Job := []
  sec : Sec := {}
  vis : Visor := {}
  evt : Evt := {}
  ep : Epoch := {}
  boot : Boot := {}
  rst : Rst := {}
  pwr : Pwr := {}
  thm : Thm := {}
  pins : Pins := {}
  /-- What has left the module (the model's own; log 9). -/
  out : List Out := []
  /-- The counter free values are drawn at (the model's own; log 8). -/
  freeCtr : Nat := 0
  /-- Draws made from the random source (the model's own; log 8). -/
  rngDraws : Nat := 0
  /-- The queue of commands waiting, first in, first out. -/
  pending : List Instr := []
deriving DecidableEq, Repr

/-- Right after a cold reset: every register at its reset value, every unit in service in the delivered
floor plan (log 5), the delivered firmware in copy A, no image, an unprovisioned operator record (log 6),
VAON up and the other rails still to come. -/
def State.reset : State :=
  { img := { fwA := { state := 2, seq := 1, bytes := Config.deliveredFirmware,
                      version := Config.deliveredFirmwareVersion, delivered := true,
                      security := Config.deliveredFirmwareSecurity } } }

end Sys2Proof.Machine
end

