-- ==== Sys2Proof/Machine/Clock.lean ====
section
/-! DEFINITION. The passing of time on an empty queue (R43; log 1). -/

namespace Sys2Proof.Machine

/-- The intake counter runs: cold reset has been released and the rails are up (R43, R325). A cold reset that RESET_N
holds has not been released (R373). -/
def clockRuns (s : State) : Bool :=
  s.pins.pwrGood && !s.pwr.off && !(decide (s.rst.phase = .held) && s.rst.cause == 1)

/-- One rising edge of the 250 MHz reference: the intake counter advances by 4 (R43). -/
def idleTick (s : State) : State := if clockRuns s then { s with now := s.now + 4 } else s

end Sys2Proof.Machine
end

