-- ==== Sys2Proof/Machine/Bits.lean ====
section
/-! DEFINITION. Bit fields, byte order (R4: little-endian) and sign helpers. -/

namespace Sys2Proof

/-- Bits [hi:lo] of a number. -/
def fld (v hi lo : Nat) : Nat := (v / 2 ^ lo) % 2 ^ (hi + 1 - lo)

/-- Bit `i` of a number. -/
def bit (v i : Nat) : Bool := v.testBit i

/-- A flag as a number, for packing registers. -/
def b2n (b : Bool) : Nat := if b then 1 else 0

/-- The little-endian bytes of a number (R4). -/
def leBytes : Nat → Nat → List Byte
  | 0, _ => []
  | n + 1, v => BitVec.ofNat 8 v :: leBytes n (v / 256)

/-- The number little-endian bytes spell (R4). -/
def leNat : List Byte → Nat
  | [] => 0
  | b :: bs => b.toNat + 256 * leNat bs

/-- The big-endian bytes of a number (cryptographic encodings). -/
def beBytes (n v : Nat) : List Byte := (leBytes n v).reverse

/-- The number big-endian bytes spell. -/
def beNat (bs : List Byte) : Nat := leNat bs.reverse

/-- A number truncated to `w` bits, read as two's complement. -/
def sext (w v : Nat) : Int :=
  let m := v % 2 ^ w
  if m < 2 ^ (w - 1) then (m : Int) else (m : Int) - (2 ^ w : Nat)

/-- An integer as `w`-bit two's complement. -/
def unsext (w : Nat) (i : Int) : Nat := (i % ((2 ^ w : Nat) : Int)).toNat

/-- Saturating increment of a count of `w` bits. -/
def satInc (w n : Nat) : Nat := if n + 1 < 2 ^ w then n + 1 else 2 ^ w - 1

/-- Saturation of a count to `w` bits. -/
def sat (w n : Nat) : Nat := if n < 2 ^ w then n else 2 ^ w - 1

/-- Ceiling division. -/
def cdiv (a b : Nat) : Nat := (a + b - 1) / b

/-- XOR of the 4-bit groups of a number (fold of R238). -/
def fold4 : Nat → Nat → Nat
  | 0, _ => 0
  | n + 1, v => (v % 16) ^^^ fold4 n (v / 16)

/-- Replace the entry of a list at an index. -/
def setAt {α : Type} (l : List α) (i : Nat) (v : α) : List α := l.set i v

/-- Index of the first element that passes a test. -/
def findIdx? {α : Type} (p : α → Bool) : List α → Option Nat
  | [] => none
  | x :: xs => if p x then some 0 else (findIdx? p xs).map (· + 1)

/-- Remove the first element that passes a test and answer it with the rest. -/
def takeFirst {α : Type} (p : α → Bool) : List α → Option (α × List α)
  | [] => none
  | x :: xs => if p x then some (x, xs) else (takeFirst p xs).map fun r => (r.1, x :: r.2)

/-- The smallest number below `n` that passes a test. -/
def least (n : Nat) (p : Nat → Bool) : Option Nat := (List.range n).find? p

/-- Set bit `i` of a mask. -/
def setBit (m i : Nat) : Nat := if m.testBit i then m else m + 2 ^ i

/-- Clear bit `i` of a mask. -/
def clrBit (m i : Nat) : Nat := if m.testBit i then m - 2 ^ i else m

/-- The lowest set bit below `n`. -/
def lowBit (m n : Nat) : Option Nat := least n fun i => m.testBit i

/-- How many of the low `n` bits are set. -/
def popc (m n : Nat) : Nat := ((List.range n).filter fun i => m.testBit i).length

/-- Are all bytes zero. -/
def allZero (bs : List Byte) : Bool := bs.all (· == 0#8)

/-- `n` bytes of a list from an offset, zero where the list ends. -/
def slice (bs : List Byte) (off n : Nat) : List Byte :=
  let t := (bs.drop off).take n
  t ++ List.replicate (n - t.length) 0#8

/-- A little-endian field of `n` bytes at an offset of a byte string. -/
def rd (bs : List Byte) (off n : Nat) : Nat := leNat (slice bs off n)

end Sys2Proof
end

