-- ==== Sys2Proof/Machine/Num.lean ====
section
/-! DEFINITION. The number formats of chapter 04: what an encoding stands for (Table 4-2), exact dyadic
values, the one rounding routine (roundTiesToEven), the FP32 arithmetic of R88 and the conversions of
Table 4-7. -/

namespace Sys2Proof

/-- An exact value m × 2^e. -/
structure Dy where
  m : Int
  e : Int
deriving DecidableEq, Repr

/-- What an encoding stands for; a finite value keeps the sign of zero. -/
inductive Val where
  | nan
  | inf (neg : Bool)
  | fin (neg : Bool) (m : Nat) (e : Int)
deriving DecidableEq, Repr

/-- The same exponent for two exact values. -/
def Dy.align (a b : Dy) : Int × Int × Int :=
  let e := min a.e b.e
  (a.m * 2 ^ (a.e - e).toNat, b.m * 2 ^ (b.e - e).toNat, e)

/-- Exact sum. -/
def Dy.add (a b : Dy) : Dy := let r := a.align b; ⟨r.1 + r.2.1, r.2.2⟩
/-- Exact product. -/
def Dy.mul (a b : Dy) : Dy := ⟨a.m * b.m, a.e + b.e⟩
/-- Negation. -/
def Dy.neg (a : Dy) : Dy := ⟨-a.m, a.e⟩
/-- Exact difference. -/
def Dy.sub (a b : Dy) : Dy := a.add b.neg
/-- Multiply by a power of two. -/
def Dy.scale (a : Dy) (k : Int) : Dy := ⟨a.m, a.e + k⟩
/-- Strict order. -/
def Dy.lt (a b : Dy) : Bool := let r := a.align b; decide (r.1 < r.2.1)
/-- Greatest integer at or below. -/
def Dy.floor (a : Dy) : Int := if 0 ≤ a.e then a.m * 2 ^ a.e.toNat else a.m / 2 ^ (-a.e).toNat
/-- An integer. -/
def Dy.ofInt (i : Int) : Dy := ⟨i, 0⟩

/-- The exact value of a finite encoding. -/
def Val.dy : Val → Dy
  | .fin neg m e => ⟨if neg then -(m : Int) else m, e⟩
  | _ => ⟨0, 0⟩

/-! ### Encodings (Table 4-2) -/

/-- A floating-point format: exponent and mantissa bits, bias, and which patterns are special:
`ieee` infinities and NaNs in the top exponent; otherwise `topNan` makes S.1…1.1…1 a NaN. -/
structure Fmt where
  eb : Nat
  mb : Nat
  bias : Int
  ieee : Bool
  topNan : Bool

/-- FP32. -/
def fmtF32 : Fmt := ⟨8, 23, 127, true, false⟩
/-- BF16. -/
def fmtBF16 : Fmt := ⟨8, 7, 127, true, false⟩
/-- FP16. -/
def fmtF16 : Fmt := ⟨5, 10, 15, true, false⟩
/-- FP8 E4M3. -/
def fmtE4M3 : Fmt := ⟨4, 3, 7, false, true⟩
/-- FP8 E5M2. -/
def fmtE5M2 : Fmt := ⟨5, 2, 15, true, false⟩
/-- E3M2. -/
def fmtE3M2 : Fmt := ⟨3, 2, 3, false, false⟩
/-- E2M3. -/
def fmtE2M3 : Fmt := ⟨2, 3, 1, false, false⟩
/-- E2M1. -/
def fmtE2M1 : Fmt := ⟨2, 1, 1, false, false⟩

/-- Total width of a format less its sign. -/
def Fmt.width (f : Fmt) : Nat := f.eb + f.mb

/-- The largest finite magnitude's code. -/
def Fmt.maxCode (f : Fmt) : Nat :=
  if f.ieee then 2 ^ f.width - 2 ^ f.mb - 1 else if f.topNan then 2 ^ f.width - 2 else 2 ^ f.width - 1

/-- Decode an encoding. -/
def Fmt.decode (f : Fmt) (c : Nat) : Val :=
  let neg := c.testBit f.width
  let mag := c % 2 ^ f.width
  let ex := mag / 2 ^ f.mb
  let mn := mag % 2 ^ f.mb
  if f.ieee ∧ ex = 2 ^ f.eb - 1 then (if mn = 0 then .inf neg else .nan)
  else if f.topNan ∧ mag = 2 ^ f.width - 1 then .nan
  else if ex = 0 then .fin neg mn (1 - f.bias - f.mb)
  else .fin neg (2 ^ f.mb + mn) ((ex : Int) - f.bias - f.mb)

/-! ### Rounding -/

/-- Floor of log2 of num ÷ den × 2^e, for num and den not zero. -/
def ilog (num den : Nat) (e : Int) : Int :=
  let k := (Nat.log2 num : Int) - Nat.log2 den
  let big := if 0 ≤ k then decide (num < den * 2 ^ k.toNat) else decide (num * 2 ^ (-k).toNat < den)
  (if big then k - 1 else k) + e

/-- num ÷ den to the nearest integer, ties to even. -/
def rne (num den : Nat) : Nat :=
  let q := num / den
  let r := num % den
  if 2 * r < den then q else if den < 2 * r then q + 1 else if q % 2 = 0 then q else q + 1

/-- Magnitude code of num ÷ den × 2^e in a format under roundTiesToEven with subnormals, without regard to
its largest finite number. -/
def Fmt.roundMag (f : Fmt) (num den : Nat) (e : Int) : Nat :=
  if num = 0 then 0
  else
    let k := ilog num den e
    let q := max k (1 - f.bias) - f.mb
    if k + 1 < q then 0
    else if f.bias + 2 < k then 2 ^ f.width
    else
      let d := e - q
      let n := if 0 ≤ d then rne (num * 2 ^ d.toNat) den else rne num (den * 2 ^ (-d).toNat)
      (q + f.mb + f.bias - 1).toNat * 2 ^ f.mb + n

/-- The canonical NaN of FP32 (R82). -/
def nan32 : Word := 0x7FC00000
/-- The infinities of FP32. -/
def inf32 (neg : Bool) : Word := if neg then 0xFF800000 else 0x7F800000

/-- Round num ÷ den × 2^e with a sign to FP32; a value beyond the largest becomes an infinity (R180). -/
def round32q (neg : Bool) (num den : Nat) (e : Int) : Word :=
  let c := fmtF32.roundMag num den e
  if fmtF32.maxCode < c then inf32 neg
  else BitVec.ofNat 32 (c + (if neg then 2 ^ 31 else 0))

/-- Round an exact value to FP32; `negZero` is the sign a zero value takes. -/
def round32 (a : Dy) (negZero : Bool := false) : Word :=
  if a.m = 0 then (if negZero then 0x80000000 else 0)
  else round32q (decide (a.m < 0)) a.m.natAbs 1 a.e

/-- An exact number as a value. -/
def Dy.val (d : Dy) : Val := .fin (decide (d.m < 0)) d.m.natAbs d.e

/-- A value carried through an exact function of numbers: an infinity keeps the sign that `inf` gives it. -/
def Val.through (v : Val) (inf : Bool → Word) (f : Dy → Word) : Word :=
  match v with
  | .nan => nan32
  | .inf n => inf n
  | .fin n m e => f (Val.fin n m e).dy

/-- What an FP32 word stands for. -/
def val32 (w : Word) : Val := fmtF32.decode w.toNat

/-- A word is a NaN. -/
def isNan32 (w : Word) : Bool := match val32 w with
  | .nan => true
  | _ => false
/-- A word is an infinity. -/
def isInf32 (w : Word) : Bool := match val32 w with
  | .inf _ => true
  | _ => false
/-- A word is finite. -/
def isFin32 (w : Word) : Bool := match val32 w with
  | .fin .. => true
  | _ => false
/-- The sign bit. -/
def neg32 (w : Word) : Bool := w.msb
/-- The exact value of a finite word. -/
def dy32 (w : Word) : Dy := (val32 w).dy

/-! ### FP32 arithmetic (R88) -/

/-- Fused a × b + c with one rounding. -/
def fma32 (a b c : Word) : Word :=
  let x := val32 a
  let y := val32 b
  let z := val32 c
  match x, y, z with
  | .fin nx mx ex, .fin ny my ey, .fin nz _ _ =>
    let p : Dy := (Val.fin nx mx ex).dy.mul (Val.fin ny my ey).dy
    let np := nx != ny
    round32 (p.add z.dy) (np && nz)
  | .nan, _, _ => nan32
  | _, .nan, _ => nan32
  | _, _, .nan => nan32
  | .inf nx, .fin ny m _, z =>
    if m = 0 then nan32
    else match z with
      | .inf nz => if (nx != ny) = nz then inf32 nz else nan32
      | _ => inf32 (nx != ny)
  | .fin nx m _, .inf ny, z =>
    if m = 0 then nan32
    else match z with
      | .inf nz => if (nx != ny) = nz then inf32 nz else nan32
      | _ => inf32 (nx != ny)
  | .inf nx, .inf ny, z =>
    match z with
    | .inf nz => if (nx != ny) = nz then inf32 nz else nan32
    | _ => inf32 (nx != ny)
  | .fin .., .fin .., .inf nz => inf32 nz

/-- a + b. -/
def fadd32 (a b : Word) : Word :=
  match val32 a, val32 b with
  | .nan, _ => nan32
  | _, .nan => nan32
  | .inf na, .inf nb => if na = nb then inf32 na else nan32
  | .inf na, _ => inf32 na
  | _, .inf nb => inf32 nb
  | .fin na ma ea, .fin nb mb eb => round32 ((Val.fin na ma ea).dy.add (Val.fin nb mb eb).dy) (na && nb)

/-- Flip the sign. -/
def fneg32 (a : Word) : Word := a ^^^ 0x80000000

/-- a − b. -/
def fsub32 (a b : Word) : Word := fadd32 a (fneg32 b)

/-- a × b. -/
def fmul32 (a b : Word) : Word :=
  match val32 a, val32 b with
  | .nan, _ => nan32
  | _, .nan => nan32
  | .inf na, .inf nb => inf32 (na != nb)
  | .inf na, .fin nb m _ => if m = 0 then nan32 else inf32 (na != nb)
  | .fin na m _, .inf nb => if m = 0 then nan32 else inf32 (na != nb)
  | .fin na ma ea, .fin nb mb eb =>
    round32 ((Val.fin na ma ea).dy.mul (Val.fin nb mb eb).dy) (na != nb)

/-- a < b for words that are not NaN, by value (−0 = +0). -/
def flt32 (a b : Word) : Bool :=
  match val32 a, val32 b with
  | .inf na, .inf nb => na && !nb
  | .inf na, .fin .. => na
  | .fin .., .inf nb => !nb
  | .fin na ma ea, .fin nb mb eb => (Val.fin na ma ea).dy.lt (Val.fin nb mb eb).dy
  | _, _ => false

/-- a = b by value; false where either is NaN. -/
def feq32 (a b : Word) : Bool := !isNan32 a && !isNan32 b && !flt32 a b && !flt32 b a

/-- minimumNumber and maximumNumber (IEEE 754-2019): −0 is below +0, and a NaN loses to a number. -/
def fminmax32 (max : Bool) (a b : Word) : Word :=
  if isNan32 a && isNan32 b then nan32
  else if isNan32 a then b
  else if isNan32 b then a
  else
    let less := flt32 a b || (feq32 a b && neg32 a && !neg32 b)
    if less != max then a else b

/-! ### Conversions (Table 4-7) -/

/-- An FP32 word of a value decoded from another format. -/
def widen (v : Val) : Word :=
  match v with
  | .nan => nan32
  | .inf n => inf32 n
  | .fin n m e => round32 (Val.fin n m e).dy n

/-- A BF16 value widened exactly. -/
def bf16to32 (c : Nat) : Word := widen (fmtBF16.decode (c % 65536))

/-- Flags of Table 4-5. -/
def flNanIn : Nat := 1
/-- nv. -/
def flNv : Nat := 2
/-- of. -/
def flOf : Nat := 4
/-- tr. -/
def flTr : Nat := 8

/-- The format of a code of Table 4-1 for a bare element (MX codes name their elements); none for INT8. -/
def fmtOf (code : Nat) : Option Fmt :=
  match code with
  | 0 => some fmtF32
  | 1 => some fmtBF16
  | 2 => some fmtF16
  | 3 => some fmtE4M3
  | 4 => some fmtE5M2
  | 6 => some fmtE4M3
  | 7 => some fmtE5M2
  | 8 => some fmtE3M2
  | 9 => some fmtE2M3
  | 10 => some fmtE2M1
  | _ => none

/-- Element bits of a format code (Table 4-1). -/
def elemBits (code : Nat) : Nat :=
  match code with
  | 0 => 32
  | 1 => 16
  | 2 => 16
  | 8 => 6
  | 9 => 6
  | 10 => 4
  | _ => 8

/-- Magnitude code with a sign on top. -/
def withSign (f : Fmt) (neg : Bool) (c : Nat) : Nat := c + (if neg then 2 ^ f.width else 0)

/-- FP32 to a narrow format: the code and the flags Table 4-7 names. -/
def narrow (code : Nat) (w : Word) : Nat × Nat :=
  match code with
  | 5 =>
    match val32 w with
    | .nan => (0, flNv)
    | .inf n => (if n then 0x80 else 0x7F, flOf)
    | .fin n m e =>
      let k := if 0 ≤ e then m * 2 ^ e.toNat else rne m (2 ^ (-e).toNat)
      if n then (if 128 ≤ k then 0x80 else (256 - k) % 256, 0) else (min k 127, 0)
  | _ =>
    match fmtOf code with
    | none => (0, 0)
    | some f =>
      match val32 w with
      | .nan =>
        match code with
        | 1 => (0x7FC0, 0)
        | 2 => (0x7E00, 0)
        | 3 => (0x7F, 0)
        | 4 => (0x7E, 0)
        | _ => (0, flNv)
      | .inf n =>
        if f.ieee then (withSign f n (f.maxCode + 1), 0) else (withSign f n f.maxCode, flOf)
      | .fin n m e =>
        let c := f.roundMag m 1 e
        if c ≤ f.maxCode then (withSign f n c, 0)
        else if code = 1 ∨ code = 2 then (withSign f n (f.maxCode + 1), flOf)
        else (withSign f n f.maxCode, 0)

/-- A narrow element widened to FP32. -/
def widenCode (code c : Nat) : Word :=
  match fmtOf code with
  | some f => widen (f.decode (c % 2 ^ elemBits code))
  | none =>
    let i := sext 8 c
    round32 (Dy.ofInt i)

/-- An E8M0 scale code to FP32 (Table 4-7). -/
def scaleTo32 (c : Nat) : Word := if c = 255 then nan32 else round32 ⟨1, (c : Int) - 127⟩

end Sys2Proof
end

