-- ==== Sys2Proof/Machine/Crypto.lean ====
section
/-! DEFINITION. The public algorithms the spec names by their standards: CRC-32C, SHA-256, HMAC, HKDF,
AES-256 with XTS, GCM, GMAC and key wrap, ECDSA and ECDH over P-256, and the Reed-Solomon code of R246. -/

namespace Sys2Proof

/-! ### CRC-32C -/

/-- One bit step of CRC-32C, reflected. -/
def crcBits : Nat → Nat → Nat
  | 0, c => c
  | k + 1, c => crcBits k (if c % 2 = 1 then (c / 2) ^^^ 0x82F63B78 else c / 2)

/-- CRC-32C of a byte string (Tables 1-8, 2-2, 3-4). -/
def crc32c (bs : List Byte) : Nat :=
  bs.foldl (fun c b => crcBits 8 (c ^^^ b.toNat)) 0xFFFFFFFF ^^^ 0xFFFFFFFF

/-! ### SHA-256, HMAC, HKDF -/

/-- The round constants of SHA-256, part 0. -/
def shaK0 : List Word :=
  [0x428A2F98, 0x71374491, 0xB5C0FBCF, 0xE9B5DBA5, 0x3956C25B, 0x59F111F1,
   0x923F82A4, 0xAB1C5ED5, 0xD807AA98, 0x12835B01, 0x243185BE, 0x550C7DC3,
   0x72BE5D74, 0x80DEB1FE, 0x9BDC06A7, 0xC19BF174]

/-- The round constants of SHA-256, part 1. -/
def shaK1 : List Word :=
  [0xE49B69C1, 0xEFBE4786, 0x0FC19DC6, 0x240CA1CC, 0x2DE92C6F, 0x4A7484AA,
   0x5CB0A9DC, 0x76F988DA, 0x983E5152, 0xA831C66D, 0xB00327C8, 0xBF597FC7,
   0xC6E00BF3, 0xD5A79147, 0x06CA6351, 0x14292967]

/-- The round constants of SHA-256, part 2. -/
def shaK2 : List Word :=
  [0x27B70A85, 0x2E1B2138, 0x4D2C6DFC, 0x53380D13, 0x650A7354, 0x766A0ABB,
   0x81C2C92E, 0x92722C85, 0xA2BFE8A1, 0xA81A664B, 0xC24B8B70, 0xC76C51A3,
   0xD192E819, 0xD6990624, 0xF40E3585, 0x106AA070]

/-- The round constants of SHA-256, part 3. -/
def shaK3 : List Word :=
  [0x19A4C116, 0x1E376C08, 0x2748774C, 0x34B0BCB5, 0x391C0CB3, 0x4ED8AA4A,
   0x5B9CCA4F, 0x682E6FF3, 0x748F82EE, 0x78A5636F, 0x84C87814, 0x8CC70208,
   0x90BEFFFA, 0xA4506CEB, 0xBEF9A3F7, 0xC67178F2]

/-- The round constants of SHA-256. -/
def shaK : List Word := shaK0 ++ shaK1 ++ shaK2 ++ shaK3

/-- The initial hash value of SHA-256. -/
def shaInit : List Word := [0x6A09E667, 0xBB67AE85, 0x3C6EF372, 0xA54FF53A, 0x510E527F, 0x9B05688C, 0x1F83D9AB, 0x5BE0CD19]

/-- Extend a message schedule, newest word first, by `n` words. -/
def shaExtend : Nat → List Word → List Word
  | 0, w => w
  | n + 1, w =>
    let g := fun i => w.getD i 0
    let x := g 14
    let y := g 1
    let s0 := x.rotateRight 7 ^^^ x.rotateRight 18 ^^^ (x >>> 3)
    let s1 := y.rotateRight 17 ^^^ y.rotateRight 19 ^^^ (y >>> 10)
    shaExtend n ((g 15 + s0 + g 6 + s1) :: w)

/-- One round of SHA-256 on the working variables a to h. -/
def shaRound (v : List Word) (kw : Word × Word) : List Word :=
  match v with
  | [a, b, c, d, e, f, g, h] =>
    let s1 := e.rotateRight 6 ^^^ e.rotateRight 11 ^^^ e.rotateRight 25
    let ch := (e &&& f) ^^^ (~~~e &&& g)
    let t1 := h + s1 + ch + kw.1 + kw.2
    let s0 := a.rotateRight 2 ^^^ a.rotateRight 13 ^^^ a.rotateRight 22
    let maj := (a &&& b) ^^^ (a &&& c) ^^^ (b &&& c)
    [t1 + s0 + maj, a, b, c, d + t1, e, f, g]
  | v => v

/-- The 32-bit big-endian words of a byte string. -/
def beWords : Nat → List Byte → List Word
  | 0, _ => []
  | n + 1, bs => BitVec.ofNat 32 (beNat (bs.take 4)) :: beWords n (bs.drop 4)

/-- Compress one 64-byte block. -/
def shaBlock (h : List Word) (blk : List Byte) : List Word :=
  let w := (shaExtend 48 (beWords 16 blk).reverse).reverse
  let v := (shaK.zip w).foldl shaRound h
  (h.zip v).map fun p => p.1 + p.2

/-- Compress `n` blocks. -/
def shaBlocks : Nat → List Word → List Byte → List Word
  | 0, h, _ => h
  | n + 1, h, bs => shaBlocks n (shaBlock h (bs.take 64)) (bs.drop 64)

/-- SHA-256 of a byte string. -/
def sha256 (bs : List Byte) : List Byte :=
  let n := bs.length
  let pad := (119 - n % 64) % 64
  let m := bs ++ 0x80#8 :: List.replicate pad 0#8 ++ beBytes 8 (8 * n)
  (shaBlocks ((n + 9 + pad) / 64) shaInit m).flatMap fun w => beBytes 4 w.toNat

/-- XOR of two byte strings, as long as the shorter. -/
def xorBytes (a b : List Byte) : List Byte := (a.zip b).map fun p => p.1 ^^^ p.2

/-- HMAC-SHA-256. -/
def hmac (key msg : List Byte) : List Byte :=
  let k := if key.length ≤ 64 then key else sha256 key
  let k := k ++ List.replicate (64 - k.length) 0#8
  sha256 (xorBytes k (List.replicate 64 0x5C#8) ++
    sha256 (xorBytes k (List.replicate 64 0x36#8) ++ msg))

/-- HKDF-Expand with SHA-256 for at most 32 bytes. -/
def hkdfExpand (prk info : List Byte) (n : Nat) : List Byte := (hmac prk (info ++ [1#8])).take n

/-- HKDF with SHA-256 for at most 32 bytes. -/
def hkdf (salt ikm info : List Byte) (n : Nat) : List Byte := hkdfExpand (hmac salt ikm) info n

/-! ### AES-256 -/

/-- Product in GF(2^8) of AES, bit by bit. -/
def gf8mul : Nat → Nat → Nat → Nat
  | 0, _, _ => 0
  | k + 1, a, b =>
    let a2 := if a < 128 then 2 * a else (2 * a) ^^^ 0x11B
    (if b % 2 = 1 then a else 0) ^^^ gf8mul k a2 (b / 2)

/-- Product in GF(2^8). -/
def gmul8 (a b : Nat) : Nat := gf8mul 8 a b

/-- The multiplicative inverse, 0 for 0: the 254th power. -/
def ginv8 (a : Nat) : Nat :=
  let a2 := gmul8 a a
  let a4 := gmul8 a2 a2
  let a8 := gmul8 a4 a4
  let a16 := gmul8 a8 a8
  let a32 := gmul8 a16 a16
  let a64 := gmul8 a32 a32
  let a128 := gmul8 a64 a64
  gmul8 a2 (gmul8 a4 (gmul8 a8 (gmul8 a16 (gmul8 a32 (gmul8 a64 a128)))))

/-- The AES S-box at a byte. -/
def sboxOf (a : Nat) : Nat :=
  let b := ginv8 a
  let r := fun k => (b * 2 ^ k) % 256 + (b * 2 ^ k) / 256
  b ^^^ r 1 ^^^ r 2 ^^^ r 3 ^^^ r 4 ^^^ 0x63

/-- The AES S-box. -/
def sboxTab : Array Nat := ((List.range 256).map sboxOf).toArray

/-- The inverse S-box. -/
def invSboxTab : Array Nat :=
  ((List.range 256).map fun y => ((List.range 256).find? fun x => sboxTab.getD x 0 == y).getD 0).toArray

/-- S-box lookup. -/
def sbox (a : Nat) : Nat := sboxTab.getD a 0

/-- Expand an AES-256 key: `i` counts the words made, the list holds them newest first. -/
def aesExpand : Nat → Nat → Nat → List (List Nat) → List (List Nat)
  | 0, _, _, w => w
  | n + 1, i, rcon, w =>
    let t := w.headD []
    let (t, rcon) :=
      if i % 8 = 0 then
        match (t.drop 1 ++ t.take 1).map sbox with
        | x :: xs => ((x ^^^ rcon) :: xs, gmul8 rcon 2)
        | [] => ([], rcon)
      else if i % 8 = 4 then (t.map sbox, rcon) else (t, rcon)
    aesExpand n (i + 1) rcon ((((w.getD 7 []).zip t).map fun p => p.1 ^^^ p.2) :: w)

/-- Group a list in `n` runs of `k`. -/
def chunks {α : Type} (k : Nat) : Nat → List α → List (List α)
  | 0, _ => []
  | n + 1, xs => xs.take k :: chunks k n (xs.drop k)

/-- The 15 round keys of 16 bytes. -/
def aesKeys (key : List Byte) : List (List Nat) :=
  let w0 := (chunks 4 8 (key.map BitVec.toNat)).reverse
  chunks 16 15 ((aesExpand 52 8 1 w0).reverse).flatten

/-- XOR of two states. -/
def xorN (a b : List Nat) : List Nat := (a.zip b).map fun p => p.1 ^^^ p.2

/-- Pick bytes of a state by index. -/
def pick (s : List Nat) (ix : List Nat) : List Nat := ix.map fun i => s.getD i 0

/-- ShiftRows as source indices (column-major). -/
def shiftIx : List Nat := [0, 5, 10, 15, 4, 9, 14, 3, 8, 13, 2, 7, 12, 1, 6, 11]

/-- InvShiftRows as source indices. -/
def unshiftIx : List Nat := [0, 13, 10, 7, 4, 1, 14, 11, 8, 5, 2, 15, 12, 9, 6, 3]

/-- A circulant column mix with a row of coefficients. -/
def mixWith (m : List Nat) (s : List Nat) : List Nat :=
  (chunks 4 4 s).flatMap fun c =>
    (List.range 4).map fun r =>
      (List.range 4).foldl (fun a k => a ^^^ gmul8 (m.getD ((k + 4 - r) % 4) 0) (c.getD k 0)) 0

/-- AES-256 encryption of one block under round keys. -/
def aesEncK (ks : List (List Nat)) (b : List Nat) : List Nat :=
  let s := xorN b (ks.getD 0 [])
  let s := ((ks.drop 1).take 13).foldl
    (fun s k => xorN (mixWith [2, 3, 1, 1] (pick (s.map sbox) shiftIx)) k) s
  xorN (pick (s.map sbox) shiftIx) (ks.getD 14 [])

/-- AES-256 decryption of one block under round keys. -/
def aesDecK (ks : List (List Nat)) (b : List Nat) : List Nat :=
  let inv := fun s => (pick s unshiftIx).map fun x => invSboxTab.getD x 0
  let s := inv (xorN b (ks.getD 14 []))
  let s := ((ks.drop 1).take 13).reverse.foldl
    (fun s k => inv (mixWith [14, 11, 13, 9] (xorN s k))) s
  xorN s (ks.getD 0 [])

/-- AES-256 encryption of one block. -/
def aesEnc (key b : List Byte) : List Byte :=
  (aesEncK (aesKeys key) (b.map BitVec.toNat)).map (BitVec.ofNat 8)

/-! ### AES-256-XTS (IEEE 1619) -/

/-- Multiply an XTS tweak by α. -/
def xtsNext (t : Nat) : Nat := ((2 * t) ^^^ (if t.testBit 127 then 0x87 else 0)) % 2 ^ 128

/-- Run blocks of a data unit through a block function under successive tweaks. -/
def xtsBlocks (f : List Nat → List Nat) : Nat → Nat → List Byte → List Byte
  | 0, _, _ => []
  | n + 1, t, bs =>
    let tw := (leBytes 16 t).map BitVec.toNat
    let c := xorN (f (xorN ((bs.take 16).map BitVec.toNat) tw)) tw
    c.map (BitVec.ofNat 8) ++ xtsBlocks f n (xtsNext t) (bs.drop 16)

/-- The first tweak of data unit `n`. -/
def xtsTweak (k2 : List Byte) (n : Nat) : Nat := leNat (aesEnc k2 (leBytes 16 n))

/-- Encrypt a 2048-byte data unit (R250). -/
def xtsEnc (k1 k2 : List Byte) (n : Nat) (bs : List Byte) : List Byte :=
  xtsBlocks (aesEncK (aesKeys k1)) 128 (xtsTweak k2 n) bs

/-- Decrypt a 2048-byte data unit (R250). -/
def xtsDec (k1 k2 : List Byte) (n : Nat) (bs : List Byte) : List Byte :=
  xtsBlocks (aesDecK (aesKeys k1)) 128 (xtsTweak k2 n) bs

/-! ### GHASH, GCM, GMAC (SP 800-38D) -/

/-- Product in GF(2^128) with GCM's bit order: `k` bits of x are left, from bit `k − 1` down. -/
def ghMul (x : Nat) : Nat → Nat → Nat → Nat
  | 0, z, _ => z
  | k + 1, z, v =>
    let z := if x.testBit k then z ^^^ v else z
    ghMul x k z (if v % 2 = 1 then (v / 2) ^^^ (0xE1 * 2 ^ 120) else v / 2)

/-- GHASH over `n` blocks. -/
def ghash (h : Nat) : Nat → Nat → List Byte → Nat
  | 0, y, _ => y
  | n + 1, y, bs =>
    let b := bs.take 16
    let x := y ^^^ beNat (b ++ List.replicate (16 - b.length) 0#8)
    ghash h n (ghMul x 128 0 h) (bs.drop 16)

/-- The GCM tag over additional data and ciphertext with a 96-bit IV. -/
def gcmTag (ks : List (List Nat)) (iv aad ct : List Byte) : List Byte :=
  let enc := fun b => beNat ((aesEncK ks (b.map BitVec.toNat)).map (BitVec.ofNat 8))
  let h := enc (List.replicate 16 0#8)
  let y := ghash h (cdiv aad.length 16) 0 aad
  let y := ghash h (cdiv ct.length 16) y ct
  let y := ghash h 1 y (beBytes 8 (8 * aad.length) ++ beBytes 8 (8 * ct.length))
  beBytes 16 (y ^^^ enc (iv ++ beBytes 4 1))

/-- The CTR keystream applied from counter `c` for `n` blocks. -/
def gcmCtr (ks : List (List Nat)) (iv : List Byte) : Nat → Nat → List Byte → List Byte
  | 0, _, _ => []
  | n + 1, c, bs =>
    let k := aesEncK ks ((iv ++ beBytes 4 c).map BitVec.toNat)
    xorBytes (bs.take 16) (k.map (BitVec.ofNat 8)) ++ gcmCtr ks iv n (c + 1) (bs.drop 16)

/-- AES-256-GCM decryption without additional data: the plaintext where the tag checks. -/
def gcmDec (key iv ct tag : List Byte) : Option (List Byte) :=
  let ks := aesKeys key
  if gcmTag ks iv [] ct = tag then some (gcmCtr ks iv (cdiv ct.length 16) 2 ct) else none

/-- AES-256-GMAC (R251). -/
def gmac (key iv aad : List Byte) : List Byte := gcmTag (aesKeys key) iv aad []

/-! ### AES key wrap (RFC 3394) -/

/-- Unwrap steps from `t` down to 1 over the registers A and R of n 64-bit blocks. -/
def unwrapGo (ks : List (List Nat)) (n : Nat) : Nat → List Byte × List (List Byte) → List Byte × List (List Byte)
  | 0, ar => ar
  | t + 1, (a, r) =>
    let i := t % n
    let b := xorBytes a (beBytes 8 (t + 1)) ++ r.getD i []
    let d := (aesDecK ks (b.map BitVec.toNat)).map (BitVec.ofNat 8)
    unwrapGo ks n t (d.take 8, r.set i (d.drop 8))

/-- Unwrap a 32-byte key from 40 bytes; none where the integrity check fails. -/
def keyUnwrap (kek c : List Byte) : Option (List Byte) :=
  let ar := unwrapGo (aesKeys kek) 4 24 (c.take 8, chunks 8 4 (c.drop 8))
  if ar.1 = List.replicate 8 0xA6#8 then some ar.2.flatten else none

/-! ### P-256 -/

/-- The field prime. -/
def p256p : Nat := 2 ^ 256 - 2 ^ 224 + 2 ^ 192 + 2 ^ 96 - 1
/-- The group order. -/
def p256n : Nat := 0xFFFFFFFF00000000FFFFFFFFFFFFFFFFBCE6FAADA7179E84F3B9CAC2FC632551
/-- The coefficient b. -/
def p256b : Nat := 0x5AC635D8AA3A93E7B3EBBD55769886BC651D06B0CC53B0F63BCE3C3E27D2604B
/-- The base point. -/
def p256g : Nat × Nat :=
  (0x6B17D1F2E12C4247F8BCE6E563A440F277037D812DEB33A0F4A13945D898C296,
   0x4FE342E2FE1A7F9B8EE7EB4A7C0F9E162BCE33576B315ECECBB6406837BF51F5)

/-- Modular power; the first argument bounds the bits of the exponent. -/
def powMod (m : Nat) : Nat → Nat → Nat → Nat
  | 0, _, _ => 1 % m
  | k + 1, b, e => let r := powMod m k (b * b % m) (e / 2)
                   if e % 2 = 1 then b * r % m else r

/-- Inverse modulo a 256-bit prime. -/
def invMod (m a : Nat) : Nat := powMod m 256 a (m - 2)

/-- Point addition; none is the point at infinity. -/
def ecAdd (a b : Option (Nat × Nat)) : Option (Nat × Nat) :=
  match a, b with
  | none, b => b
  | a, none => a
  | some (x1, y1), some (x2, y2) =>
    let p := p256p
    let go := fun l : Nat =>
      let x := (l * l + 2 * p - x1 - x2) % p
      some (x, (l * (x1 + p - x) + p - y1) % p)
    if x1 = x2 then
      if (y1 + y2) % p = 0 then none
      else go ((3 * x1 * x1 + 3 * (p - 1)) % p * invMod p (2 * y1 % p) % p)
    else go ((y2 + p - y1) % p * invMod p ((x2 + p - x1) % p) % p)

/-- Scalar multiplication; the first argument bounds the bits of the scalar. -/
def ecMul : Nat → Nat → Option (Nat × Nat) → Option (Nat × Nat)
  | 0, _, _ => none
  | n + 1, k, q =>
    let r := ecMul n (k / 2) (ecAdd q q)
    if k % 2 = 1 then ecAdd q r else r

/-- A pair is a point of the curve. -/
def onCurve (q : Nat × Nat) : Bool :=
  let p := p256p
  decide (q.1 < p) && decide (q.2 < p) &&
  decide (q.2 * q.2 % p = (q.1 * q.1 * q.1 + (p - 3) * q.1 + p256b) % p)

/-- ECDSA P-256 verification of a message under SHA-256. -/
def ecdsaVerify (q : Nat × Nat) (msg : List Byte) (r s : Nat) : Bool :=
  let n := p256n
  if onCurve q && decide (0 < r) && decide (r < n) && decide (0 < s) && decide (s < n) then
    let e := beNat (sha256 msg)
    let w := invMod n s
    match ecAdd (ecMul 256 (e * w % n) (some p256g)) (ecMul 256 (r * w % n) (some q)) with
    | some (x, _) => decide (x % n = r)
    | none => false
  else false

/-- The SEC 1 uncompressed form of a public key (R4). -/
def sec1 (q : Nat × Nat) : List Byte := 4#8 :: (beBytes 32 q.1 ++ beBytes 32 q.2)

/-- The ID of a key: the first 8 bytes of SHA-256 over its public key (17.1). -/
def keyId (q : Nat × Nat) : List Byte := (sha256 (sec1 q)).take 8

/-- The device ID (17.1). -/
def deviceId : List Byte := keyId Config.identityKey

/-- The binding ID (17.1): the digest taken over the public key of the binding scalar. -/
def bindingId : List Byte := keyId ((ecMul 256 Config.bindingScalar (some p256g)).getD (0, 0))

/-! ### The Reed-Solomon code of R246 -/

/-- Product in GF(2^12) with x^12 + x^6 + x^4 + x + 1. -/
def gf12go : Nat → Nat → Nat → Nat
  | 0, _, _ => 0
  | k + 1, a, b =>
    let a2 := if a < 2048 then 2 * a else (2 * a) ^^^ 0x1053
    (if b % 2 = 1 then a else 0) ^^^ gf12go k a2 (b / 2)

/-- Product in GF(2^12). -/
def gmul12 (a b : Nat) : Nat := gf12go 12 a b

/-- Power in GF(2^12); the first argument bounds the bits of the exponent. -/
def gpow12 : Nat → Nat → Nat → Nat
  | 0, _, _ => 1
  | k + 1, a, e => let r := gpow12 k (gmul12 a a) (e / 2)
                   if e % 2 = 1 then gmul12 a r else r

/-- Inverse in GF(2^12). -/
def ginv12 (a : Nat) : Nat := gpow12 12 a 4094

/-- α to a power. -/
def alpha (e : Nat) : Nat := gpow12 12 2 (e % 4095)

/-- Polynomial value, coefficients from the highest degree. -/
def rsEval (c : List Nat) (x : Nat) : Nat := c.foldl (fun a s => gmul12 a x ^^^ s) 0

/-- Multiply a polynomial (highest first) by (x − a). -/
def rsMulRoot (c : List Nat) (a : Nat) : List Nat :=
  xorN (c ++ [0]) (0 :: c.map (gmul12 a))

/-- The generator g(x) of 2t roots, highest coefficient first. -/
def rsGen (t : Nat) : List Nat := (List.range (2 * t)).foldl (fun g j => rsMulRoot g (alpha (j + 1))) [1]

/-- The parity symbols of a message. -/
def rsParity (t : Nat) (m : List Nat) : List Nat :=
  let g := (rsGen t).drop 1
  m.foldl (fun r s =>
    let f := s ^^^ r.headD 0
    xorN (r.drop 1 ++ [0]) (g.map (gmul12 f))) (List.replicate (2 * t) 0)

/-- The 1366 message symbols of 2048 ciphertext bytes. -/
def pageSymbols (bs : List Byte) : List Nat :=
  (chunks 3 683 (bs ++ [0#8])).flatMap fun b => let v := leNat b; [v % 4096, v / 4096]

/-- The 2048 bytes of 1366 message symbols. -/
def symbolsPage (m : List Nat) : List Byte :=
  ((chunks 2 683 m).flatMap fun p => leBytes 3 (p.getD 0 0 + 4096 * p.getD 1 0)).take 2048

/-- Polynomial product, lowest coefficient first, to `n` coefficients. -/
def rsMul (a b : List Nat) (n : Nat) : List Nat :=
  (List.range n).map fun k =>
    (List.range (k + 1)).foldl (fun s i => s ^^^ gmul12 (a.getD i 0) (b.getD (k - i) 0)) 0

/-- State of the Berlekamp–Massey recursion: Λ, B (lowest first), length, shift and last discrepancy. -/
structure BmSt where
  lam : List Nat
  b : List Nat
  len : Nat
  m : Nat
  d0 : Nat

/-- One step of Berlekamp–Massey over syndromes (lowest first). -/
def bmStep (syn : List Nat) (st : BmSt) (k : Nat) : BmSt :=
  let d := (List.range (st.len + 1)).foldl
    (fun s i => s ^^^ gmul12 (st.lam.getD i 0) (if i ≤ k then syn.getD (k - i) 0 else 0)) 0
  if d = 0 then ⟨st.lam, st.b, st.len, st.m + 1, st.d0⟩
  else
    let f := gmul12 d (ginv12 st.d0)
    let sh := List.replicate st.m 0 ++ st.b.map (gmul12 f)
    let n := max st.lam.length sh.length
    let lam := (List.range n).map fun i => st.lam.getD i 0 ^^^ sh.getD i 0
    if 2 * st.len ≤ k then ⟨lam, st.lam, k + 1 - st.len, 1, d⟩
    else ⟨lam, st.b, st.len, st.m + 1, st.d0⟩

/-- Value of a polynomial given lowest first. -/
def rsEvalL (c : List Nat) (x : Nat) : Nat := rsEval c.reverse x

/-- Correct a code word of up to t symbol errors: the corrected word and how many symbols it changed;
none beyond correction (R246). -/
def rsCorrect (t : Nat) (w : List Nat) : Option (List Nat × Nat) :=
  let syn := (List.range (2 * t)).map fun j => rsEval w (alpha (j + 1))
  if syn.all (· == 0) then some (w, 0)
  else
    let st := (List.range (2 * t)).foldl (bmStep syn) ⟨[1], [1], 0, 1, 1⟩
    let n := w.length
    let roots := (List.range n).filter fun e => rsEvalL st.lam (alpha (4095 - e % 4095)) == 0
    if st.len ≤ t ∧ roots.length = st.len then
      let om := rsMul syn st.lam (2 * t)
      let der := (List.range (st.lam.length - 1)).map fun i =>
        if i % 2 = 0 then st.lam.getD (i + 1) 0 else 0
      let fix := fun (w : List Nat) (e : Nat) =>
        let xi := alpha (4095 - e % 4095)
        let v := gmul12 (rsEvalL om xi) (ginv12 (rsEvalL der xi))
        w.set (n - 1 - e) (w.getD (n - 1 - e) 0 ^^^ v)
      let w' := roots.foldl fix w
      if (List.range (2 * t)).all fun j => rsEval w' (alpha (j + 1)) == 0 then some (w', roots.length)
      else none
    else none

end Sys2Proof
end

