-- ==== Sys2Proof/Machine/Tab.lean ====
section
/-! DEFINITION. Reading and writing a sparse table, and the byte-level reads and writes of a sparse
memory. Writing a key first removes every entry of that key, so the read-over-write laws hold of every
list, canonical or not; on a canonical table the result is canonical (Laws/Tab.lean). -/

namespace Sys2Proof

variable {α : Type}

/-- The value at a key; `d` where the key is not listed. -/
def tget (d : α) : Tab α → Nat → α
  | [], _ => d
  | (k, v) :: t, a => if k = a then v else tget d t a

/-- Put an entry before the first larger key. -/
def tins : Tab α → Nat → α → Tab α
  | [], a, v => [(a, v)]
  | (k, w) :: t, a, v => if a < k then (a, v) :: (k, w) :: t else (k, w) :: tins t a v

/-- Remove every entry of a key. -/
def tdel : Tab α → Nat → Tab α
  | [], _ => []
  | (k, w) :: t, a => if k = a then tdel t a else (k, w) :: tdel t a

/-- Write a key, keeping the canonical form: writing the unlisted value removes the entry. -/
def tput [DecidableEq α] (d : α) (t : Tab α) (a : Nat) (v : α) : Tab α :=
  if v = d then tdel t a else tins (tdel t a) a v

/-- Change the value at a key. -/
def tupd [DecidableEq α] (d : α) (t : Tab α) (a : Nat) (f : α → α) : Tab α :=
  tput d t a (f (tget d t a))

/-- The canonical form: keys strictly rising and no listed value equal to the unlisted one. -/
def twf [DecidableEq α] (d : α) : Tab α → Bool
  | [] => true
  | [(_, v)] => decide (v ≠ d)
  | (k, v) :: (k', v') :: t => decide (v ≠ d) && decide (k < k') && twf d ((k', v') :: t)

/-- One byte of memory. -/
def mget (m : Mem) (a : Nat) : Byte := tget 0#8 m a

/-- Write one byte of memory. -/
def mput (m : Mem) (a : Nat) (b : Byte) : Mem := tput 0#8 m a b

/-- `n` bytes from `a` upwards. -/
def mread (m : Mem) (a : Nat) : Nat → List Byte
  | 0 => []
  | n + 1 => mget m a :: mread m (a + 1) n

/-- Write bytes from `a` upwards, lowest address first. -/
def mwrite (m : Mem) (a : Nat) : List Byte → Mem
  | [] => m
  | b :: bs => mwrite (mput m a b) (a + 1) bs

/-- Clear (to the unlisted byte) every address at or above `lo` and below `hi`. -/
def mclear (m : Mem) (lo hi : Nat) : Mem := m.filter fun c => decide (c.1 < lo) || decide (hi ≤ c.1)

/-- Drop from a table every entry whose key fails a test. -/
def tkeep (t : Tab α) (p : Nat → Bool) : Tab α := t.filter fun c => p c.1

end Sys2Proof
end

