-- ==== Sys2Proof/Machine/Access.lean ====
section
/-! DEFINITION. Reading and writing the tabled parts of State by number: the value of an unlisted unit is
its structure's reset value. Also the numbering of units (R11, Table 1-2) and who owns them. -/

namespace Sys2Proof.Machine

/-! ### Numbering (Table 1-2) -/

/-- Cluster of a core. -/
def clusterOf (c : Nat) : Nat := c / 4
/-- Partition of a cluster. -/
def partOfCluster (cl : Nat) : Nat := cl / 17
/-- Partition of a core. -/
def partOfCore (c : Nat) : Nat := partOfCluster (clusterOf c)
/-- Half of a slice. -/
def halfOfSlice (s : Nat) : Nat := s / 64
/-- Half of a bonded or LPDDR6 channel. -/
def halfOfCh (c : Nat) : Nat := c / 8
/-- The four cores of a cluster. -/
def coresOf (cl : Nat) : List Nat := [4 * cl, 4 * cl + 1, 4 * cl + 2, 4 * cl + 3]
/-- The clusters of a partition. -/
def clustersOf (p : Nat) : List Nat := (List.range 17).map (17 * p + ·)

/-! ### Units -/

/-- Core `c`. -/
def State.core (s : State) (c : Nat) : Core := tget {} s.cores c
/-- Replace core `c`. -/
def State.setCore (s : State) (c : Nat) (v : Core) : State := { s with cores := tput {} s.cores c v }
/-- Change core `c`. -/
def State.updCore (s : State) (c : Nat) (f : Core → Core) : State := s.setCore c (f (s.core c))

/-- Group slot `g` of a core. -/
def Core.grp (c : Core) (g : Nat) : Group := tget {} c.groups g
/-- Replace group slot `g`. -/
def Core.setGrp (c : Core) (g : Nat) (v : Group) : Core := { c with groups := tput {} c.groups g v }
/-- Change group slot `g`. -/
def Core.updGrp (c : Core) (g : Nat) (f : Group → Group) : Core := c.setGrp g (f (c.grp g))
/-- Group slot `g` of core `c`. -/
def State.grp (s : State) (c g : Nat) : Group := (s.core c).grp g
/-- Replace group slot `g` of core `c`. -/
def State.setGrp (s : State) (c g : Nat) (v : Group) : State := s.setCore c ((s.core c).setGrp g v)
/-- Change group slot `g` of core `c`. -/
def State.updGrp (s : State) (c g : Nat) (f : Group → Group) : State := s.setGrp c g (f (s.grp c g))

/-- Token `k` of a group. -/
def Group.token (g : Group) (k : Nat) : Token := tget {} g.tokens k
/-- Replace token `k`. -/
def Group.setToken (g : Group) (k : Nat) (t : Token) : Group := { g with tokens := tput {} g.tokens k t }

/-- v register `r` of a lane. -/
def Group.getV (g : Group) (r lane : Nat) : Word := tget 0 g.v (32 * r + lane)
/-- Write v register `r` of a lane. -/
def Group.setV (g : Group) (r lane : Nat) (w : Word) : Group := { g with v := tput 0 g.v (32 * r + lane) w }
/-- u register `r`. -/
def Group.getU (g : Group) (r : Nat) : Word := tget 0 g.u r
/-- Write u register `r`. -/
def Group.setU (g : Group) (r : Nat) (w : Word) : Group := { g with u := tput 0 g.u r w }

/-- Barrier `b` of a core. -/
def Core.bar (c : Core) (b : Nat) : Barrier := tget {} c.bars b
/-- Replace barrier `b`. -/
def Core.setBar (c : Core) (b : Nat) (v : Barrier) : Core := { c with bars := tput {} c.bars b v }
/-- Bytes by address of writes of byte strings. -/
def byteWrites (ws : List (Nat × List Byte)) : List (Nat × Byte) :=
  ws.flatMap fun w => w.2.zipIdx.map fun b => (w.1 + b.2, b.1)

/-- Write bytes of a core's local memory; every descriptor and launch of the core under way notes what they held (R101). -/
def State.storeLm (s : State) (c : Nat) (ws : List (Nat × Byte)) : State :=
  let co := s.core c
  let old := ws.map fun w => (w.1, mget co.lm w.1)
  let note := fun (r : RunDesc) => { r with seen := r.seen ++ old }
  let s := s.setCore c { co with lm := ws.foldl (fun m w => mput m w.1 w.2) co.lm, mxRun := co.mxRun.map note
                                 dmaRun := co.dmaRun.map note }
  { s with launches := s.launches.map fun e => if e.2.core = c then (e.1, { e.2 with seen := e.2.seen ++ old }) else e }

/-- Fragment bank `j` of a core. -/
def Core.bankAt (c : Core) (j : Nat) : Bank := tget {} c.banks j
/-- Replace fragment bank `j`. -/
def Core.setBank (c : Core) (j : Nat) (v : Bank) : Core := { c with banks := tput {} c.banks j v }

/-- Palm engine of slice `n`. -/
def State.engine (s : State) (n : Nat) : Engine := tget {} s.engines n
/-- Replace the Palm engine of slice `n`. -/
def State.setEngine (s : State) (n : Nat) (v : Engine) : State := { s with engines := tput {} s.engines n v }
/-- Change the Palm engine of slice `n`. -/
def State.updEngine (s : State) (n : Nat) (f : Engine → Engine) : State := s.setEngine n (f (s.engine n))

/-- Slice `n`. -/
def State.slice (s : State) (n : Nat) : Slice := tget {} s.slices n
/-- Replace slice `n`. -/
def State.setSlice (s : State) (n : Nat) (v : Slice) : State := { s with slices := tput {} s.slices n v }
/-- Change slice `n`. -/
def State.updSlice (s : State) (n : Nat) (f : Slice → Slice) : State := s.setSlice n (f (s.slice n))

/-- A line place of a slice. -/
def Slice.line (sl : Slice) (set way : Nat) : Line := tget {} sl.lines (16 * set + way)
/-- Replace a line place. -/
def Slice.setLine (sl : Slice) (set way : Nat) (l : Line) : Slice :=
  { sl with lines := tput {} sl.lines (16 * set + way) l }

/-- Bonded controller `n`. -/
def State.bc (s : State) (n : Nat) : Ctlr := tget {} s.bcs n
/-- Replace bonded controller `n`. -/
def State.setBc (s : State) (n : Nat) (v : Ctlr) : State := { s with bcs := tput {} s.bcs n v }
/-- LPDDR6 controller `n`. -/
def State.lp (s : State) (n : Nat) : Ctlr := tget {} s.lps n
/-- Replace LPDDR6 controller `n`. -/
def State.setLp (s : State) (n : Nat) (v : Ctlr) : State := { s with lps := tput {} s.lps n v }
/-- A memory controller of either tier. -/
def State.mc (s : State) (lpddr : Bool) (n : Nat) : Ctlr := if lpddr then s.lp n else s.bc n
/-- Replace a memory controller of either tier. -/
def State.setMc (s : State) (lpddr : Bool) (n : Nat) (v : Ctlr) : State :=
  if lpddr then s.setLp n v else s.setBc n v
/-- Change a memory controller of either tier. -/
def State.updMc (s : State) (lpddr : Bool) (n : Nat) (f : Ctlr → Ctlr) : State :=
  s.setMc lpddr n (f (s.mc lpddr n))

/-- Stream `n`. -/
def State.stream (s : State) (n : Nat) : Stream := tget {} s.streams n
/-- Replace stream `n`. -/
def State.setStream (s : State) (n : Nat) (v : Stream) : State := { s with streams := tput {} s.streams n v }
/-- Change stream `n`. -/
def State.updStream (s : State) (n : Nat) (f : Stream → Stream) : State := s.setStream n (f (s.stream n))

/-- The KV agent's state of stream `n`. -/
def State.kv (s : State) (n : Nat) : Kv := tget {} s.kvs n
/-- Replace the KV state of stream `n`. -/
def State.setKv (s : State) (n : Nat) (v : Kv) : State := { s with kvs := tput {} s.kvs n v }

/-- Command entry `n` (0–15 host, 16–31 management port). -/
def State.entry (s : State) (n : Nat) : CmdEntry := tget {} s.hlk.entries n
/-- Replace command entry `n`. -/
def State.setEntry (s : State) (n : Nat) (v : CmdEntry) : State :=
  { s with hlk := { s.hlk with entries := tput {} s.hlk.entries n v } }

/-- Cluster region `c` of the power controller. -/
def State.region (s : State) (c : Nat) : Region := tget {} s.pwr.regions c
/-- Replace region `c`. -/
def State.setRegion (s : State) (c : Nat) (r : Region) : State :=
  { s with pwr := { s.pwr with regions := tput {} s.pwr.regions c r } }

/-- Flash slot `n`. -/
def State.fslot (s : State) (n : Nat) : FlashSlot := tget {} s.img.slots n
/-- Replace flash slot `n`. -/
def State.setFslot (s : State) (n : Nat) (v : FlashSlot) : State :=
  { s with img := { s.img with slots := tput {} s.img.slots n v } }
/-- Shadow of slot `n`. -/
def State.shadow (s : State) (n : Nat) : Shadow := tget {} s.img.shadows n
/-- Where the shadow of slot `n` lies in bonded DRAM (R34). -/
def shadowBase (n : Nat) : Nat := 0x07E0000000 + n * 0x3800000
/-- Replace the shadow of slot `n`. -/
def State.setShadow (s : State) (n : Nat) (v : Shadow) : State :=
  { s with img := { s.img with shadows := tput {} s.img.shadows n v } }

/-! ### The floor plan record (Table 1-8) -/

/-- State of a unit by unit_type (Table 1-10). -/
def FloorPlan.get (f : FloorPlan) (ut id : Nat) : Nat :=
  match ut with
  | 1 => tget 0 f.cluster id
  | 2 => tget 0 f.core id
  | 3 => tget 0 f.slice id
  | 4 => tget 0 f.bc id
  | 5 => tget 0 f.lp id
  | _ => 0

/-- Set the state of a unit by unit_type. -/
def FloorPlan.put (f : FloorPlan) (ut id v : Nat) : FloorPlan :=
  match ut with
  | 1 => { f with cluster := tput 0 f.cluster id v }
  | 2 => { f with core := tput 0 f.core id v }
  | 3 => { f with slice := tput 0 f.slice id v }
  | 4 => { f with bc := tput 0 f.bc id v }
  | 5 => { f with lp := tput 0 f.lp id v }
  | _ => f

/-- How many units of a type there are (Table 1-2). -/
def unitCount (ut : Nat) : Nat :=
  match ut with
  | 1 => 68
  | 2 => 272
  | 3 => 128
  | 4 => 16
  | 5 => 16
  | _ => 0

/-- The units of a type that are not fenced. -/
def FloorPlan.enabled (f : FloorPlan) (ut : Nat) : List Nat :=
  (List.range (unitCount ut)).filter fun i => f.get ut i != 3

/-- State of a unit in the floor plan in force. -/
def State.unitState (s : State) (ut id : Nat) : Nat := s.flp.cur.get ut id
/-- A unit is in service. -/
def State.inService (s : State) (ut id : Nat) : Bool := s.unitState ut id != 3
/-- A core can run: it and its cluster are enabled (R19). -/
def State.coreOn (s : State) (c : Nat) : Bool := s.inService 2 c && s.inService 1 (clusterOf c)
/-- A warm reset has begun, and every Cuff has its idle request (Table 15-2 step 1); or a trip has taken the power
(R339). -/
def State.resetting (s : State) : Bool := decide (s.rst.phase ≠ .none) || s.pwr.off
/-- A reset holds the core: its own, its cluster's or its partition's (Table 15-3), or a warm one. -/
def State.coreHeld (s : State) (c : Nat) : Bool :=
  s.resetting || s.rst.partials.any fun p => match p.unit with
    | .core k => k.val == c
    | .cluster k => k.val == clusterOf c
    | .partition k => k.val == partOfCore c
    | _ => false
/-- A core is enabled and may start work. -/
def State.coreRuns (s : State) (c : Nat) : Bool := s.coreOn c && !s.coreHeld c
/-- A slice has a Palm engine in service (states 0b00 and 0b01, Table 3-2). -/
def State.engineOn (s : State) (n : Nat) : Bool := decide (s.unitState 3 n < 2)

/-! ### Ownership -/

/-- Physical cluster bound to a logical one (R26). -/
def State.physCluster (s : State) (l : Nat) : Option Nat := (s.img.bind.find? fun b => b.1 == l).map (·.2)

/-- The structure record bound to a physical cluster. -/
def State.structOf (s : State) (cl : Nat) : Option StructRec :=
  match s.img.running, s.img.bind.find? (fun b => b.2 == cl) with
  | some im, some b => im.structs.find? fun r => r.logical == b.1
  | _, _ => none

/-- The stream record of a stream of the running image. -/
def State.streamRec (s : State) (n : Nat) : Option StreamRec :=
  s.img.running.bind fun im => im.streams.find? fun r => r.id == n

/-- The stream that owns a physical cluster (Table 2-4); none when idle or unbound. -/
def State.ownerOf (s : State) (cl : Nat) : Option StreamRec :=
  (s.structOf cl).bind fun r => s.streamRec r.stream

/-- Class of a core's requests: that of the stream that owns its cluster (R134); 7 where none does. -/
def State.coreClass (s : State) (c : Nat) : Nat :=
  match s.ownerOf (clusterOf c) with
  | some r => r.cls
  | none => 7

/-- The work graph of a stream. -/
def State.graphOf (s : State) (n : Nat) : Option Graph :=
  match s.img.running, s.streamRec n with
  | some im, some r => im.graphs[r.graph]?
  | _, _ => none

/-- The streams of the running image. -/
def State.streamIds (s : State) : List Nat :=
  match s.img.running with
  | some im => im.streams.map (·.id)
  | none => []

/-- Physical clusters bound to a stream. -/
def State.clustersOfStream (s : State) (n : Nat) : List Nat :=
  match s.img.running with
  | some im => (im.structs.filter fun r => r.stream == n).filterMap fun r => s.physCluster r.logical
  | none => []

/-- A stream is of class 0. -/
def State.isClass0 (s : State) (n : Nat) : Bool :=
  match s.streamRec n with
  | some r => r.cls == 0
  | none => false

/-- Draw a free byte-sized choice: the value and the state with the counter advanced (log 8). -/
def State.drawWord (s : State) : Word × State := (Config.freeWord s.freeCtr, { s with freeCtr := s.freeCtr + 1 })

/-- Draw from the random source (R352, log 8). -/
def State.draw (s : State) : BitVec 256 × State := (Config.random s.rngDraws, { s with rngDraws := s.rngDraws + 1 })

/-- Send a message out of the module (log 9). -/
def State.emit (s : State) (o : Out) : State := { s with out := s.out ++ [o] }

end Sys2Proof.Machine
end

