-- ==== Sys2Proof/Machine/Events.lean ====
section
/-! DEFINITION. The event log (18.3), coalescing of corrected records (R365) and sticky set counts (R366). -/

namespace Sys2Proof.Machine

/-- The 32 bytes of an event record (Table 18-3). -/
def evBytes (e : EvRec) : List Byte :=
  leBytes 4 e.sequence ++ leBytes 1 e.cls ++ leBytes 1 e.source ++ leBytes 2 e.code ++ leBytes 8 e.stamp ++
  leBytes 1 e.unitType ++ leBytes 1 e.stream ++ leBytes 2 e.unitId ++ leBytes 1 e.reason ++
  leBytes 1 (b2n e.fault + 2 * b2n e.second) ++ leBytes 2 0 ++ leBytes 8 e.detail

/-- An event record from its 32 bytes. -/
def evOfBytes (b : List Byte) : EvRec :=
  { sequence := rd b 0 4, cls := rd b 4 1, source := rd b 5 1, code := rd b 6 2, stamp := rd b 8 8, unitType := rd b 0x10 1
    stream := rd b 0x11 1, unitId := rd b 0x12 2, reason := rd b 0x14 1, fault := bit (rd b 0x15 1) 0
    second := bit (rd b 0x15 1) 1, detail := rd b 0x18 8 }

/-- First address of the event ring (R364). -/
def ringBase : Nat := 0x07FE000000

/-- A 128-bit word lies in record `i` of the ring. -/
def inRecord (i w : Nat) : Bool := w / 2 == ringBase / 32 + i

/-- Newest records that the Lining keeps (Table 15-7). -/
def tailSize : Nat := 896

/-- Write an event record at EVT_HEAD and in the Lining tail (R364) with the next sequence and the time of detection, and
set the sticky bit of its class; an open record that it overwrites is open no more. `ev.sequence` and `ev.stamp` are filled
in here. -/
def logEvent (s : State) (ev : EvRec) : State :=
  let e := s.evt
  let r := { ev with sequence := e.seq, stamp := s.now }
  let bits := if ev.cls = 0 then e.bits else setBit e.bits (ev.cls - 1)
  { s with evt := { e with
      ring := tput {} e.ring e.head r
      tail := tput {} (tput {} e.tail ((e.head + 4096 - tailSize) % 4096) {}) e.head r
      bad := e.bad.filter fun w => !inRecord e.head w
      opened := e.opened.filter fun o => o.2.2.2.1 != e.head
      head := (e.head + 1) % 4096
      seq := if e.seq + 1 < 2 ^ 32 then e.seq + 1 else 1
      counts := tupd 0 e.counts ev.cls fun n => (n + 1) % 2 ^ 32
      sets := if ev.cls = 0 then e.sets else satInc 8 e.sets
      bits := bits } }

/-- A notice event (class 0) of the whole module. -/
def notice (s : State) (source code : Nat) (stream : Nat := 0xFF) (detail : Nat := 0) : State :=
  logEvent s { cls := 0, source := source, code := code, stream := stream, detail := detail }

/-- A correction (R365): while a record of its source and unit is open, only that record's coalesced count
rises; otherwise it writes a record and opens it. Either way EVT_STATUS.corrected is set. -/
def correction (s : State) (source ut uid : Nat) (code : Nat := 0) (detail : Nat := 0) : State :=
  let e := s.evt
  match e.opened.find? (fun o => o.1 == source && o.2.1 == ut && o.2.2.1 == uid &&
      decide (s.now < o.2.2.2.2 + 1000000)) with
  | some o =>
    let i := o.2.2.2.1
    let more := fun (r : EvRec) => { r with detail := r.detail % 2 ^ 48 + 2 ^ 48 * satInc 16 (r.detail / 2 ^ 48) }
    { s with evt := { e with
        ring := tupd {} e.ring i more
        tail := if (e.head + 4096 - i - 1) % 4096 < tailSize then tupd {} e.tail i more else e.tail
        bits := setBit e.bits 0
        sets := satInc 8 e.sets } }
  | none =>
    let t := logEvent s { cls := 1, source := source, code := code, unitType := ut, stream := 0xFF, unitId := uid,
                          detail := detail }
    { t with evt := { t.evt with opened :=
        (t.evt.opened.filter fun o => !(o.1 == source && o.2.1 == ut && o.2.2.1 == uid)) ++
          [(source, ut, uid, e.head, s.now)] } }

/-- Indices of the newest records that the Lining keeps, oldest first. -/
def tailIndices (e : Evt) : List Nat := (List.range tailSize).map fun n => (e.head + 4096 - tailSize + n) % 4096

/-- Boot step 3: the ring's newest records are those of the Lining (R364). -/
def restoreRing (s : State) : State :=
  { s with evt := { s.evt with
      ring := (tailIndices s.evt).foldl (fun t i => tput {} t i (tget {} s.evt.tail i)) s.evt.ring
      bad := s.evt.bad.filter fun w => !(tailIndices s.evt).any fun i => inRecord i w } }

/-- Set a sticky bit of HLK_EVENTS (13.8). -/
def hlkEvent (s : State) (b : Nat) : State :=
  { s with hlk := { s.hlk with events := setBit s.hlk.events b, evtSets := satInc 8 s.hlk.evtSets } }

end Sys2Proof.Machine
end

