-- ==== Sys2Proof/Machine/Faults.lean ====
section
/-! DEFINITION. Faults of 3.7 (R61, R361) and the uncorrectable cases of the memory tiers (Table 12-6). -/

namespace Sys2Proof.Machine

/-- Would an error of this unit be a second fault (R361)? -/
def isSecond (s : State) (ut id : Nat) : Bool :=
  s.fit.faultActive && decide (s.fit.faultUnit ≠ some (ut, id))

/-- A fault is detected (3.7): it becomes active, or joins the active fault of the same unit, or is a second
fault with reason 0x0B (R61, R361). With no image running there is no class-0 service to resume, so
nothing stays active (log 10). -/
def raiseFault (s : State) (ut id reason : Nat) : State :=
  if s.img.running.isNone then s
  else if isSecond s ut id then { s with fit := { s.fit with faultReason := 0x0B } }
  else if s.fit.faultActive then s
  else { s with fit := { s.fit with faultActive := true, faultUnit := some (ut, id), faultReason := reason } }

/-- The reason that a fault gives a request of a stream, 0xFF for any: 0x0B for class 0 once a second fault has joined the
active one (R61). -/
def givenReason (s : State) (n reason : Nat) : Nat :=
  if (n = 0xFF ∨ s.isClass0 n) ∧ s.fit.faultActive ∧ s.fit.faultReason = 0x0B ∧ 8 ≤ reason ∧ reason ≤ 0xA then 0x0B else reason

/-- An event that is a fault: raise it and write its record with the fault and second bits and the reason that requests are
given (Table 18-3). -/
def faultEvent (s : State) (ev : EvRec) : State :=
  let second := isSecond s ev.unitType ev.unitId
  let t := raiseFault s ev.unitType ev.unitId ev.reason
  logEvent t { ev with fault := true, second := second, reason := givenReason t ev.stream ev.reason }

/-- An event of what an error that another unit has met does further: it belongs to the fault that is active, and is a fault of
its own where none is (R361; log 91). -/
def faultPart (s : State) (ev : EvRec) : State :=
  if s.fit.faultActive then logEvent s { ev with fault := true, reason := givenReason s ev.stream ev.reason } else faultEvent s ev

/-- An event that is a fault only when class-0 work is concerned. -/
def faultIf (s : State) (c0 : Bool) (ev : EvRec) : State :=
  if c0 then faultEvent s ev else logEvent s ev

/-- A case of Table 12-6 (R253): the controller's _ERR and _ERR_LINE, and an uncorrectable-contained event
with the line address; a fault for class 0 (Table 18-2). -/
def memError (s : State) (lpddr : Bool) (ch cause cls line : Nat) : State :=
  let s := s.updMc lpddr ch fun m =>
    { m with err := true, errSets := satInc 8 m.errSets, errCause := cause, errCls := cls, errLine := line }
  faultIf s (cls == 0) { cls := 3, source := if lpddr then 4 else 3, code := cause, stream := 0xFF,
                         unitType := if lpddr then 5 else 4, unitId := ch,
                         reason := if cls = 0 then 9 else 0, detail := 256 * line }

/-- A test of a unit waits for its first slot. A request for one that comes while it waits is served by it, and one that comes
later gets four slots of its own after it (R304; log 88). -/
def testWaits (s : State) (unit : Nat) : Bool := s.boot.tests.any fun t => t.unit == unit && t.slot == 1

/-- An out-of-turn self-test of a unit (0–127 slices, 128–143 bonded channels) in the next four maintenance slots of
its partition (R304). -/
def scheduleTest (s : State) (unit : Nat) : State :=
  if testWaits s unit then s
  else { s with boot := { s.boot with tests := s.boot.tests ++ [{ unit := unit, slot := 1, bonds := [], turn := false }]
                                      ftsOut := satInc 8 s.boot.ftsOut } }

end Sys2Proof.Machine
end

