-- ==== Sys2Proof/Machine/Home.lean ====
section
/-! DEFINITION. Where a device address lies: the map of Table 12-1 (R238), homes (R217, R218), the slice
SRAM aperture (R219) and the fixed places of slice-local windows (R228). -/

namespace Sys2Proof.Machine

/-- What backs a device address. -/
inductive Place where
  /-- Bonded channel and channel-local address. -/
  | bonded (ch loc : Nat)
  /-- LPDDR6 channel and channel-local address. -/
  | lpddr (ch loc : Nat)
  /-- The aperture of a slice and the offset in it. -/
  | aperture (slice off : Nat)
  /-- No range of the device address map. -/
  | nowhere
deriving DecidableEq, Repr

/-- Table 12-1 and R219. -/
def place (a : Nat) : Place :=
  if a < 0x0400000000 then .bonded (fold4 6 (fld a 33 12)) (4096 * fld a 33 16 + a % 4096)
  else if a < 0x0800000000 then .bonded (fld a 33 30) (0x40000000 + fld a 29 0)
  else if a < 0x1000000000 then .nowhere
  else if a < 0x3000000000 then
    let o := a - 0x1000000000
    .lpddr (fold4 7 (fld o 36 12)) (4096 * fld o 36 16 + o % 4096)
  else if a < 0x4800000000 then
    let o := a - 0x3000000000
    .lpddr (o / 0x180000000) (0x200000000 + o % 0x180000000)
  else if a < 0x8000000000 then .nowhere
  else if a < 0x8080000000 then .aperture ((a - 0x8000000000) / 0x1000000) (a % 0x1000000)
  else .nowhere

/-- The ranges of bonded DRAM that only the Crown, the KV agent and the LPDDR6 controllers reach
(Table 12-2, R240). -/
def reserved (a : Nat) : Bool :=
  (decide (0x03F0000000 ≤ a) && decide (a < 0x0400000000)) ||
  (decide (0x07E0000000 ≤ a) && decide (a < 0x0800000000))

/-- Half of a place. -/
def Place.half : Place → Nat
  | .bonded c _ => halfOfCh c
  | .lpddr c _ => halfOfCh c
  | .aperture s _ => halfOfSlice s
  | .nowhere => 0

/-- The bucket of a line (R217). -/
def bucket (L : Nat) : Nat := fld L 7 0 ^^^ fld L 15 8 ^^^ fld L 23 16 ^^^ fld L 31 24

/-- The home slice of a bucket of a half. An unlisted entry is that of 64 slices in service (R218). -/
def homeEntry (s : State) (h b : Nat) : Nat :=
  let v := tget 0 s.homes (256 * h + b)
  if v = 0 then 64 * h + b % 64 else v - 1

/-- Write an entry of a home table. -/
def setHome (t : Tab Nat) (h b sl : Nat) : Tab Nat :=
  tput 0 t (256 * h + b) (if sl = 64 * h + b % 64 then 0 else sl + 1)

/-- The windows of the running image. -/
def State.windows (s : State) : List WinRec :=
  match s.img.running with
  | some im => im.windows
  | none => []

/-- The window whose backing range holds an address. -/
def windowAt (s : State) (a : Nat) : Option WinRec :=
  s.windows.find? fun w => decide (w.base ≤ a) && decide (a < w.base + w.size)

/-- The window of a number. -/
def windowNo (s : State) (n : Nat) : Option WinRec := s.windows.find? fun w => w.window == n

/-- First way of a slice-local window (R228). -/
def firstWay (s : State) (w : Nat) : Nat := ((s.img.ways.find? fun p => p.1 == w).map (·.2)).getD 0

/-- One MiB. -/
def mib : Nat := 0x100000

/-- Where an access is served: backing address, home slice, set, and the way of a slice-local line. -/
structure Home where
  backing : Nat
  slice : Nat
  set : Nat
  way : Option Nat
deriving DecidableEq, Repr

/-- The fixed place of an address of a slice-local window (R228). -/
def localHome (s : State) (w : WinRec) (a : Nat) : Home :=
  let o := a - w.base
  { backing := a, slice := w.firstSlice + o / (w.ways * mib), set := o % mib / 256,
    way := some (firstWay s w.window + o % (w.ways * mib) / mib) }

/-- The slice-local window that holds a way of a slice, with the backing address of an aperture offset. -/
def apertureHome (s : State) (sl off : Nat) : Option Home :=
  let way := off / mib
  (s.windows.find? fun w => w.slocal && decide (w.firstSlice ≤ sl) &&
      decide (sl < w.firstSlice + w.sliceCount) && decide (firstWay s w.window ≤ way) &&
      decide (way < firstWay s w.window + w.ways)).map fun w =>
    { backing := w.base + (sl - w.firstSlice) * (w.ways * mib) + (way - firstWay s w.window) * mib + off % mib,
      slice := sl, set := off % mib / 256, way := some way }

/-- Where an access is served, or the detail of its bus error (Table 7-3, trap 0x08): 0x01 for a fenced
unit, 0x03 for an address in no range, an aperture byte that no slice-local window holds, or a reserved
range a requester may not reach (R239, R240; log 11). -/
def resolve (s : State) (priv : Bool) (a : Nat) : Except Nat Home :=
  let hashed := fun (ut ch h : Nat) =>
    if s.unitState ut ch = 3 then .error 1
    else .ok { backing := a, slice := homeEntry s h (bucket (a / 256)), set := a / 256 % 4096, way := none }
  let backed := fun (ut ch h : Nat) =>
    match windowAt s a with
    | some w =>
      if w.slocal then
        let hm := localHome s w a
        if s.inService 3 hm.slice then .ok hm else .error 1
      else hashed ut ch h
    | none => hashed ut ch h
  if reserved a && !priv then .error 3
  else match place a with
    | .bonded ch _ => backed 4 ch (halfOfCh ch)
    | .lpddr ch _ => backed 5 ch (halfOfCh ch)
    | .aperture sl off =>
      if s.inService 3 sl then
        match apertureHome s sl off with
        | some hm => .ok hm
        | none => .error 3
      else .error 1
    | .nowhere => .error 3

/-- The channel behind a backing address: is it LPDDR6, and its number. -/
def channelOf (a : Nat) : Bool × Nat :=
  match place a with
  | .lpddr c _ => (true, c)
  | .bonded c _ => (false, c)
  | _ => (false, 0)

end Sys2Proof.Machine
end

