-- ==== Sys2Proof/Machine/Queue.lean ====
section
/-! DEFINITION. Traffic regulation as every queue uses it: reservations (R255, R260), the parts of a queue,
arbitration (R221, R256), Cuffs that hold requests (R314), level codes (R257), and the limits of requesters
(R258, R259). -/

namespace Sys2Proof.Machine

/-! ### Reservations -/

/-- The reservation in force for a unit and class: the record that names the unit, else the one that names
every unit of its type; a record whose unit is fenced counts for nothing (R260). -/
def resvFor (s : State) (ut id cls : Nat) : Option Resv :=
  if !s.inService ut id then none
  else
    let rs := s.reg.resv.filter fun r => r.unitType == ut && r.cls == cls
    (rs.find? fun r => r.unitId == id).orElse fun _ => rs.find? fun r => r.unitId == 0xFFFF

/-- Reserved queue entries of a class; class 0 holds at least 8 (Table 12-8). -/
def resvEntries (s : State) (ut id cls : Nat) : Nat :=
  let n := ((resvFor s ut id cls).map (·.entries)).getD 0
  if cls = 0 then max 8 n else if cls < 4 then n else 0

/-- Reserved miss registers of a class; class 0 holds at least 16 (Table 12-8). -/
def resvMiss (s : State) (id cls : Nat) : Nat :=
  let n := ((resvFor s 3 id cls).map (·.miss)).getD 0
  if cls = 0 then max 16 n else if cls < 4 then n else 0

/-- Reserved merge entries: class 0 holds 4 (Table 12-8). -/
def resvMerge (cls : Nat) : Nat := if cls = 0 then 4 else 0

/-- Reserved bandwidth of a class at a unit, MB/s. -/
def resvBw (s : State) (ut id cls : Nat) : Nat := ((resvFor s ut id cls).map (·.bandwidth)).getD 0

/-! ### The parts of a queue (R255) -/

/-- Entries of the shared part in use: what each class holds beyond its reserved entries. `n` and `r` give
entries in use and reserved by class. -/
def sharedUsed (n r : Nat → Nat) : Nat := ((List.range 8).map fun c => n c - r c).sum

/-- Entries of the shared part of a queue of `total` entries. -/
def sharedSize (total : Nat) (r : Nat → Nat) : Nat := total - ((List.range 8).map r).sum

/-- `k` more entries of a class fit. -/
def fits (total : Nat) (n r : Nat → Nat) (cls k : Nat) : Bool :=
  let more := (n cls + k - r cls) - (n cls - r cls)
  decide (more = 0) || decide (sharedUsed n r + more ≤ sharedSize total r)

/-- Entries in use of the part of a queue that a class's level code speaks of: its own, or the shared part (Table 12-9). -/
def partUse (n r : Nat → Nat) (cls : Nat) : Nat := if r cls = 0 then sharedUsed n r else n cls

/-- The highest use of each class's part, raised to what is in use now (R257). -/
def raisePeak (n r : Nat → Nat) (peak : Tab Nat) : Tab Nat :=
  (List.range 8).foldl (fun t c => tupd 0 t c fun p => max p (partUse n r c)) peak

/-- Waiting requests of a class at a slice. -/
def Slice.inUse (sl : Slice) (cls : Nat) : Nat := (sl.inq.filter fun r => r.cls == cls).length

/-- Does a slice's input queue take `k` more requests of a class? -/
def sliceRoom (s : State) (n cls k : Nat) : Bool := fits 96 (s.slice n).inUse (resvEntries s 3 n) cls k

/-- Class of a miss register: that of its first waiter. -/
def Miss.cls (m : Miss) : Nat := (m.waiters.head?.map (·.cls)).getD 7

/-- Is a miss register free for a class (Table 12-8)? -/
def missRoom (s : State) (n cls : Nat) : Bool :=
  let ms := (s.slice n).miss
  fits 128 (fun c => (ms.filter fun m => m.cls == c).length) (resvMiss s n) cls 1

/-- Request entries of a class in use at a controller. -/
def Ctlr.inUse (m : Ctlr) (cls : Nat) : Nat := (m.q.filter fun r => r.cls == cls).length

/-- Does a memory controller's request queue take `k` more of a class? -/
def ctlRoom (s : State) (lpddr : Bool) (ch cls k : Nat) : Bool :=
  fits 64 (s.mc lpddr ch).inUse (resvEntries s (if lpddr then 5 else 4) ch) cls k

/-- Reserved request entries of a controller by class. -/
def ctlResv (s : State) (lpddr : Bool) (ch : Nat) : Nat → Nat := resvEntries s (if lpddr then 5 else 4) ch

/-- Does a merge buffer take a new entry of a class (Table 12-8)? -/
def mergeRoom (m : Ctlr) (cls : Nat) : Bool :=
  fits 32 (fun k => (m.merge.filter fun e => e.cls == k).length) resvMerge cls 1

/-! ### Cuffs (15.3) -/

/-- Requests to a slice are held at their sources (Table 11-3, R314). -/
def sliceHeld (s : State) (n : Nat) : Bool :=
  (s.slice n).fencing.isSome || s.rst.partials.any fun p => match p.unit with
    | .slice k => k.val == n
    | _ => false

/-- A slice has stopped serving: it is isolated for fencing, or its Cuff has absorbed (R314). -/
def sliceStopped (s : State) (n : Nat) : Bool :=
  s.resetting || (s.slice n).fencing.isSome || s.rst.partials.any fun p => p.absorbed && match p.unit with
    | .slice k => k.val == n
    | _ => false

/-- A controller's partial reset, if one is in progress. -/
def ctlPartial (s : State) (lpddr : Bool) (c : Nat) : Option Partial :=
  s.rst.partials.find? fun p => match p.unit with
    | .bonded k => !lpddr && k.val == c
    | .lpddr k => lpddr && k.val == c
    | _ => false

/-- Requests to a memory controller are held at their slices (R314). -/
def ctlHeld (s : State) (lpddr : Bool) (c : Nat) : Bool := (ctlPartial s lpddr c).isSome

/-- A memory controller has stopped serving: its Cuff has absorbed (R314). -/
def ctlStopped (s : State) (lpddr : Bool) (c : Nat) : Bool := s.resetting || (ctlPartial s lpddr c).any (·.absorbed)

/-- Requests that wait at their slices enter a controller's queue in their order, as far as their class has room and no
earlier one to the same line waits (R221, R255); a Cuff holds them all (R314). -/
def admitCtl (s : State) (lpddr : Bool) (c : Nat) : State :=
  let m := s.mc lpddr c
  if ctlHeld s lpddr c || m.held.isEmpty then s
  else
    let rv := ctlResv s lpddr c
    let step := fun (a : List MemReq × List MemReq) (r : MemReq) =>
      if !(a.2.any fun x => x.line == r.line) && fits 64 (fun k => (a.1.filter fun x => x.cls == k).length) rv r.cls 1 then
        (a.1 ++ [r], a.2)
      else (a.1, a.2 ++ [r])
    let q := m.held.foldl step (m.q, [])
    let m := { m with q := q.1, held := q.2 }
    s.setMc lpddr c { m with peak := raisePeak m.inUse rv m.peak }

/-- The channel behind a line holds requests at their slices. -/
def lineHeld (s : State) (line : Nat) : Bool :=
  let cc := channelOf (256 * line)
  ctlHeld s cc.1 cc.2

/-! ### Arbitration (R221, R256) -/

/-- Index of the element of least rank, the oldest among equals, of those that may be served and that no
earlier element of the same line precedes. -/
def pickIdx {α : Type} (line rank : α → Nat) (can : α → Bool) (q : List α) : Option Nat :=
  ((List.range q.length).zip q).foldl (fun (best : Option (Nat × Nat)) p =>
    if can p.2 && !((q.take p.1).any fun e => line e == line p.2) then
      match best with
      | none => some (p.1, rank p.2)
      | some (i, r) => if rank p.2 < r then some (p.1, rank p.2) else some (i, r)
    else best) none |>.map (·.1)

/-- The turn of a class in weighted round robin: how far its served requests, the next among them, have used up its
weight (log 26). A class without a weight comes after those with one. -/
def turnOf (turns : Tab Nat) (weight cls : Nat) : Nat :=
  let n := tget 0 turns cls + 1
  if weight = 0 then 2 ^ 64 + n else min (n * 2 ^ 32 / weight) (2 ^ 64 - 1)

/-- Rank of a class: class 0 within its budget; then classes 1–3 and class 0 beyond it by weighted round robin; then
classes 4–7, lowest first (R256). -/
def rankOf (inBudget : Bool) (turn : Nat → Nat) (cls : Nat) : Nat :=
  if cls = 0 ∧ inBudget then 0 else if cls ≤ 3 then 1 + turn cls else 2 ^ 66 + cls

/-- A class's turn counts when round robin served it. -/
def takeTurn (turns : Tab Nat) (inBudget : Bool) (cls : Nat) : Tab Nat :=
  if cls ≤ 3 ∧ !(cls = 0 ∧ inBudget) then tupd 0 turns cls (· + 1) else turns

/-- Class-0 bytes of a window of 4096 cycles (R256): bandwidth in MB/s, clock in kHz. -/
def budgetOf (bw khz : Nat) : Nat := bw * 1000 * 4096 / khz

/-- A class-0 request was served beyond its budget. -/
def countOver (s : State) : State :=
  { s with reg := { s.reg with overB := true, overSets := satInc 8 s.reg.overSets,
                               overCount := (s.reg.overCount + 1) % 2 ^ 32 } }

/-- `n` more class-0 bytes lie within a slice's budget. -/
def sliceBudget (s : State) (k n : Nat) : Bool :=
  decide ((s.slice k).budgetUsed + n ≤ budgetOf (resvBw s 3 k 0) 1600000)

/-- Turn of a class at a slice. -/
def sliceTurn (s : State) (k cls : Nat) : Nat := turnOf (s.slice k).turns (resvBw s 3 k cls) cls

/-- Charge a served request to a slice: class 0 to its budget, or a turn of round robin. -/
def chargeSlice (s : State) (k cls n : Nat) : State :=
  let ok := sliceBudget s k n
  let s := s.updSlice k fun sl => { sl with turns := takeTurn sl.turns ok cls
                                            budgetUsed := if cls = 0 ∧ ok then sl.budgetUsed + n else sl.budgetUsed }
  if cls = 0 ∧ !ok then countOver s else s

/-- Clock of a controller in kHz: bonded controllers run at 1.5 GHz; the LPDDR6 clock is the part's (log 7). -/
def ctlKHz (lpddr : Bool) : Nat := if lpddr then Config.lpClockKHz else 1500000

/-- A line more of class 0 lies within a controller's budget. -/
def ctlBudget (s : State) (lpddr : Bool) (c : Nat) : Bool :=
  decide ((s.mc lpddr c).budgetUsed + 256 ≤ budgetOf (resvBw s (if lpddr then 5 else 4) c 0) (ctlKHz lpddr))

/-- Turn of a class at a controller. -/
def ctlTurn (s : State) (lpddr : Bool) (c cls : Nat) : Nat :=
  turnOf (s.mc lpddr c).turns (resvBw s (if lpddr then 5 else 4) c cls) cls

/-- Charge a line's transfer to a controller and count it served (R256, R261). -/
def chargeCtl (s : State) (lpddr : Bool) (c cls : Nat) : State :=
  let ok := ctlBudget s lpddr c
  let s := s.updMc lpddr c fun m =>
    { m with served := tupd 0 m.served cls fun n => (n + 1) % 2 ^ 32, turns := takeTurn m.turns ok cls
             budgetUsed := if cls = 0 ∧ ok then m.budgetUsed + 256 else m.budgetUsed }
  if cls = 0 ∧ !ok then countOver s else s

/-! ### Levels and limits -/

/-- Level of a part of a queue (Table 12-9). -/
def levelOf (used size : Nat) (sharedPart : Bool) : Nat :=
  if (if sharedPart then decide (size * 9 ≤ used * 10) else decide (size ≤ used)) then 3
  else if size * 3 ≤ used * 4 then 2
  else if size ≤ used * 2 then 1
  else 0

/-- The code of a class given its entries in use (classes with a reservation) or the shared part's. -/
def levelCode (total : Nat) (r : Nat → Nat) (cls used : Nat) : Nat :=
  if r cls = 0 then levelOf used (sharedSize total r) true else levelOf used (r cls) false

/-- The limits of a requester kind and class (R259, R260). -/
def limitsOf (s : State) (kind cls : Nat) : List Nat :=
  match tget [] s.reg.limits (8 * kind + cls) with
  | [] => if cls < 4 then [64, 32, 16, 4] else [32, 16, 4, 0]
  | l => l

/-- Number of a slice among the controllers whose codes may be stale. -/
def sliceCtl (n : Nat) : Nat := n
/-- Number of a memory controller. -/
def memCtl (lpddr : Bool) (n : Nat) : Nat := (if lpddr then 144 else 128) + n

/-- The code a requester kind holds of a controller and class, given those last published (R258). -/
def heldCode (s : State) (kind ctl codes cls : Nat) : Nat :=
  if cls ≠ 0 ∧ tget false s.reg.staleSet (1000 * kind + ctl) then 3 else fld codes (2 * cls + 1) (2 * cls)

/-- The code a requester kind holds for a slice and class (R258). -/
def sliceCode (s : State) (kind n cls : Nat) : Nat := heldCode s kind (sliceCtl n) (s.slice n).codes cls

/-- Every request that waits at a slice: in its waiter lists, its queue, or held. -/
def Slice.waiting (sl : Slice) : List Req := sl.miss.flatMap (·.waiters) ++ sl.inq ++ sl.held

/-- Transactions of a class that a cluster has outstanding: each request that a slice still owes an answer
(R258). -/
def outstanding (s : State) (cl cls : Nat) : Nat :=
  (s.slices.map fun e => (e.2.waiting.filter fun r => match r.src with
    | .group c _ _ _ => clusterOf c == cl && r.cls == cls
    | _ => false).length).sum

/-- The limit of a requester kind for a class towards a slice (R258). -/
def sliceLimit (s : State) (kind n cls : Nat) : Nat := (limitsOf s kind cls).getD (sliceCode s kind n cls) 0

/-- A cluster may issue a class's request to a slice (R258). -/
def withinLimit (s : State) (cl cls n : Nat) : Bool := decide (outstanding s cl cls < sliceLimit s 0 n cls)

/-- A requester of another kind, whose accesses are taken whole and so never stay outstanding, may issue to a slice
(R258; log 52). -/
def mayReach (s : State) (kind n cls : Nat) : Bool := decide (0 < sliceLimit s kind n cls)

/-- Reads of a class that a controller has answered and its slice has not yet taken. -/
def Slice.returned (sl : Slice) (cls : Nat) (lpddr : Bool) : Nat :=
  (sl.rets.filter fun x => (channelOf (256 * x.1)).1 == lpddr && ((sl.miss.find? fun m => m.line == x.1).map Miss.cls).getD 7 == cls).length

/-- Requests of a class that a slice has outstanding at the controllers of a tier: those that wait there, and reads on their
way back (R258). -/
def slicePending (s : State) (n : Nat) (cls : Nat) (lpddr : Bool) : Nat :=
  ((if lpddr then s.lps else s.bcs).map fun e =>
    ((e.2.q ++ e.2.held).filter fun r => r.slice == n && r.cls == cls).length).sum + (s.slice n).returned cls lpddr

/-- A slice with `more` requests sent may issue a class's request towards the channel behind a line (R258). -/
def sliceMayAsk (s : State) (n line cls more : Nat) : Bool :=
  let cc := channelOf (256 * line)
  let code := heldCode s 5 (memCtl cc.1 cc.2) (s.mc cc.1 cc.2).codes cls
  decide (slicePending s n cls cc.1 + more < (limitsOf s 5 cls).getD code 0)

/-- The channel behind a line takes `k` more requests of a class, or holds them at the slice. -/
def lineRoom (s : State) (line cls k : Nat) : Bool :=
  let cc := channelOf (256 * line)
  ctlHeld s cc.1 cc.2 || ctlRoom s cc.1 cc.2 cls k

/-- The channels of these lines have room for a slice's requests of a class, one for each line. -/
def linesRoom (s : State) (ls : List Nat) (cls : Nat) : Bool :=
  ls.all fun l => lineRoom s l cls (ls.filter fun x => channelOf (256 * x) == channelOf (256 * l)).length

/-- The slice's limits let it issue these lines' requests. -/
def linesAllowed (s : State) (n : Nat) (ls : List Nat) (cls : Nat) : Bool :=
  ls.all fun l => sliceMayAsk s n l cls ((ls.filter fun x => (channelOf (256 * x)).1 == (channelOf (256 * l)).1).length - 1)

/-- A requester was held by its limit (REG_CLS_HELD). -/
def countHeld (s : State) (cls : Nat) : State :=
  { s with reg := { s.reg with held := tupd 0 s.reg.held cls fun n => (n + 1) % 2 ^ 32 } }

end Sys2Proof.Machine
end

