-- ==== Sys2Proof/Machine/Dram.lean ====
section
/-! DEFINITION. The two backing tiers as stored: bonded DRAM with its failed words and lost writes (12.2),
LPDDR6 code pages with their code, encryption, tags and version counters (12.3 to 12.5), and the merge
buffer (12.4). -/

namespace Sys2Proof.Machine

/-! ### Byte masks -/

/-- Overlay bytes given by offset on a byte string. -/
def overlay (base : List Byte) (ws : List (Nat × Byte)) : List Byte :=
  ws.foldl (fun b w => b.set w.1 w.2) base

/-- The bytes of a table whose mask bit is set, by offset, among `n`. -/
def maskedBytes (data : Mem) (valid n : Nat) : List (Nat × Byte) :=
  (List.range n).filterMap fun i => if valid.testBit i then some (i, mget data i) else none

/-! ### LPDDR6 pages -/

/-- The page of an LPDDR6 address: channel, channel-local number p, device number n (R246, R250). -/
def pageOf (a : Nat) : Nat × Nat × Nat :=
  match place a with
  | .lpddr c l => (c, l / 2048, (a - 0x1000000000) / 2048)
  | _ => (0, 0, 0)

/-- Key of a page in `State.pages`. -/
def pageKey (c p : Nat) : Nat := 7340032 * c + p

/-- Device number n of page p of channel c: the inverse of Table 12-1. -/
def pageDev (c p : Nat) : Nat :=
  let l := 2048 * p
  if l < 0x200000000 then
    let hi := l / 4096
    let o := 65536 * hi + 4096 * (c ^^^ fold4 6 hi) + l % 4096
    o / 2048
  else (0x2000000000 + c * 0x180000000 + (l - 0x200000000)) / 2048

/-- The counter entry of a page (Table 12-5). -/
def State.ctr (s : State) (c p : Nat) : CtrEnt := tget {} s.ctrs (229376 * c + p / 32)

/-- Device address of a counter entry, by its number 229,376 × channel + p div 32 (R250). -/
def ctrAddr (e : Nat) : Nat := 0x03F0000000 + 64 * e

/-- Line and bonded channel that hold the counter entry of a page. -/
def ctrLine (c p : Nat) : Nat := ctrAddr (229376 * c + p / 32) / 256
/-- The bonded channel behind a counter line. -/
def ctrCh (line : Nat) : Nat := (channelOf (256 * line)).2

/-- Write the counter entry of a page: the four words of the die that hold it are sound again (R244). -/
def State.setCtr (s : State) (c p : Nat) (e : CtrEnt) : State :=
  { s with ctrs := tput {} s.ctrs (229376 * c + p / 32) e }.updMc false (ctrCh (ctrLine c p)) fun m =>
    { m with bad := m.bad.filter fun w => w / 4 != ctrAddr (229376 * c + p / 32) / 64 }

/-- The 64 bytes of a counter entry (Table 12-5). -/
def CtrEnt.bytes (e : CtrEnt) : List Byte :=
  leBytes 8 (e.major % 2 ^ 52) ++
  leBytes 48 (((List.range 32).map fun k => (tget 0 e.minor k % 4096) * 2 ^ (12 * k)).sum) ++ leBytes 4 e.poison ++ leBytes 4 0

/-- A counter entry from its 64 bytes. -/
def ctrOfBytes (b : List Byte) : CtrEnt :=
  { major := rd b 0 8 % 2 ^ 52, poison := rd b 0x38 4
    minor := (List.range 32).foldl (fun t k => tput 0 t k (fld (rd b 8 48) (12 * k + 11) (12 * k))) [] }

/-- Key bytes of a 256-bit key. -/
def keyBytes (k : BitVec 256) : List Byte := leBytes 32 k.toNat

/-- The IV of a page's tag (R251). -/
def pageIv (n major minor : Nat) : List Byte :=
  leBytes 12 (n % 2 ^ 32 + 2 ^ 32 * (major % 2 ^ 52) + 2 ^ 84 * (minor % 4096))

/-- The tag of a page (R251). -/
def pageTag (s : State) (n major minor : Nat) (cipher : List Byte) : BitVec 128 :=
  BitVec.ofNat 128 (leNat (gmac (keyBytes s.keys.km) (pageIv n major minor) cipher))

/-! ### Bonded DRAM -/

/-- A line of bonded DRAM that holds version counters (Table 12-2); State keeps them as entries, which are its bytes. -/
def isCtrLine (line : Nat) : Bool := decide (ctrAddr 0 / 256 ≤ line) && decide (line < ctrAddr (16 * 229376) / 256)

/-- Number of the first counter entry of a line. -/
def firstCtr (line : Nat) : Nat := (256 * line - ctrAddr 0) / 64

/-- The first line of the event ring, in the Crown working store (R364). -/
def ringLine : Nat := ringBase / 256

/-- A line of the event ring; State keeps its records, which are its bytes. -/
def isRingLine (line : Nat) : Bool := decide (ringLine ≤ line) && decide (line < ringLine + 512)

/-- A line that State keeps as plain bytes. -/
def plainLine (line : Nat) : Bool := !isCtrLine line && !isRingLine line

/-- A line of the profile shadow (R34). -/
def isShadowLine (line : Nat) : Bool := decide (shadowBase 0 / 256 ≤ line) && decide (line < shadowBase 8 / 256)

/-- A line that only the Crown or the LPDDR6 controllers use (Table 12-2): no slice keeps a copy of one (the model's choice;
log 49). -/
def storeOnly (line : Nat) : Bool := isCtrLine line || isRingLine line || isShadowLine line

/-- The 256 bytes of a line as the die holds them. -/
def dieLine (s : State) (line : Nat) : List Byte :=
  if isCtrLine line then (List.range 4).flatMap fun i => (tget {} s.ctrs (firstCtr line + i)).bytes
  else if isRingLine line then
    (List.range 8).flatMap fun i => evBytes (tget {} s.evt.ring (8 * (line - ringLine) + i))
  else mread s.mem (256 * line) 256

/-- Bytes of a line written in the die. -/
def dieWrite (s : State) (line : Nat) (ws : List (Nat × Byte)) : State :=
  if isCtrLine line then
    let b := overlay (dieLine s line) ws
    { s with ctrs := (List.range 4).foldl (fun t i => tput {} t (firstCtr line + i) (ctrOfBytes (slice b (64 * i) 64))) s.ctrs }
  else if isRingLine line then
    let b := overlay (dieLine s line) ws
    { s with evt := { s.evt with ring := (List.range 8).foldl (fun t i =>
        tput {} t (8 * (line - ringLine) + i) (evOfBytes (slice b (32 * i) 32))) s.evt.ring } }
  else { s with mem := ws.foldl (fun m w => mput m (256 * line + w.1) w.2) s.mem }

/-- Failed words of a channel's die that concern a line. -/
def badWords (s : State) (c line : Nat) : List Nat := if isRingLine line then s.evt.bad else (s.bc c).bad

/-- Change the failed words of a channel's die that concern a line. -/
def updBad (s : State) (c line : Nat) (f : List Nat → List Nat) : State :=
  if isRingLine line then { s with evt := { s.evt with bad := f s.evt.bad } }
  else s.updMc false c fun m => { m with bad := f m.bad }

/-- A word of the die fails its code from now on (R244). -/
def markBad (s : State) (c line word : Nat) : State :=
  updBad s c line fun ws => if ws.contains (16 * line + word) then ws else ws ++ [16 * line + word]

/-- Words that written bytes cover whole are sound again, and a write of all 256 bytes leaves the lost-write list (R244). -/
def soundAfter (s : State) (c line : Nat) (covered : Nat → Bool) : State :=
  let fixed := fun w : Nat => w / 16 == line && (List.range 16).all fun j => covered (16 * (w % 16) + j)
  (updBad s c line fun ws => ws.filter fun w => !fixed w).updMc false c fun m =>
    { m with lost := if (List.range 256).all covered then m.lost.filter (· != line) else m.lost }

/-- Masked bytes of a line take effect in the die (R243, R244). -/
def bondedStore (s : State) (c line : Nat) (ws : List (Nat × Byte)) : State :=
  soundAfter (dieWrite s line ws) c line fun i => ws.any fun w => w.1 == i

/-- A line as the die gives it, or the cause of Table 12-6 that its state makes certain. -/
def bondedLine (s : State) (c line : Nat) : Except Nat (List Byte) :=
  if (s.bc c).lost.contains line then .error 4
  else if (badWords s c line).any fun w => w / 16 == line then .error 1
  else .ok (dieLine s line)

/-! ### The profile shadow (R33, R34) -/

/-- The lines that hold an image's `size` bytes, at most 56 MiB, in the shadow of slot `n`. -/
def shadowLines (n size : Nat) : List Nat := (List.range (cdiv (min size 0x3800000) 256)).map (shadowBase n / 256 + ·)

/-- A line of bonded DRAM can be read. -/
def readable (s : State) (line : Nat) : Bool :=
  match bondedLine s (channelOf (256 * line)).2 line with
  | .ok _ => true
  | .error _ => false

/-- The bytes of the shadow of slot `n` as the Crown reads them: up to the first line that returns a bus error (R244; log
38). -/
def State.shadowBytes (s : State) (n : Nat) : List Byte :=
  let size := (s.shadow n).size
  mread s.mem (shadowBase n) (min size (256 * ((shadowLines n size).takeWhile (readable s)).length))

/-- One line of a shadow is read or written, in class 7 (Table 12-7). -/
def shadowAccess (s : State) (line : Nat) : State := chargeCtl s false (channelOf (256 * line)).2 7

/-- The Crown reads the shadow of slot `n`: each line is charged and counted, and the first that returns a bus error ends
the reading (R253, R254). -/
def touchShadow (s : State) (n : Nat) : State :=
  let ls := shadowLines n (s.shadow n).size
  let t := (ls.takeWhile (readable s)).foldl shadowAccess s
  match ls.dropWhile (readable s) with
  | [] => t
  | l :: _ =>
    let c := (channelOf (256 * l)).2
    match bondedLine s c l with
    | .error e => memError (shadowAccess t l) false c e 7 l
    | .ok _ => t

/-- The Crown copies an image to its place among the shadows, line by line. -/
def State.putShadow (s : State) (n : Nat) (b : List Byte) : State :=
  (shadowLines n b.length).foldl (fun s l =>
    soundAfter (shadowAccess s l) (channelOf (256 * l)).2 l fun i => decide (256 * l + i < shadowBase n + b.length))
    { s with mem := mwrite s.mem (shadowBase n) b }

/-! ### CRC of the DRAM seam (R241, R242) -/

/-- One byte into the CRC-16 of polynomial 0x1021. -/
def crcByte (c : Nat) (b : Byte) : Nat :=
  (List.range 8).foldl (fun c _ => if c / 2 ^ 15 % 2 = 1 then (2 * c % 2 ^ 16) ^^^ 0x1021 else 2 * c % 2 ^ 16)
    (c ^^^ (b.toNat * 2 ^ 8))

/-- CRC-16 of a string of bytes, from zero. -/
def crc16 (bs : List Byte) : Nat := bs.foldl crcByte 0

/-- Bytes of a transfer: 256 of data, 32 of the byte mask, 5 of the address and 2 of the CRC. -/
def seamBytes : Nat := 295

/-- A transfer whose bytes were flipped so on the way matches its CRC: the CRC is linear, so the flips alone decide. -/
def seamMatch (flips : List (Nat × Byte)) : Bool :=
  flips.isEmpty || crc16 (overlay (List.replicate seamBytes 0#8) flips) == 0

/-- The attempts of a transfer, one and at most three repeats (R242): how many repeats it took and the flips that came
through; none where all failed. Attempts beyond the list meet no flip. -/
def seamTransfer : Nat → Nat → List (List (Nat × Byte)) → Option (Nat × List (Nat × Byte))
  | 0, _, _ => none
  | _ + 1, r, [] => some (r, [])
  | k + 1, r, f :: fs => if seamMatch f then some (r, f) else seamTransfer k (r + 1) fs

/-- What a transfer's event leaves of it. -/
def seamEnd : BcEv → Option (Nat × List (Nat × Byte))
  | .transfer fs => seamTransfer 4 0 fs
  | _ => some (0, [])

/-- Corrections and repeats of a transfer (R241, R242): a repeat, successful or not, schedules a self-test. -/
def bondedEv (s : State) (c : Nat) (ev : BcEv) : State :=
  match ev with
  | .dieCorrected n =>
    if n = 0 then s else correction (s.updMc false c fun m => { m with corrected := sat 16 (m.corrected + n) }) 3 4 c
  | .transfer _ =>
    match seamEnd ev with
    | some (r, _) =>
      if r = 0 then s
      else correction (scheduleTest (s.updMc false c fun m => { m with aux := sat 16 (m.aux + r) }) (128 + c)) 3 4 c
    | none => scheduleTest s (128 + c)
  | _ => s

/-- Data bytes with the flips that came through. -/
def flipBytes (flips : List (Nat × Byte)) (b : List Byte) : List Byte :=
  flips.foldl (fun b f => b.set f.1 (b.getD f.1 0 ^^^ f.2)) b

/-- A line's read from a bonded channel with what the die and the transfer deliver (R241 to R244): its bytes, or a bus
error that the controller reports. -/
def bondedTake (s : State) (c line cls : Nat) (ev : BcEv) : Option (List Byte) × State :=
  let s := bondedEv s c ev
  let s := match ev with
    | .dieUncorrectable w => markBad s c line w.val
    | _ => s
  match bondedLine s c line, seamEnd ev with
  | .error e, _ => (none, memError s false c e cls line)
  | .ok _, none => (none, memError s false c 2 cls line)
  | .ok b, some (_, f) => (some (flipBytes f b), s)

/-! ### Reading and writing code pages -/

/-- Code strength t in force (R247). -/
def codeStrength (s : State) : Nat := 8 * s.sec.codeT

/-- A code word with noise applied to its symbols. -/
def noisy (w : List Nat) (ns : List (Nat × BitVec 12)) : List Nat :=
  ns.foldl (fun w e => w.set e.1 (w.getD e.1 0 ^^^ e.2.toNat)) w

/-- What a page read ended with: its plaintext or the cause of Table 12-6, and whether symbols were
corrected. -/
structure PageRead where
  res : Except Nat (List Byte)
  corrected : Bool

/-- Read page p of channel c as the device delivers it (R246, R251, R252, R310): its counter entry comes first, from
bonded DRAM, where it may fail with a bonded cause (0x100 added; log 49); a page whose version is
zero reads no device and returns zeros; a poisoned page is not decoded. A page the device has no code word
for (its version moved by a rollover before its first write) is beyond correction (log 12). -/
def readPage (s : State) (c p : Nat) (noise : LpNoise) : PageRead :=
  let e := s.ctr c p
  let k := p % 32
  let minor := tget 0 e.minor k
  let at_ := ctrLine c p
  match bondedLine s (ctrCh at_) at_ with
  | .error b => ⟨.error (0x100 + b), false⟩
  | .ok _ =>
  if e.poison.testBit k then ⟨.error 7, false⟩
  else if e.major = 0 ∧ minor = 0 then ⟨.ok (List.replicate 2048 0#8), false⟩
  else
    let pg := tget {} s.pages (pageKey c p)
    if pg.cipher.length ≠ 2048 then ⟨.error 5, false⟩
    else
      let w := noisy (pageSymbols pg.cipher ++ pg.parity.map BitVec.toNat) noise.symbols
      match rsCorrect (codeStrength s) w with
      | none => ⟨.error 5, false⟩
      | some (w, n) =>
        let ct := symbolsPage (w.take 1366)
        if pageTag s (pageDev c p) e.major minor ct = pg.mac ^^^ noise.mac then
          ⟨.ok (xtsDec (keyBytes s.keys.k1) (keyBytes s.keys.k2) (pageDev c p) ct), decide (0 < n)⟩
        else ⟨.error 6, decide (0 < n)⟩

/-- A version counter rollover (R251): major rises, every minor is zero, and the tags of the entry's other
stored pages are rewritten; counted in LP_ECC.aux. -/
def rollover (s : State) (c p : Nat) : State :=
  let e := s.ctr c p
  let major := (e.major + 1) % 2 ^ 52
  let base := p - p % 32
  let pages := (List.range 32).foldl (fun t k =>
    let q := base + k
    if q = p then t
    else
      let pg := tget {} t (pageKey c q)
      if pg.cipher.length = 2048 then
        tput {} t (pageKey c q) { pg with mac := pageTag s (pageDev c q) major 0 pg.cipher }
      else t) s.pages
  let s := { s with pages := pages }
  let s := s.setCtr c p { major := major, minor := [], poison := e.poison }
  s.updMc true c fun m => { m with aux := satInc 16 m.aux }

/-- Write a page whole (R249 to R252): its minor rises first, then it is encrypted, tagged and encoded. A
`poison` write sets the page's poison bit, any other clears it. A held copy is replaced (R248). -/
def writePage (s : State) (c p : Nat) (plain : List Byte) (poison : Bool) : State :=
  let k := p % 32
  let e0 := s.ctr c p
  let m0 := tget 0 e0.minor k
  let s := if m0 + 1 > 0xFFF then rollover s c p
           else s.setCtr c p { e0 with minor := tput 0 e0.minor k (m0 + 1) }
  let e := s.ctr c p
  let s := s.setCtr c p { e with poison := if poison then setBit e.poison k else clrBit e.poison k }
  let n := pageDev c p
  let ct := xtsEnc (keyBytes s.keys.k1) (keyBytes s.keys.k2) n plain
  let par := (rsParity (codeStrength s) (pageSymbols ct)).map (BitVec.ofNat 12)
  let tag := pageTag s n e.major (tget 0 e.minor k) ct
  let s := { s with pages := tput {} s.pages (pageKey c p) { cipher := ct, parity := par, mac := tag } }
  s.updMc true c fun m =>
    if poison then { m with heldPages := m.heldPages.filter fun h => h.1 != p }
    else { m with heldPages := m.heldPages.map fun h => if h.1 = p then (p, plain) else h }

/-- Keep a decoded page among the 16 decoded last (R248). -/
def holdPage (m : Ctlr) (p : Nat) (plain : List Byte) : Ctlr :=
  { m with heldPages := ((p, plain) :: m.heldPages.filter fun h => h.1 != p).take 16 }

/-- Count a corrected code page. -/
def pageCorrection (s : State) (c : Nat) : State :=
  correction (s.updMc true c fun m => { m with corrected := satInc 16 m.corrected }) 4 5 c

/-- Read a page through the held copies: a held page reads no device, and a page that is decoded is held (R248). The
counter entry's transfer counts at its bonded channel with the access's class (Table 12-7, kind 0x6). -/
def fetchPage (s : State) (c p cls : Nat) (noise : LpNoise) : Except Nat (List Byte) × State :=
  match (s.lp c).heldPages.find? fun h => h.1 == p with
  | some h => (.ok h.2, s)
  | none =>
    let r := readPage s c p noise
    let s := chargeCtl s false (ctrCh (ctrLine c p)) cls
    let s := if r.corrected then pageCorrection s c else s
    match r.res with
    | .ok b => (.ok b, if (s.ctr c p).major = 0 ∧ tget 0 (s.ctr c p).minor (p % 32) = 0 then s
                       else s.updMc true c fun m => holdPage m p b)
    | .error e => (.error e, s)

/-- A failed page read's case of Table 12-6: the page's own, or that of its counter entry in bonded DRAM (log 49). -/
def pageError (s : State) (c p cause cls line : Nat) : State :=
  if 0x100 ≤ cause then memError s false (ctrCh (ctrLine c p)) (cause - 0x100) cls (ctrLine c p)
  else memError s true c cause cls line

/-- No noise. -/
def quiet : LpNoise := ⟨[], 0⟩

/-! ### The merge buffer (R249) -/

/-- Merge bytes at an offset of a page into an entry. -/
def MergeEnt.merge (e : MergeEnt) (off : Nat) (ws : List (Nat × Byte)) : MergeEnt :=
  ws.foldl (fun e w => { e with data := mput e.data (off + w.1) w.2,
                                valid := setBit e.valid (off + w.1) }) e

/-- Every byte of an entry is valid. -/
def MergeEnt.full (e : MergeEnt) : Bool := decide (e.valid = 2 ^ 2048 - 1)

/-- The bytes of merge entries of a page laid over stored bytes, oldest entry first, so that the newest
entry that holds a byte valid wins. -/
def mergeOver (es : List MergeEnt) (p : Nat) (base : List Byte) : List Byte :=
  (es.filter fun e => e.page == p).foldl (fun b e => overlay b (maskedBytes e.data e.valid 2048)) base

/-- Merge entries of a page hold every byte of a range valid. -/
def mergeCovers (es : List MergeEnt) (p off n : Nat) : Bool :=
  let v := (es.filter fun e => e.page == p).foldl (fun v e => v ||| e.valid) 0
  (List.range n).all fun i => v.testBit (off + i)

/-- The open entry of a page takes a write, or a new one opens; entries lie oldest first. The caller has
made room. A full entry starts to drain. -/
def mergeWrite (es : List MergeEnt) (now p off cls : Nat) (ws : List (Nat × Byte)) : List MergeEnt :=
  let fin := fun e : MergeEnt => if e.full then { e with draining := true } else e
  match findIdx? (fun e : MergeEnt => e.page == p && !e.draining) es with
  | some i => es.modify i fun e => fin (e.merge off ws)
  | none => es ++ [fin ({ page := p, opened := now, draining := false, data := [], valid := 0, cls := cls :
                          MergeEnt }.merge off ws)]

/-- The oldest open entry starts to drain. -/
def drainOldest (es : List MergeEnt) : List MergeEnt :=
  match findIdx? (fun e : MergeEnt => !e.draining) es with
  | some i => es.modify i fun e => { e with draining := true }
  | none => es

/-- Write the entry at an index to the device (R249): a full entry directly, any other by
read-modify-write; where its page read fails the merged bytes are still written and the page is poisoned
(R252), a deferred event. The counter entry's transfers have the class of the oldest write merged (Table 12-7); one that
cannot be read gives the page no version, so the drain ends there, an uncorrectable case of its bonded channel that leaves the
device as it is (R253; log 49). -/
def drainEntry (s : State) (c i : Nat) (noise : LpNoise) : State :=
  match (s.lp c).merge[i]? with
  | none => s
  | some e =>
    let ws := maskedBytes e.data e.valid 2048
    let s := s.updMc true c fun m => { m with merge := m.merge.eraseIdx i }
    let at_ := ctrLine c e.page
    match bondedLine s (ctrCh at_) at_ with
    | .error cause => memError (chargeCtl s false (ctrCh at_) e.cls) false (ctrCh at_) cause e.cls at_
    | .ok _ =>
    let write := fun (s : State) (b : List Byte) (poison : Bool) =>
      writePage (chargeCtl s false (ctrCh (ctrLine c e.page)) e.cls) c e.page b poison
    if e.full then write s (overlay (List.replicate 2048 0#8) ws) false
    else
      let r := fetchPage s c e.page e.cls noise
      match r.1 with
      | .ok b => write r.2 (overlay b ws) false
      | .error _ =>
        let s := write r.2 (overlay (List.replicate 2048 0#8) ws) true
        logEvent s { cls := 2, source := 4, stream := 0xFF, unitType := 5, unitId := c,
                     detail := 0x1000000000 + 2048 * pageDev c e.page }

/-! ### Both tiers at once, for accesses that are taken whole (log 13) -/

/-- Writes of a line waiting in a controller's queue or held at its slice, oldest first. -/
def queuedWrites (m : Ctlr) (line : Nat) : List (Nat × Byte) :=
  ((m.q ++ m.held).filter fun r => r.line == line).flatMap fun r => r.write.getD []

/-- The line behind a backing address as every write that has reached its controller leaves it, read for an access
of a class, or the case of Table 12-6 it meets. -/
def backingLine (s : State) (line cls : Nat) : Except Nat (List Byte) × State :=
  let a := 256 * line
  let cc := channelOf a
  let ws := queuedWrites (s.mc cc.1 cc.2) line
  let s := chargeCtl s cc.1 cc.2 cls
  if cc.1 then
    let p := (pageOf a).2.1
    let es := (s.lp cc.2).merge
    if mergeCovers es p (a % 2048) 256 then
      (.ok (overlay (slice (mergeOver es p (List.replicate 2048 0#8)) (a % 2048) 256) ws), s)
    else match fetchPage s cc.2 p cls quiet with
      | (.ok b, s) => (.ok (overlay (slice (mergeOver es p b) (a % 2048) 256) ws), s)
      | (.error e, s) => (.error e, pageError s cc.2 p e cls line)
  else match bondedLine s cc.2 line with
    | .ok b => (.ok (overlay b ws), s)
    | .error e => (.error e, memError s false cc.2 e cls line)

/-- A merge buffer makes room for a write of a class (R249, R255): its page has an open entry, or entries drain,
oldest first, until a new one fits. -/
def makeMergeRoom : Nat → State → Nat → Nat → Nat → State
  | 0, s, _, _, _ => s
  | k + 1, s, c, p, cls =>
    let m := s.lp c
    if (m.merge.any fun e => e.page == p && !e.draining) || mergeRoom m cls || m.merge.isEmpty then s
    else makeMergeRoom k (drainEntry s c 0 quiet) c p cls

/-- A write takes effect at its controller, in its class (R243, R249, R254). -/
def storeAtCtl (s : State) (lpddr : Bool) (c line cls : Nat) (ws : List (Nat × Byte)) : State :=
  let s := chargeCtl s lpddr c cls
  if lpddr then
    let p := (pageOf (256 * line)).2.1
    (makeMergeRoom 32 s c p cls).updMc true c fun m =>
      { m with merge := mergeWrite m.merge s.now p (256 * line % 2048) cls ws }
  else bondedStore s c line ws

/-- A slice gives a line's masked bytes to its tier at once, after the line's queued writes, each in its own class; a
channel under its Cuff holds them at the slice (R314). -/
def writeBack (s : State) (n line cls : Nat) (ws : List (Nat × Byte)) : State :=
  let a := 256 * line
  let cc := channelOf a
  if ws.isEmpty then s
  else if lineHeld s line then
    s.updMc cc.1 cc.2 fun m => { m with held := m.held ++ [{ line := line, slice := n, cls := cls, write := some ws }] }
  else
    let m := s.mc cc.1 cc.2
    let mine := fun (r : MemReq) => r.line == line && r.write.isSome
    let s := s.setMc cc.1 cc.2 { m with q := m.q.filter fun r => !mine r, held := m.held.filter fun r => !mine r }
    let s := ((m.q ++ m.held).filter mine).foldl (fun s r => storeAtCtl s cc.1 cc.2 line r.cls (r.write.getD [])) s
    admitCtl (storeAtCtl s cc.1 cc.2 line cls ws) cc.1 cc.2

end Sys2Proof.Machine
end

