-- ==== Sys2Proof/Machine/Cache.lean ====
section
/-! DEFINITION. Lines of a slice (11.1 to 11.5): look-up, protection and victims, one request served at its line,
misses, fills and waiter lists, retires, dead reads and poison; and the accesses that are taken whole at the home
slice (Crown, KV agent, intake engines, host link, DMA and Palm results; log 13). -/

namespace Sys2Proof.Machine

/-! ### The host-line directory (13.3) -/

/-- The 64-byte lines that a range of bytes touches. -/
def lines64 (a n : Nat) : List Nat := (List.range ((a + n + 63) / 64 - a / 64)).map (a / 64 + ·)

/-- Send a back-invalidation of a line: BISnpData when `data`, else BISnpInv (R270). -/
def sendSnp (s : State) (data : Bool) (l : Nat) : State :=
  ({ s with hlk := { s.hlk with biOut := s.hlk.biOut ++ [(data, l, s.now)] } }).emit (.biSnp data l)

/-- A listed line's entry goes; the host is told BISnpInv (R270). -/
def dirInvalidate (s : State) (l : Nat) : State :=
  if s.hlk.dir.contains l then sendSnp { s with hlk := { s.hlk with dir := s.hlk.dir.filter (· != l) } } false l
  else s

/-- BISnpInv of every listed line of a range: a module write, or a module read at class 0 (R270). -/
def dirInvRange (s : State) (a n : Nat) : State := (lines64 a n).foldl dirInvalidate s

/-- A module read of classes 1–7 first recalls every listed line of its range with BISnpData (R270); the
Bool says that nothing is listed, so the read may proceed. -/
def dirRecall (s : State) (a n : Nat) : Bool × State :=
  let ls := (lines64 a n).filter s.hlk.dir.contains
  let s := ls.foldl (fun s l =>
    if s.hlk.biOut.any fun b => b.1 && b.2.1 == l then s else sendSnp s true l) s
  (ls.isEmpty, s)

/-- Before a module read: at class 0 listed lines are invalidated and the read goes on; at other classes it
waits for the recalls. -/
def snoopRead (s : State) (cls a n : Nat) : Bool × State :=
  if cls = 0 then (true, dirInvRange s a n) else dirRecall s a n

/-! ### Line look-up -/

/-- The way that holds a line of a set; a slice-local line's way is fixed. -/
def findWay (sl : Slice) (h : Home) : Option Nat :=
  let L := h.backing / 256
  let here := fun w => let l := sl.line h.set w; l.present && l.no == L
  match h.way with
  | some w => if here w then some w else none
  | none => (List.range 16).find? here

/-- Bytes [off, off + n) as a mask. -/
def maskOf (off n : Nat) : Nat := (2 ^ n - 1) * 2 ^ off

/-- A mask holds every bit of another. -/
def covers (m k : Nat) : Bool := decide (m &&& k = k)

/-- A line has an active miss register (11.3). -/
def Slice.missing (sl : Slice) (L : Nat) : Bool := sl.miss.any fun m => m.line == L

/-- A line is protected within its set (R223). -/
def protectedLine (sl : Slice) (l : Line) : Bool := l.prot || l.poison || sl.missing l.no

/-- The candidate of least age. -/
def oldestOf (sl : Slice) (set : Nat) (ws : List Nat) : Option Nat :=
  ws.foldl (fun best w =>
    match best with
    | none => some w
    | some b => if (sl.line set w).age < (sl.line set b).age then some w else some b) none

/-- Lines of a window held in a slice (SLC_WOCC). -/
def winLines (sl : Slice) (w : Nat) : Nat := (sl.lines.filter fun e => e.2.win == some w).length

/-- Lines of a window held in a half (CACHE_WLINES). -/
def winLinesHalf (s : State) (h w : Nat) : Nat :=
  ((List.range 64).map fun i => winLines (s.slice (64 * h + i)) w).sum

/-- How a new line enters a set. -/
inductive Alloc where
  /-- In this way, after writing back what it holds. -/
  | at_ (way : Nat)
  /-- It is served without allocation. -/
  | bypass
deriving DecidableEq, Repr

/-- Is a persistent window's line allocated as normal (R229)? -/
def demotes (sl : Slice) (set : Nat) (w : Option WinRec) : Bool :=
  match w with
  | some w => w.persistence == 1 && decide (12 ≤ ((List.range 16).filter fun i =>
      (sl.line set i).present && protectedLine sl (sl.line set i)).length)
  | none => false

/-- Choose the place of a missing line (R223, R227, R229); the lines of the counter store, the shadow and the event ring get
none (log 49). -/
def chooseWay (s : State) (n : Nat) (h : Home) (w : Option WinRec) : Alloc :=
  let sl := s.slice n
  match h.way with
  | some way => .at_ way
  | none =>
    if storeOnly (h.backing / 256) then .bypass else
    let all := List.range 16
    let pick := fun ws => match oldestOf sl h.set ws with
      | some x => Alloc.at_ x
      | none => .bypass
    let free := fun (_ : Unit) =>
      match all.find? fun i => !(sl.line h.set i).present with
      | some i => Alloc.at_ i
      | none => pick (all.filter fun i => !protectedLine sl (sl.line h.set i))
    match w with
    | none => free ()
    | some w =>
      if w.persistence = 3 then .bypass
      else
        let half := halfOfSlice n
        let quota := if half = 0 then w.quota0 else w.quota1
        if quota ≠ 0 ∧ quota ≤ winLinesHalf s half w.window then
          pick (all.filter fun i =>
            let l := sl.line h.set i
            l.present && l.win == some w.window && !l.poison && !sl.missing l.no &&
              (!l.prot || w.persistence == 1))
        else free ()

/-- An empty line as it enters a set: recency by its window's setting (Table 11-2). -/
def enterLine (sl : Slice) (h : Home) (w : Option WinRec) (demoted : Bool) (cls : Nat) : Line × Slice :=
  let streaming := match w with
    | some w => w.persistence == 2
    | none => false
  let prot := match w with
    | some w => w.slocal || (w.persistence == 1 && !demoted)
    | none => false
  let age := if streaming then sl.ageLo - 1 else sl.ageHi + 1
  let sl := if streaming then { sl with ageLo := age } else { sl with ageHi := age }
  ({ present := true, no := h.backing / 256, win := w.map (·.window), prot := prot, age := age, cls := cls }, sl)

/-- Evict the line of a way: the valid bytes of a dirty line go to its tier with their mask (R222), in the class of the
request that evicts it (Table 12-7, kind 0x5). `send` takes them there. -/
def evict (send : State → Nat → Nat → Nat → List (Nat × Byte) → State) (s : State) (n set way cls : Nat) : State :=
  let l := (s.slice n).line set way
  let s := s.updSlice n fun sl => sl.setLine set way {}
  if l.present && l.dirty then send s n l.no cls (maskedBytes l.data l.valid 256) else s

/-- Allocate a line: the way it got, none where it is served without allocation. -/
def allocate (send : State → Nat → Nat → Nat → List (Nat × Byte) → State) (s : State) (n : Nat) (h : Home) (w : Option WinRec)
    (cls : Nat) : Option Nat × State :=
  match chooseWay s n h w with
  | .bypass => (none, s)
  | .at_ way =>
    let dem := demotes (s.slice n) h.set w
    let s := evict send s n h.set way cls
    let e := enterLine (s.slice n) h w dem cls
    let sl := e.2.setLine h.set way e.1
    let sl := if dem then { sl with demoted := sat 15 (sl.demoted + 1) } else sl
    (some way, s.setSlice n sl)

/-- A hit makes a line most recent, but for a streaming window's (R223). -/
def touch (sl : Slice) (set way : Nat) (w : Option WinRec) : Slice :=
  let streaming := match w with
    | some w => w.persistence == 2
    | none => false
  if streaming then sl
  else
    let l := sl.line set way
    { sl with ageHi := sl.ageHi + 1 }.setLine set way { l with age := sl.ageHi + 1 }

/-- Bytes written into a line: valid and dirty; a write of all 256 bytes clears its poison (R234). -/
def Line.store (l : Line) (ws : List (Nat × Byte)) : Line :=
  let l' := ws.foldl (fun l w => { l with data := mput l.data w.1 w.2, valid := setBit l.valid w.1 }) l
  { l' with dirty := true
            poison := l.poison && !((List.range 256).all fun i => ws.any fun w => w.1 == i) }

/-- A fill writes only the invalid bytes (R222). -/
def Line.fill (l : Line) (bytes : List Byte) : Line :=
  (List.range 256).foldl (fun l i =>
    if l.valid.testBit i then l
    else { l with data := mput l.data i (bytes.getD i 0), valid := setBit l.valid i }) l

/-- Bytes of a line. -/
def Line.read (l : Line) (off n : Nat) : List Byte := mread l.data off n

/-- Pair bytes with their offsets in a line. -/
def offsets (off : Nat) (bs : List Byte) : List (Nat × Byte) :=
  (List.range bs.length).zip bs |>.map fun p => (off + p.1, p.2)

/-- Count a served request of a class. -/
def countHit (sl : Slice) (cls : Nat) : Slice := { sl with hits := tupd 0 sl.hits cls fun n => (n + 1) % 2 ^ 32 }
/-- Count a miss of a class. -/
def countMiss (sl : Slice) (cls : Nat) : Slice := { sl with misses := tupd 0 sl.misses cls fun n => (n + 1) % 2 ^ 32 }

/-- The filter entry of a line. -/
def deadEntry (sl : Slice) (L : Nat) : Bool := sl.filter.any fun e => e.1 == L
/-- Remove a line's filter entry (R232). -/
def undead (sl : Slice) (L : Nat) : Slice := { sl with filter := sl.filter.filter fun e => e.1 != L }

/-- Record a dead read (R233). -/
def deadRead (sl : Slice) (L : Nat) : Slice :=
  { sl with deadBit := true, deadSets := satInc 8 sl.deadSets, deadReads := satInc 10 sl.deadReads, deadLine := L }

/-! ### Answers -/

/-- A request of an access has been answered: its lanes' values, or the detail of its bus error, which stays
with the lowest lane. An access that returns nothing and met no error is over once all are answered. -/
def answer (s : State) (r : Req) (res : Except Nat (List (Nat × Nat))) : State :=
  match r.src with
  | .none => s
  | .group c g id lane =>
    s.updGrp c g fun x =>
      let upd := fun (a : DevAcc) =>
        if a.id = id then
          match res with
          | .ok vs => { a with left := a.left - 1, got := a.got ++ vs }
          | .error e =>
            { a with left := a.left - 1
                     err := match a.err with
                       | some (l, d) => if l ≤ lane then some (l, d) else some (lane, e)
                       | none => some (lane, e) }
        else a
      { x with outst := (x.outst.map upd).filter fun a => !(a.left == 0 && a.regs == 0 && a.err.isNone) }

/-- Lane and value of what a read returns. -/
def readValue (r : Req) (bs : List Byte) : List (Nat × Nat) :=
  match r.src with
  | .group _ _ _ lane => [(lane, leNat bs)]
  | .none => []

/-! ### Atomics (7.4) -/

/-- One lane's operation on a word of `n` bits: the new value. -/
def atomApply (op : AtomOp) (n old x cmp : Nat) : Nat :=
  match op with
  | .add => (old + x) % 2 ^ n
  | .minS => if sext n x < sext n old then x else old
  | .maxS => if sext n old < sext n x then x else old
  | .minU => min old x
  | .maxU => max old x
  | .and => old &&& x
  | .or => old ||| x
  | .xor => old ^^^ x
  | .xchg => x
  | .cas => if old = cmp then x else old
  | .fadd => (fadd32 (BitVec.ofNat 32 old) (BitVec.ofNat 32 x)).toNat

/-- The operations of several lanes on one word in the order given (R142): the word afterwards, and what each
lane saw. -/
def atomLanes (op : AtomOp) (n : Nat) : Nat → List (Nat × Nat × Nat) → Nat × List (Nat × Nat)
  | old, [] => (old, [])
  | old, (l, x, cmp) :: ls =>
    let r := atomLanes op n (atomApply op n old x cmp) ls
    (r.1, (l, old) :: r.2)

/-! ### Queues towards memory and from the sources -/

/-- A slice issues a request to a channel: it enters the channel's queue, or waits at the slice behind a Cuff or for room
(R255, R314). -/
def toChannel (s : State) (r : MemReq) : State :=
  let cc := channelOf (256 * r.line)
  admitCtl (s.updMc cc.1 cc.2 fun m => { m with held := m.held ++ [r] }) cc.1 cc.2

/-- Send an evicted or unallocated line's bytes through its channel's queue. -/
def queueWrite (s : State) (n line cls : Nat) (ws : List (Nat × Byte)) : State :=
  toChannel s { line := line, slice := n, cls := cls, write := some ws }

/-- Two requests come from one source: a group, or one that is no group. -/
def sameSource : Src → Src → Bool
  | .group c g _ _, .group c' g' _ _ => c == c' && g == g'
  | .none, .none => true
  | _, _ => false

/-- Of two requests to a line the later keeps its place behind the earlier one of its own source. -/
def Req.follows (r q : Req) : Bool := q.addr / 256 == r.addr / 256 && sameSource q.src r.src

/-- A request waits for the host to give back a line it was asked for (R270). -/
def awaitsHost (s : State) (r : Req) : Bool :=
  (match r.kind with
    | .read => true
    | .atomic .. => true
    | _ => false) && r.cls != 0 &&
  (lines64 r.addr r.len).any fun l => s.hlk.dir.contains l && s.hlk.biOut.any fun b => b.1 && b.2.1 == l

/-- A requester that is no group is held by a limit of 0 (R258). -/
def limitHolds (s : State) (n : Nat) (r : Req) : Bool :=
  match r.src with
  | .group .. => false
  | .none => !mayReach s 3 n r.cls

/-- Requests held at their sources enter a slice's queue in their order where nothing holds them any more and their class has
room (R255, R258, R270, R314). -/
def release (s : State) (n : Nat) : State :=
  let sl := s.slice n
  if sliceHeld s n || sl.held.isEmpty then s
  else
    let rv := resvEntries s 3 n
    let step := fun (a : List Req × List Req) (r : Req) =>
      let room := fits 96 (fun k => (a.1.filter fun x => x.cls == k).length) rv r.cls 1
      if !(a.2.any r.follows) && !awaitsHost s r && !limitHolds s n r && room then (a.1 ++ [r], a.2) else (a.1, a.2 ++ [r])
    let q := sl.held.foldl step (sl.inq, [])
    let sl := { sl with inq := q.1, held := q.2 }
    s.setSlice n { sl with peak := raisePeak sl.inUse rv sl.peak }

/-- A request reaches its home slice, or is held at its source (R255, R314). -/
def deliver (s : State) (n : Nat) (r : Req) : State :=
  release (s.updSlice n fun sl => { sl with held := sl.held ++ [r] }) n

/-- A read or an atomic of classes 1–7 recalls the host's copies first and waits at its source, holding no entry (R270,
R283), with its source's requests behind it to the line; what the source issued after them comes after them still. -/
def sendBack (s : State) (n : Nat) (r : Req) : State :=
  s.updSlice n fun sl => { sl with held := r :: sl.inq.filter (fun q => q.follows r) ++ sl.held
                                   inq := sl.inq.filter fun q => !q.follows r }

/-! ### Serving one request -/

/-- A read that needs bytes its line does not hold takes a miss register as first waiter, its line a place, and goes to
memory. -/
def startMiss (s : State) (k : Nat) (h : Home) (r : Req) : State :=
  let L := r.addr / 256
  let w := windowAt s h.backing
  let s := match findWay (s.slice k) h with
    | some _ => s
    | none => (allocate queueWrite s k h w r.cls).2
  let s := s.updSlice k fun sl => { countMiss sl r.cls with miss := sl.miss ++ [{ line := L, waiters := [r] }] }
  toChannel s { line := L, slice := k, cls := r.cls, write := none }

/-- A read or an atomic needs bytes that are not there: a dead read (R233) or an ordinary miss. -/
def missOf (s : State) (k : Nat) (h : Home) (r : Req) : State :=
  let L := r.addr / 256
  if deadEntry (s.slice k) L then
    let s := s.updSlice k fun sl => deadRead sl L
    if (windowAt s h.backing).any (·.deadFault) then
      answer (s.updSlice k fun sl => countMiss sl r.cls) r (.error 4)
    else startMiss s k h r
  else startMiss s k h r

/-- Serve a read at a line that holds its bytes. -/
def readLine (s : State) (k set way : Nat) (r : Req) : State :=
  answer s r (.ok (readValue r (((s.slice k).line set way).read (r.addr % 256) r.len)))

/-- Serve an atomic at a line that holds its word (R142). -/
def atomLine (s : State) (k set way : Nat) (r : Req) (op : AtomOp) (ls : List (Nat × Nat × Nat)) : State :=
  let l := (s.slice k).line set way
  let q := atomLanes op (8 * r.len) (leNat (l.read (r.addr % 256) r.len)) ls
  let s := s.updSlice k fun sl =>
    (undead sl (r.addr / 256)).setLine set way (l.store (offsets (r.addr % 256) (leBytes r.len q.1)))
  answer (dirInvRange s r.addr r.len) r (.ok q.2)

/-- Enter a line in the dead-tag filter; a full filter first discards its oldest entry (R231). -/
def enterFilter (sl : Slice) (L win : Nat) : Slice :=
  if deadEntry sl L then sl
  else if 4096 ≤ sl.filter.length then
    { sl with filter := sl.filter.drop 1 ++ [(L, win)], overflows := (sl.overflows + 1) % 2 ^ 32 }
  else { sl with filter := sl.filter ++ [(L, win)] }

/-- A retire takes effect (R231). -/
def retireLine (s : State) (k : Nat) (h : Home) (L : Nat) : State :=
  let s := match findWay (s.slice k) h with
    | some way => s.updSlice k fun sl =>
        sl.setLine h.set way (if h.way.isSome then
          { sl.line h.set way with valid := 0, data := [], dirty := false, poison := false } else {})
    | none => s
  let win := ((windowAt s h.backing).map (·.window)).getD 0xFF
  dirInvRange (s.updSlice k fun sl => enterFilter sl L win) (256 * L) 256

/-- A write at a line without an active miss register (R222, R232): allocated without fetch, or sent on with its mask. -/
def storeLine (send : State → Nat → Nat → Nat → List (Nat × Byte) → State) (s : State) (k : Nat) (h : Home) (cls : Nat)
    (ws : List (Nat × Byte)) : State :=
  let L := h.backing / 256
  let w := windowAt s h.backing
  let s := s.updSlice k fun sl => undead sl L
  match findWay (s.slice k) h with
  | some way => s.updSlice k fun sl =>
      countHit (touch (sl.setLine h.set way ((sl.line h.set way).store ws)) h.set way w) cls
  | none =>
    match allocate send s k h w cls with
    | (some way, s) => s.updSlice k fun sl => countHit (sl.setLine h.set way ((sl.line h.set way).store ws)) cls
    | (none, s) => send (s.updSlice k fun sl => countMiss sl cls) k L cls ws

/-- Serve a request whose line has no active miss register. -/
def serveHere (s : State) (k : Nat) (h : Home) (r : Req) : State :=
  let L := r.addr / 256
  let off := r.addr % 256
  let w := windowAt s h.backing
  match r.kind with
  | .retire => answer (retireLine (s.updSlice k fun sl => countHit sl r.cls) k h L) r (.ok [])
  | .write bs => answer (dirInvRange (storeLine queueWrite s k h r.cls (offsets off bs)) r.addr r.len) r (.ok [])
  | .read =>
    match findWay (s.slice k) h with
    | some way =>
      let l := (s.slice k).line h.set way
      if l.poison then answer s r (.error 2)
      else if covers l.valid (maskOf off r.len) then
        readLine (s.updSlice k fun sl => countHit (touch sl h.set way w) r.cls) k h.set way r
      else missOf s k h r
    | none => missOf s k h r
  | .atomic op ls =>
    match findWay (s.slice k) h with
    | some way =>
      let l := (s.slice k).line h.set way
      if l.poison then answer s r (.error 2)
      else if covers l.valid (maskOf off r.len) then
        atomLine (s.updSlice k fun sl => countHit (touch sl h.set way w) r.cls) k h.set way r op ls
      else missOf s k h r
    | none => missOf s k h r

/-- Before a read or an atomic is served: at class 0 the host's copies are invalidated, at other classes recalled; the Bool
says that it may go on (R270). -/
def snoopReq (s : State) (r : Req) : Bool × State :=
  match r.kind with
  | .read => snoopRead s r.cls r.addr r.len
  | .atomic .. => snoopRead s r.cls r.addr r.len
  | _ => (true, s)

/-! ### Fills (R224, R225) -/

/-- Clusters of the read waiters that come from cores. -/
def waitClusters (ws : List Req) : List Nat :=
  (ws.filterMap fun r => match r.kind, r.src with
    | .read, .group c _ _ _ => some (clusterOf c)
    | _, _ => none).eraseDups

/-- A request joins the waiter list of its line's miss register (R224). -/
def joinMiss (s : State) (k : Nat) (r : Req) : State :=
  s.updSlice k fun sl =>
    { sl with miss := sl.miss.map fun m => if m.line = r.addr / 256 then { m with waiters := m.waiters ++ [r] } else m }

/-- An access of a class joins the line's miss register (R224). -/
def countMerge (s : State) (k cls : Nat) : State :=
  s.updSlice k fun sl => { sl with merges := tupd 0 sl.merges cls fun n => (n + 1) % 2 ^ 32 }

/-- Waiters that stand behind a retire find the line dead and are served anew, in their order: the first that needs bytes
takes the register again, and the rest wait with it (R224, R231, R233). -/
def serveAnew (k : Nat) (h : Home) : List Req → State → State
  | [], s => s
  | r :: rs, s =>
    serveAnew k h rs (if (s.slice k).missing (r.addr / 256) then joinMiss s k r else serveHere s k h r)

/-- How a fill leaves what waits behind its waiters. -/
inductive FillEnd where
  /-- A bus error of this detail, for every read (R253). -/
  | failed (e : Nat)
  /-- The line's bytes, with what the waiters wrote over them. -/
  | bytes (b : List Byte)
  /-- A retire has taken the line: what follows is served anew. -/
  | anew

/-- A write at a line whose fill has come back: in its way, or sent on where the line has no place (R222, R232). -/
def storeFilled (s : State) (k : Nat) (h : Home) (cls : Nat) (ws : List (Nat × Byte)) : State :=
  let L := h.backing / 256
  let s := s.updSlice k fun sl => undead sl L
  match findWay (s.slice k) h with
  | some way => s.updSlice k fun sl => sl.setLine h.set way ((sl.line h.set way).store ws)
  | none => writeBack s k L cls ws

/-- A read at a line whose fill has come back: its line's bytes, or those of the fill where the line has no place. A line
with a filter entry whose bytes were invalid before the fill (`pre` holds the valid ones) is dead for it too (R233). -/
def readFilled (s : State) (k : Nat) (h : Home) (pre : Nat) (b : List Byte) (off n : Nat) : List Byte × State :=
  let L := h.backing / 256
  let s := if deadEntry (s.slice k) L && !covers pre (maskOf off n) then s.updSlice k fun sl => deadRead sl L else s
  match findWay (s.slice k) h with
  | some way => (((s.slice k).line h.set way).read off n, s)
  | none => (slice b off n, s)

/-- Serve the waiters of a fill in order (R224). The first of them missed and reported its own dead read. -/
def serveWaiters (k : Nat) (h : Home) : Nat → FillEnd → List Req → State → FillEnd × State
  | _, f, [], s => (f, s)
  | pre, f, r :: rs, s =>
    let off := r.addr % 256
    match r.kind, f with
    | .retire, _ => (.anew, serveAnew k h rs (answer (retireLine s k h (r.addr / 256)) r (.ok [])))
    | .write bs, f =>
      let ws := offsets off bs
      let f := match f with
        | .bytes b => .bytes (overlay b ws)
        | f => f
      serveWaiters k h pre f rs (answer (dirInvRange (storeFilled s k h r.cls ws) r.addr r.len) r (.ok []))
    | .read, .bytes b =>
      let v := readFilled s k h pre b off r.len
      serveWaiters k h pre f rs (answer v.2 r (.ok (readValue r v.1)))
    | .atomic op ls, .bytes b =>
      let v := readFilled s k h pre b off r.len
      let q := atomLanes op (8 * r.len) (leNat v.1) ls
      let ws := offsets off (leBytes r.len q.1)
      let s := storeFilled v.2 k h r.cls ws
      serveWaiters k h pre (.bytes (overlay b ws)) rs (answer (dirInvRange s r.addr r.len) r (.ok q.2))
    | _, .failed e => serveWaiters k h pre f rs (answer s r (.error e))
    | _, .anew => serveWaiters k h pre f rs s

/-- Read waiters of a fill that it answers, from cores: those that no retire stands before. -/
def fillTakers (ws : List Req) : List Nat :=
  (ws.takeWhile fun r => r.kind != .retire).filterMap fun r => match r.kind, r.src with
    | .read, .group .. => some r.cls
    | _, _ => none

/-- A line's fill has come back, its bytes or none for a bus error: it fills the invalid bytes and serves the waiter list
(R224), counting the deliveries of a multicast (R225). `also` is a cluster whose DMA engine waits for the line behind the
list, with its class. -/
def fillLine (s : State) (k L : Nat) (bytes : Option (List Byte)) (also : Option (Nat × Nat)) : FillEnd × State :=
  let ws := ((s.slice k).miss.filter fun m => m.line == L).flatMap (·.waiters)
  let s := s.updSlice k fun sl => { sl with miss := sl.miss.filter fun m => m.line != L }
  match resolve s true (256 * L) with
  | .error e => (.failed e, ws.foldl (fun s r => answer s r (.error e)) s)
  | .ok h =>
    let pre := match findWay (s.slice k) h with
      | some way => ((s.slice k).line h.set way).valid
      | none => 0
    let s := match bytes, findWay (s.slice k) h with
      | some b, some way => s.updSlice k fun sl => sl.setLine h.set way ((sl.line h.set way).fill b)
      | _, _ => s
    let many := decide (2 < (waitClusters ws ++ (also.map (·.1)).toList).eraseDups.length) && bytes.isSome
    let takers := fillTakers ws ++ (if ws.any fun r => r.kind == .retire then [] else (also.map (·.2)).toList)
    let s := if many then s.updSlice k fun sl =>
        { sl with mcasts := takers.foldl (fun t c => tupd 0 t c fun n => (n + 1) % 2 ^ 32) sl.mcasts } else s
    let cc := channelOf (256 * L)
    let e := if s.inService (if cc.1 then 5 else 4) cc.2 then 2 else 1
    match bytes, ws with
    | none, _ => serveWaiters k h pre (.failed e) ws s
    | some b, [] => (.bytes b, s)
    | some b, r :: rs =>
      let f := serveWaiters k h (2 ^ 256 - 1) (.bytes b) [r] s
      match f.1 with
      | .anew => (.anew, serveAnew k h rs f.2)
      | f1 => serveWaiters k h pre f1 rs f.2

/-- The bytes of a fill that comes at once: those that have come back, or those its channel gives, none for a bus error; its
read leaves the channel's queue. -/
def fetchFill (s : State) (k L : Nat) : Option (List Byte) × State :=
  let cls := (((s.slice k).miss.find? fun m => m.line == L).map Miss.cls).getD 7
  let got := (s.slice k).rets.find? fun r => r.1 == L
  let cc := channelOf (256 * L)
  let drop := fun (r : MemReq) => !(r.line == L && r.slice == k && r.write.isNone)
  let s := (s.updSlice k fun sl => { sl with rets := sl.rets.filter fun r => r.1 != L }).updMc cc.1 cc.2 fun m =>
    { m with q := m.q.filter drop, held := m.held.filter drop }
  match got with
  | some g => (g.2, admitCtl s cc.1 cc.2)
  | none =>
    let r := backingLine (admitCtl s cc.1 cc.2) L cls
    (r.1.toOption, r.2)

/-- The fill of a line whose miss register is active, at once. -/
def fillNow (s : State) (k L : Nat) (also : Option (Nat × Nat)) : FillEnd × State :=
  let f := fetchFill s k L
  fillLine f.2 k L f.1 also

/-! ### Accesses that are taken whole (log 13) -/

/-- The waiter list of a line. -/
def waitersOf (sl : Slice) (L : Nat) : List Req := ((sl.miss.find? fun m => m.line == L).map (·.waiters)).getD []

/-- What has arrived for a line with an active miss register joins its list, in order of arrival, while it has room
(R224); a read or an atomic that must wait for the host goes back (R270). -/
def joinAll : Nat → State → Nat → Nat → State
  | 0, s, _, _ => s
  | f + 1, s, k, L =>
    match (s.slice k).inq.find? fun r => r.addr / 256 == L with
    | none => s
    | some r =>
      if 32 ≤ (waitersOf (s.slice k) L).length then s
      else
        let sn := snoopReq (s.updSlice k fun sl => { sl with inq := sl.inq.erase r }) r
        joinAll f (if sn.1 then joinMiss (countMerge (chargeSlice sn.2 k r.cls r.len) k r.cls) k r else sendBack sn.2 k r) k L

/-- Everything that has arrived for a line takes effect, in order of arrival (R221, R224): fills come at once, but from a
channel whose Cuff holds the line's read (R314). -/
def settle : Nat → State → Nat → Nat → State
  | 0, s, _, _ => s
  | f + 1, s, k, L =>
    if (s.slice k).missing L then
      if lineHeld s L then s else settle f (fillNow (joinAll (s.slice k).inq.length s k L) k L none).2 k L
    else match (s.slice k).inq.find? fun r => r.addr / 256 == L with
      | none => s
      | some r =>
        let s := s.updSlice k fun sl => { sl with inq := sl.inq.erase r }
        match resolve s true r.addr with
        | .error e => settle f (answer s r (.error e)) k L
        | .ok h =>
          let sn := snoopReq s r
          settle f (if sn.1 then serveHere (chargeSlice sn.2 k r.cls r.len) k h r else sendBack sn.2 k r) k L

/-- Settle a line before an access taken whole. -/
def settleLine (s : State) (k L : Nat) : State := settle (2 * (s.slice k).waiting.length + 2) s k L

/-- What has arrived for a line joins its list, and an access taken whole finds room behind it (R224). -/
def mergeAt (s : State) (k L : Nat) : Option State :=
  if (s.slice k).missing L && !lineHeld s L then
    let s := joinAll (s.slice k).inq.length s k L
    if 32 ≤ (waitersOf (s.slice k) L).length then none else some s
  else none

/-- A write to a line at its home (R222, R232), in its turn: it joins an active miss register, or comes after all that has
arrived. A slice under its Cuff holds it, and so it waits where the line's fill is held at the slice (R314). -/
def homeWrite (s : State) (h : Home) (cls off : Nat) (bs : List Byte) : State :=
  let k := h.slice
  let L := h.backing / 256
  let wait := fun (s : State) =>
    deliver s k { src := .none, kind := .write bs, addr := 256 * L + off, len := bs.length, cls := cls }
  let fresh := fun (s : State) =>
    let t := settleLine s k L
    if (t.slice k).missing L then wait t
    else storeLine writeBack (chargeSlice t k cls bs.length) k h cls (offsets off bs)
  if sliceHeld s k then wait s
  else match mergeAt s k L with
    | none => fresh s
    | some t =>
      let f := fillNow (chargeSlice (countMerge t k cls) k cls bs.length) k L none
      match f.1 with
      | .anew =>
        let t := settleLine f.2 k L
        if (t.slice k).missing L then wait t else storeLine writeBack t k h cls (offsets off bs)
      | _ => storeFilled f.2 k h cls (offsets off bs)

/-- A read whose line has no active miss register, nothing having arrived before it: a hit, or a miss that fetches the line at
once and allocates under its window's rules (R222, R223, R233, R234). -/
def readFresh (s : State) (h : Home) (cls off n : Nat) : Except Nat (List Byte) × State :=
  let k := h.slice
  let L := h.backing / 256
  let w := windowAt s h.backing
  let fetch := fun (s : State) (way : Option Nat) =>
    match backingLine s L cls with
    | (.error _, s) => (Except.error 2, s)
    | (.ok b, s) =>
      match way with
      | some way =>
        let s := s.updSlice k fun sl => sl.setLine h.set way ((sl.line h.set way).fill b)
        (Except.ok (((s.slice k).line h.set way).read off n), s)
      | none => (Except.ok (slice b off n), s)
  let miss := fun (s : State) (way : Option Nat) =>
    let dead := deadEntry (s.slice k) L
    let s := s.updSlice k fun sl => countMiss (if dead then deadRead sl L else sl) cls
    if dead && w.any (·.deadFault) then (Except.error 4, s)
    else match way with
      | some way => fetch s (some way)
      | none => let a := allocate writeBack s k h w cls; fetch a.2 a.1
  match findWay (s.slice k) h with
  | some way =>
    let l := (s.slice k).line h.set way
    if l.poison then (.error 2, s)
    else if covers l.valid (maskOf off n) then
      (.ok (l.read off n), s.updSlice k fun sl => countHit (touch sl h.set way w) cls)
    else miss s (some way)
  | none => miss s none

/-- A read at its home taken whole, for the DMA engine of a cluster or another requester: the bytes, or the detail of its
bus error (0x01 to 0x04 of trap 0x08). It joins an active miss register and takes what the fill brings (R224, R225, R253), or
comes after all that has arrived. -/
def homeRead (s : State) (h : Home) (cl : Option Nat) (cls off n : Nat) : Except Nat (List Byte) × State :=
  let k := h.slice
  let L := h.backing / 256
  match mergeAt s k L with
  | none => readFresh (chargeSlice (settleLine s k L) k cls n) h cls off n
  | some t =>
    let pre := match findWay (t.slice k) h with
      | some way => ((t.slice k).line h.set way).valid
      | none => 0
    let f := fillNow (chargeSlice (countMerge t k cls) k cls n) k L (cl.map fun c => (c, cls))
    match f.1 with
    | .failed e => (.error e, f.2)
    | .bytes b =>
      let v := readFilled f.2 k h pre b off n
      (.ok v.1, v.2)
    | .anew => readFresh (settleLine f.2 k L) h cls off n

/-! ### What an access sends to memory -/

/-- The line a request's place would push out, if it holds bytes to write back. -/
def victimLine (s : State) (k : Nat) (h : Home) : Option Nat :=
  match chooseWay s k h (windowAt s h.backing) with
  | .bypass => none
  | .at_ way =>
    let l := (s.slice k).line h.set way
    if l.present && l.dirty then some l.no else none

/-- The lines a request would send to their channels: none where it hits, its victim's and its own where it misses. -/
def sendsLines (s : State) (k : Nat) (h : Home) (r : Req) : List Nat :=
  let L := r.addr / 256
  let here := findWay (s.slice k) h
  let hit := here.any fun way =>
    let l := (s.slice k).line h.set way
    l.poison || covers l.valid (maskOf (r.addr % 256) r.len)
  let bypass := decide (chooseWay s k h (windowAt s h.backing) = .bypass)
  match r.kind with
  | .retire => []
  | .write _ => if here.isSome then [] else if bypass then [L] else (victimLine s k h).toList
  | _ => if hit then [] else if here.isSome then [L] else (victimLine s k h).toList ++ [L]

/-- The code page whose counter entry a controller reads for a line's read or write: an LPDDR6 page that no held copy and, for
a read, no merge entry answers (Table 12-7, kind 0x6). -/
def ctrNeeded (s : State) (line : Nat) : Option (Nat × Nat) :=
  let cc := channelOf (256 * line)
  let p := (pageOf (256 * line)).2.1
  let m := s.lp cc.2
  if !cc.1 || mergeCovers m.merge p (256 * line % 2048) 256 || m.heldPages.any (fun x => x.1 == p) then none
  else some (cc.2, p)

/-- A controller's limit towards the counter store lets it read a page's entry; the transfer ends with the access it serves,
so none stays outstanding (R258; log 52). -/
def ctrMayAsk (s : State) (c p cls : Nat) : Bool :=
  let ch := ctrCh (ctrLine c p)
  decide (0 < (limitsOf s 6 cls).getD (heldCode s 6 (memCtl false ch) (s.bc ch).codes cls) 0)

/-- The limits of a slice, and of the LPDDR6 controllers it asks, let a line's access send what it needs (R258, kinds 0x5 and
0x6). -/
def sendsAllowed (s : State) (k : Nat) (h : Home) (r : Req) : Bool :=
  let ls := sendsLines s k h r
  linesAllowed s k ls r.cls && ls.all fun l => (ctrNeeded s l).all fun x => ctrMayAsk s x.1 x.2 r.cls

/-! ### Accesses of any length -/

/-- Split a range at line boundaries: address and length of each piece. -/
def pieces : Nat → Nat → Nat → List (Nat × Nat)
  | 0, _, _ => []
  | f + 1, a, n =>
    if n = 0 then []
    else
      let k := min n (256 - a % 256)
      (a, k) :: pieces f (a + k) (n - k)

/-- The pieces of a range by lines. -/
def linePieces (a n : Nat) : List (Nat × Nat) := pieces (n / 256 + 2) a n

/-- A Cuff holds part of a range: its home slice, or the channel behind a line (R314). -/
def rangeHeld (s : State) (a n : Nat) : Bool :=
  (linePieces a n).any fun pc => match resolve s true pc.1 with
    | .error _ => false
    | .ok h => sliceHeld s h.slice || lineHeld s (h.backing / 256)

/-- The limits of a requester kind let it reach every home of a range, and those of the slices what they must send for it
(R258). -/
def rangeAllowed (s : State) (kind cls a n : Nat) (write : Bool) : Bool :=
  (linePieces a n).all fun pc => match resolve s true pc.1 with
    | .error _ => true
    | .ok h => mayReach s kind h.slice cls && sendsAllowed s h.slice h
        { src := .none, kind := if write then .write [] else .read, addr := h.backing, len := pc.2, cls := cls }

/-- A requester of a kind may read or write a range now; one held by its limit counts (REG_CLS_HELD). -/
def mayAccess (s : State) (kind cls a n : Nat) (write : Bool) : Bool × State :=
  if rangeHeld s a n then (false, s)
  else if rangeAllowed s kind cls a n write then (true, s)
  else (false, countHeld s cls)

/-- Read bytes at their homes: the bytes, or the detail of the lowest bus error. `cl` is the cluster whose DMA engine
reads. -/
def devRead (s : State) (priv : Bool) (cls a n : Nat) (cl : Option Nat := none) : Except Nat (List Byte) × State :=
  (linePieces a n).foldl (fun (acc : Except Nat (List Byte) × State) pc =>
    match acc.1 with
    | .error e => (.error e, acc.2)
    | .ok bs =>
      match resolve acc.2 priv pc.1 with
      | .error e => (.error e, acc.2)
      | .ok h =>
        let r := homeRead acc.2 h cl cls (pc.1 % 256) pc.2
        match r.1 with
        | .error e => (.error e, r.2)
        | .ok b => (.ok (bs ++ b), r.2)) (.ok [], s)

/-- Write bytes at their homes, telling the host of listed lines afterwards (R270): the detail of the lowest
bus error, if any; pieces without one take effect. -/
def devStore (s : State) (priv : Bool) (cls a : Nat) (bs : List Byte) : Option Nat × State :=
  let r := (linePieces a bs.length).foldl (fun (acc : Option Nat × State) pc =>
    match resolve acc.2 priv pc.1 with
    | .error e => (acc.1.orElse fun _ => some e, acc.2)
    | .ok h => (acc.1, homeWrite acc.2 h cls (pc.1 % 256) (slice bs (pc.1 - a) pc.2))) (none, s)
  (r.1, dirInvRange r.2 a bs.length)

/-- Write bytes at their homes (a write the caller knows to be in range). -/
def devWrite (s : State) (cls a : Nat) (bs : List Byte) : State := (devStore s true cls a bs).2

/-- Read bytes for a privileged requester, zeros where they cannot be read: the bytes and the state. -/
def devTake (s : State) (cls a n : Nat) : List Byte × State :=
  match devRead s true cls a n with
  | (.ok b, s) => (b, s)
  | (.error _, s) => (List.replicate n 0#8, s)

/-- Look at bytes without serving a request: what any requester would see. Zero where there is none. -/
def devPeek (s : State) (a n : Nat) : List Byte :=
  (linePieces a n).flatMap fun pc =>
    match resolve s true pc.1 with
    | .error _ => List.replicate pc.2 0#8
    | .ok h =>
      let L := h.backing / 256
      let base := match (backingLine s L 7).1 with
        | .ok b => b
        | .error _ => List.replicate 256 0#8
      match findWay (s.slice h.slice) h with
      | some way =>
        let l := (s.slice h.slice).line h.set way
        slice (overlay base (maskedBytes l.data l.valid 256)) (pc.1 % 256) pc.2
      | none => slice base (pc.1 % 256) pc.2

end Sys2Proof.Machine
end

