-- ==== Sys2Proof/Machine/KvBase.lean ====
section
/-! DEFINITION. The KV agent's tables: page geometry (10.1, R200), placement (R201), the copies it writes in
device memory (Tables 10-5, 10-9), and closing a sequence as END does (R202, R209). -/

namespace Sys2Proof.Machine

/-- Page size of a pool (Table 10-2). -/
def PoolRec.pageBytes (p : PoolRec) : Nat := 16384 * 2 ^ p.pageCode
/-- Pages of one column. -/
def PoolRec.pagesPerCol (p : PoolRec) : Nat := p.columnBytes / p.pageBytes

/-- Element bytes of a KV format. -/
def kvElem (fmt : Nat) : Nat := if fmt = 1 then 2 else 1

/-- The pool of a layer. -/
def KvLayout.poolOf (k : KvLayout) (l : LayerRec) : PoolRec :=
  k.pools.getD l.pool ⟨0, 0, 0, 0, 0, 0, 0⟩

/-- Heads a page carries. -/
def LayerRec.hpg (l : LayerRec) : Nat := if l.byPosition then l.heads else 1
/-- slab_bytes of a layer. -/
def LayerRec.slab (l : LayerRec) : Nat := 64 * l.hpg * l.headDim * kvElem l.fmt
/-- P_pg: positions of a page. -/
def KvLayout.ppg (k : KvLayout) (l : LayerRec) : Nat := 32 * ((k.poolOf l).pageBytes / l.slab)
/-- R: pages per head range. -/
def KvLayout.rOf (k : KvLayout) (l : LayerRec) : Nat := cdiv k.maxPositions (k.ppg l)
/-- pt_pages of a layer. -/
def KvLayout.ptPages (k : KvLayout) (l : LayerRec) : Nat :=
  if l.byPosition then k.rOf l else l.heads * k.rOf l
/-- pt_stride. -/
def KvLayout.ptStride (k : KvLayout) : Nat := cdiv (8 * (k.layers.map k.ptPages).sum) 64 * 64

/-- Layers with the page-table index at which each begins. -/
def layerBases (k : KvLayout) : Nat → List LayerRec → List (LayerRec × Nat)
  | _, [] => []
  | b, l :: ls => (l, b) :: layerBases k (b + k.ptPages l) ls

/-- Page-table indices of a layer covering positions below `n`, with the placement key of R201 and the
first position of each page. -/
def layerPages (k : KvLayout) (l : LayerRec) (base n : Nat) : List (Nat × Nat × Nat) :=
  let pages := cdiv n (k.ppg l)
  if l.byPosition then
    (List.range pages).map fun i => (base + i, l.layer + i, i * k.ppg l)
  else
    (List.range l.heads).flatMap fun h =>
      (List.range pages).map fun i => (base + h * k.rOf l + i, l.layer * l.heads + h, i * k.ppg l)

/-- Every page of positions below `n`: index, placement key, first position, and pool. -/
def pagesBelow (k : KvLayout) (n : Nat) : List (Nat × Nat × Nat × Nat) :=
  (layerBases k 0 k.layers).flatMap fun lb =>
    (layerPages k lb.1 lb.2 n).map fun t => (t.1, t.2.1, t.2.2, lb.1.pool)

/-- Pages that positions below `n` need of a pool. -/
def pagesNeeded (k : KvLayout) (n pool : Nat) : Nat := ((pagesBelow k n).filter fun t => t.2.2.2 == pool).length

/-- A column of a pool. -/
def Kv.col (v : Kv) (pool col : Nat) : Column := tget {} v.cols (128 * pool + col)
/-- Replace a column. -/
def Kv.setCol (v : Kv) (pool col : Nat) (c : Column) : Kv := { v with cols := tput {} v.cols (128 * pool + col) c }

/-- The enabled columns of a pool in ascending order: rank. -/
def Kv.ranks (v : Kv) (p : PoolRec) (pool : Nat) : List Nat :=
  (List.range p.columns).filter fun c => (v.col pool c).enabled

/-- The lowest free page of a column. -/
def freePage (p : PoolRec) (c : Column) : Option Nat := least p.pagesPerCol fun i => !c.used.contains i

/-- Unreserved pages of a pool: pages of enabled columns that no reservation holds. -/
def Kv.unreserved (v : Kv) (p : PoolRec) (pool : Nat) : Nat :=
  (v.ranks p pool).length * p.pagesPerCol - tget 0 v.reserved pool

/-- Place a page (R201): the column and the page within it; none where the pool holds no free page. -/
def placePage (v : Kv) (p : PoolRec) (pool key : Nat) : Option (Nat × Nat) :=
  let rk := v.ranks p pool
  let e := rk.length
  (List.range e).findSome? fun d =>
    let c := rk.getD ((key % e + d) % e) 0
    (freePage p (v.col pool c)).map fun i => (c, i)

/-- A page-table entry word (Table 10-5). -/
def ptWord (code : Nat) (pg : KvPage) : Nat :=
  if pg.held then
    1 + 2 * b2n pg.tentative + 4 * code + 2 ^ 8 * pg.pool + (pg.addr / 2 ^ 14 % 2 ^ 26) * 2 ^ 14 + 2 ^ 40 * pg.column
  else 0

/-- A sequence. -/
def Kv.seq (v : Kv) (q : Nat) : Seq := tget {} v.seqs q
/-- Replace a sequence. -/
def Kv.setSeq (v : Kv) (q : Nat) (x : Seq) : Kv := { v with seqs := tput {} v.seqs q x }

/-- pages_held of a sequence. -/
def Seq.held (q : Seq) : Nat := (q.pages.filter fun e => e.2.held).length

/-- The 64 bytes of a sequence record (Table 10-9). -/
def seqBytes (q : Seq) : List Byte :=
  leBytes 1 q.state ++ leBytes 1 q.last ++ leBytes 2 0 ++ leBytes 4 q.slot ++ leBytes 4 q.c ++ leBytes 4 q.f ++
  leBytes 4 q.reserve ++ leBytes 4 q.items ++ leBytes 4 q.held ++ leBytes 4 ((q.resv.map (·.2)).sum) ++
  leBytes 8 q.stamp ++ leBytes 4 q.commits ++ leBytes 4 q.discarded ++ leBytes 16 0

/-- The KV layout of a stream's graph. -/
def State.kvLayout (s : State) (n : Nat) : Option KvLayout := (s.graphOf n).bind (·.kv)

/-- Class of a stream; 7 when undeclared. -/
def State.streamClass (s : State) (n : Nat) : Nat := ((s.streamRec n).map (·.cls)).getD 7

/-- Write a sequence's record in device memory (R205). -/
def writeSeqRecord (s : State) (n q : Nat) : State :=
  match s.kvLayout n with
  | some k => devWrite s (s.streamClass n) (k.seqBase + 64 * q) (seqBytes ((s.kv n).seq q))
  | none => s

/-- Write one page-table entry in device memory (R205). -/
def writePt (s : State) (n q idx : Nat) : State :=
  match s.kvLayout n with
  | some k =>
    let pg := tget {} ((s.kv n).seq q).pages idx
    let code := (k.pools.getD pg.pool ⟨0, 0, 0, 0, 0, 0, 0⟩).pageCode
    devWrite s (s.streamClass n) (k.ptBase + q * k.ptStride + 8 * idx) (leBytes 8 (ptWord code pg))
  | none => s

/-- Give a page back to its column. -/
def releasePage (v : Kv) (k : KvLayout) (pg : KvPage) : Kv :=
  let p := k.pools.getD pg.pool ⟨0, 0, 0, 0, 0, 0, 0⟩
  let c := v.col pg.pool pg.column
  let i := (pg.addr - (p.base + pg.column * p.columnBytes)) / p.pageBytes
  v.setCol pg.pool pg.column { c with used := c.used.filter (· != i) }

/-- Return a sequence's reservation. -/
def returnResv (v : Kv) (q : Seq) : Kv :=
  { v with reserved := q.resv.foldl (fun r e => tupd 0 r e.1 fun n => n - e.2) v.reserved }

/-- Close a sequence as END does: its entries written zero, its pages and its reservation returned. -/
def closeSeq (s : State) (n q : Nat) : State :=
  match s.kvLayout n with
  | none => s
  | some k =>
    let v := s.kv n
    let x := v.seq q
    let idxs := (x.pages.filter fun e => e.2.held).map (·.1)
    let v := idxs.foldl (fun v i => releasePage v k (tget {} x.pages i)) v
    let v := returnResv v x
    let v := v.setSeq q { last := x.last, slot := x.slot, c := x.c, f := x.c, reserve := 0, items := x.items,
                          stamp := x.stamp, commits := x.commits, discarded := x.discarded + (x.f - x.c) }
    let s := s.setKv n v
    let s := idxs.foldl (fun s i => writePt s n q i) s
    writeSeqRecord s n q

/-- A request that ends failed closes every sequence still bound to its slot (R209); a lost one is closed in
the same way (R208). -/
def closeSequences (s : State) (n slot : Nat) : State :=
  ((s.kv n).seqs.filter fun e => e.2.state != 0 && e.2.slot == slot).foldl (fun s e => closeSeq s n e.1) s

/-- A failed command's result in KV_ERR (R203). -/
def Kv.fail (v : Kv) (result op : Nat) : Kv :=
  { v with err := true, errSets := satInc 8 v.errSets, errResult := result, errOp := op }

/-- Device address of KV_CMD(n) (10.8). -/
def kvCmdAddr (n : Nat) : Nat := 0xF000302000 + 0x20 * n

/-- Control space as a device address (13.1). -/
def isControl (a : Nat) : Bool := decide (0xF000000000 ≤ a) && decide (a < 0xF010000000)

/-- The stream whose KV_CMD holds a control-space address. -/
def kvCmdStream (a : Nat) : Option Nat :=
  if 0xF000302000 ≤ a ∧ a < 0xF000302800 ∧ (a - 0xF000302000) % 0x20 < 0x10 then some ((a - 0xF000302000) / 0x20) else none

/-- The unit a column of a pool lies on (Table 10-2). -/
def columnUnit (p : PoolRec) (c : Nat) : Nat × Nat := (p.unitType, p.firstUnit + c)

/-- Sequences of a stream that hold a page of a unit's columns. -/
def seqsOnUnit (v : Kv) (k : KvLayout) (ut id : Nat) : List Nat :=
  (v.seqs.filter fun e => e.2.state == 1 && e.2.pages.any fun p =>
    p.2.held && columnUnit (k.pools.getD p.2.pool ⟨0, 0, 0, 0, 0, 0, 0⟩) p.2.column == (ut, id)).map (·.1)

/-- Mark the sequences that hold a page on a unit as lost and return their reservations (R208). The
requests of their slots are to end failed with reason 0x08. -/
def loseSequences (s : State) (n ut id : Nat) : State :=
  match s.kvLayout n with
  | none => s
  | some k =>
    let qs := seqsOnUnit (s.kv n) k ut id
    qs.foldl (fun s q =>
      let v := s.kv n
      let x := v.seq q
      let v := { returnResv v x with lost := satInc 8 v.lost }
      let s := s.setKv n (v.setSeq q { x with state := 2, resv := [] })
      let s := writeSeqRecord s n q
      let s := s.updStream n fun st => { st with reqs := st.reqs.map fun r =>
        if r.slot = x.slot then { r with failing := some 8 } else r }
      faultIf s (s.isClass0 n) { cls := 3, source := 9, stream := n, unitType := ut, unitId := id, reason := 8 }) s

/-- A floor plan change that fences a unit removes its columns from every pool and loses the sequences on
them (R208). -/
def kvUnitFenced (s : State) (ut id : Nat) : State :=
  s.streamIds.foldl (fun s n =>
    match s.kvLayout n with
    | none => s
    | some k =>
      let v := (List.range k.pools.length).foldl (fun v i =>
        let p := k.pools.getD i ⟨0, 0, 0, 0, 0, 0, 0⟩
        (List.range p.columns).foldl (fun v c =>
          if columnUnit p c = (ut, id) then v.setCol i c { v.col i c with enabled := false } else v) v) (s.kv n)
      loseSequences (s.setKv n v) n ut id) s

end Sys2Proof.Machine
end

