-- ==== Sys2Proof/Machine/Ops.lean ====
section
/-! DEFINITION. The operations every family shares: status words and the end of a request (3.5, 13.4),
shedding (R64, R65), traps (R149, R150) and the end of groups, blocks and steps (R134, R148), fatal errors
(R360), and the floor plan change (R23) with what the loss of a unit does. -/

namespace Sys2Proof.Machine

/-! ### Requests and status words -/

/-- The device windows of the running image (Table 13-3). -/
def deviceWindows (s : State) : List HostWin :=
  match s.img.running with
  | some im => im.hostWins.filter fun w => w.kind == 1
  | none => []

/-- The device window that holds `n` bytes of the HDM range from an offset, and their device address. -/
def hdmFind (s : State) (off n : Nat) : Option (HostWin × Nat) :=
  ((deviceWindows s).find? fun w => decide (w.hdmOffset ≤ off) && decide (off + n ≤ w.hdmOffset + w.size)).map
    fun w => (w, w.devBase + (off - w.hdmOffset))

/-- Device address of an HDM offset; 0 outside every window. -/
def hdmAddr (s : State) (off : Nat) : Nat := ((hdmFind s off 1).map (·.2)).getD 0

/-- Device address of a slot of a stream's ring (13.4). -/
def slotAddr (s : State) (n slot : Nat) : Nat :=
  match s.streamRec n with
  | some r => hdmAddr s (r.ringBase + 256 * slot)
  | none => 0

/-- Device address of a slot's result buffer (R279). -/
def resultAddr (s : State) (n slot : Nat) : Nat :=
  match s.streamRec n with
  | some r => hdmAddr s (r.resultBase + slot * r.resultBytes)
  | none => 0

/-- A status word (Table 13-5). -/
def statusWord (state reason items elapsed : Nat) : Nat :=
  state % 16 + 2 ^ 4 * (reason % 256) + 2 ^ 12 * (items % 2 ^ 16) + 2 ^ 28 * sat 36 elapsed

/-- Write a slot's status word at the tick of the write (R278). -/
def writeStatus (s : State) (n slot state reason items commit : Nat) : State :=
  devWrite s (s.streamClass n) (slotAddr s n slot)
    (leBytes 8 (statusWord state reason items (s.now - commit)))

/-- The request of a slot. -/
def findReq (s : State) (n slot : Nat) : Option ReqSt := (s.stream n).reqs.find? fun r => r.slot == slot

/-- Change the request of a slot. -/
def updReq (s : State) (n slot : Nat) (f : ReqSt → ReqSt) : State :=
  s.updStream n fun st => { st with reqs := st.reqs.map fun r => if r.slot = slot then f r else r }

/-- State code of a request under way (Table 3-5). -/
def ReqSt.code (r : ReqSt) : Nat := if r.items ≠ 0 then 4 else if r.started then 3 else 2

/-- A stream still has a request accepted and not ended, or a slot that waits for test 5. -/
def busyStreams (s : State) : Bool := s.streamIds.any fun n => !(s.stream n).reqs.isEmpty || (s.stream n).test5.isSome

/-- Step 4 of a profile switch begins: the prepare of the quiesce is broadcast (Table 2-10, R367). -/
def startQuiesce (s : State) : State :=
  { s with img := { s.img with switch := s.img.switch.map fun w => { w with phase := .quiesce } }
           ep := { s.ep with change := some (.quiesce, false, s.now) } }

/-- An abort-mode switch goes on to step 4 once no request is left (Table 2-10 step 3). -/
def abortGoesOn (s : State) : State :=
  match s.img.switch with
  | some w => if w.abort ∧ w.phase = .drain ∧ !busyStreams s then startQuiesce s else s
  | none => s

/-- End a request in a final state: end_stamp, then the status word (R278); a request that ends failed
closes its sequences (R209). -/
def endRequest (s : State) (n slot state reason : Nat) : State :=
  match findReq s n slot with
  | none => s
  | some r =>
    let s := if state = 8 then closeSequences s n slot else s
    let s := devWrite s (s.streamClass n) (slotAddr s n slot + 0x30) (leBytes 8 s.now)
    let s := writeStatus s n slot state reason r.items r.commit
    abortGoesOn (s.updStream n fun st =>
      { st with reqs := st.reqs.filter fun q => q.slot != slot
                late := if state = 6 then satInc 16 st.late else st.late })

/-- End a request failed. -/
def failRequest (s : State) (n slot reason : Nat) : State := endRequest s n slot 8 (givenReason s n reason)

/-- End failed, with this reason, every request of a stream that a test picks. -/
def failWhere (s : State) (n reason : Nat) (p : ReqSt → Bool) : State :=
  ((s.stream n).reqs.filter p).foldl (fun s r => endRequest s n r.slot 8 reason) s

/-- A request that is to fail does so at its step boundary (R65, Table 2-10). -/
def stepBoundary (s : State) (n slot : Nat) : State :=
  match findReq s n slot with
  | some r =>
    match r.failing, r.step with
    | some reason, none => failRequest s n slot reason
    | _, _ => s
  | none => s

/-- Stop a stream's requests at their next step boundary: those not running a step fail at once. -/
def stopRequests (s : State) (n reason : Nat) : State :=
  let s := failWhere s n reason fun r => r.step.isNone
  s.updStream n fun st => { st with reqs := st.reqs.map fun r =>
    { r with failing := some (r.failing.getD reason) } }

/-- Shed a stream (R64, R65): its state, FIT_STATUS.shed, an event, and its requests. STRM_PROMISE and margin read zero from
then on, class 0 included (the model's choice; log 53). -/
def shedStream (s : State) (n : Nat) : State :=
  if (s.stream n).state = 3 then s
  else
    let s := s.updStream n fun st => { st with state := 3, promise := 0, margin := 0 }
    let s := { s with fit := { s.fit with shed := true, shedSets := satInc 8 s.fit.shedSets } }
    let s := logEvent s { cls := 0, source := 8, stream := n, reason := 3 }
    stopRequests s n 3

/-! ### Throttling as the contract sees it (16.6) -/

/-- Throttle level of a cluster. -/
def State.level (s : State) (c : Nat) : Nat := tget 0 s.thm.level c

/-- Clusters of a partition whose stream passes a test on its class. -/
def clustersByClass (s : State) (p : Nat) (f : Nat → Bool) : List Nat :=
  (clustersOf p).filter fun c => match s.ownerOf c with
    | some r => f r.cls
    | none => false

/-- A class-0 cluster of the partition is above level 0 (R335). -/
def partThrottled (s : State) (p : Nat) : Bool :=
  (clustersByClass s p (· == 0)).any fun c => decide (0 < s.level c)

/-- The cause a class-0 request meets when it starts running on its stream's partitions (R60). -/
def throttleCause (s : State) (n : Nat) : Nat :=
  if s.isClass0 n && (s.clustersOfStream n).any fun c => partThrottled s (partOfCluster c) then 0x0C else 0

/-! ### Groups, blocks and steps -/

/-- The slots of a block. -/
def blockSlots (base size : Nat) : List Nat := (List.range size).map (base + ·)

/-- The block of a group slot. -/
def Group.slots (g : Group) : List Nat := blockSlots g.base g.size

/-- Does any core still run a block of a request's step? -/
def stepBusy (s : State) (n slot : Nat) : Bool :=
  s.cores.any fun c => c.2.groups.any fun g => g.2.st != .idle && g.2.req == some (n, slot)

/-- A step whose blocks have all ended and drained completes (R134). -/
def stepEnd (s : State) (req : Option (Nat × Nat)) : State :=
  match req with
  | some (n, slot) =>
    if stepBusy s n slot then s
    else stepBoundary (updReq s n slot fun r => { r with step := none }) n slot
  | none => s

/-- Bits of the groups of a block that have ended (draining or idle slots of it). -/
def endedMask (c : Core) (base size : Nat) : Nat :=
  (blockSlots base size).foldl (fun m g =>
    let st := (c.grp g).st
    if st = .draining ∨ st = .idle then setBit m g else m) 0

/-- Groups counted at a barrier: arrivals of the phase and ended groups (R148). -/
def barCount (c : Core) (b : Barrier) (size : Nat) : Nat := popc (b.arrived ||| endedMask c b.base size) 16

/-- Group count of the block that stands at a base slot: its groups that have left their slots no longer say it, so
any other does. -/
def Core.blockSize (c : Core) (base : Nat) : Nat :=
  (((List.range 16).find? fun g => (c.grp g).st != .idle && (c.grp g).base == base).map fun g => (c.grp g).size).getD 0

/-- A BAR.SYNC whose phase is over goes on after it: the group's arrival counts no more (R146, R152). -/
def passBarrier (x : Group) : Group :=
  match x.stall with
  | .barrier b => if x.arrived.testBit b then x else { x with stall := .none, pc := x.pc + 8 }
  | _ => x

/-- Complete a barrier's phase if its count has reached the block's group count (R146): the phase toggles,
and the groups waiting in BAR.SYNC go on after it; a halted one stays in its stall, which is tested again on resume (R152).
`size` is the block's group count. -/
def barTry (c : Core) (size b : Nat) : Core :=
  let br := c.bar b
  let live := (blockSlots br.base size).filter fun g => (c.grp g).st ≠ .idle ∧ (c.grp g).st ≠ .draining
  if br.owned && decide (barCount c br size = size) && !live.isEmpty then
    let c := c.setBar b { br with phase := !br.phase, arrived := 0 }
    live.foldl (fun c g => c.updGrp g fun x =>
      let x := { x with arrived := clrBit x.arrived b }
      if x.st = .running then passBarrier x else x) c
  else c

/-- Every barrier of a block, after a group of it ended. -/
def barAll (c : Core) (base size : Nat) : Core :=
  (List.range 8).foldl (fun c b => if (c.bar b).owned && (c.bar b).base == base then barTry c size b else c) c

/-- Release and reset the barriers of a block. -/
def releaseBars (c : Core) (base : Nat) : Core :=
  (List.range 8).foldl (fun c b => if (c.bar b).owned && (c.bar b).base == base then c.setBar b {} else c) c

/-- Release the fragment bank a group holds. -/
def releaseBank (c : Core) (g : Nat) : Core :=
  (List.range 2).foldl (fun c j => if (c.bankAt j).owner = some g then c.setBank j {} else c) c

/-- Every token of a group counts zero. -/
def Group.quiet (g : Group) : Bool := g.tokens.all fun t => t.2.count == 0

/-- An ended group whose tokens count nothing leaves its slot idle; the block ends with its last group and
gives its barriers back, and the step ends with its last block (R134). -/
def drainEnd (s : State) (c g : Nat) : State :=
  let x := s.grp c g
  if x.st = .draining ∧ x.quiet then
    let s := s.setGrp c g { pc := x.pc, trapCode := x.trapCode, trapDetail := x.trapDetail, trapLane := x.trapLane,
                            nextAcc := x.nextAcc }
    let s := if (blockSlots x.base x.size).all fun k => (s.grp c k).st == .idle || (s.grp c k).base != x.base
      then s.updCore c fun co => releaseBars co x.base else s
    stepEnd s x.req
  else s

/-- A group ends: its slot drains (R134), it counts as arrived at the barriers of its block (R148), and its
fragment bank is free again (log 14). -/
def endGroup (s : State) (c g : Nat) : State :=
  let x := s.grp c g
  let s := s.setGrp c g { x with st := .draining, stall := .none, mask := 0, live := 0, stack := [], stop := none,
                                 outst := [], fetch := [], pend := none }
  let s := s.updCore c fun co => barAll (releaseBank co g) x.base x.size
  drainEnd s c g

/-- Abort the block a group belongs to (R149): its groups stop, its barriers are released and reset, and its
slots drain. -/
def abortBlock (s : State) (c g : Nat) : State :=
  let x := s.grp c g
  let ks := (x.slots).filter fun k => (s.grp c k).st ≠ .idle
  let s := s.updCore c fun co => releaseBars co x.base
  let s := ks.foldl (fun s k =>
    let y := s.grp c k
    let s := s.setGrp c k { y with st := .draining, stall := .none, mask := 0, live := 0, stack := [], stop := none,
                                   outst := [], fetch := [], pend := none, arrived := 0 }
    s.updCore c fun co => releaseBank co k) s
  ks.foldl (fun s k => drainEnd s c k) s

/-- The Visor may not hold groups of this core (R151): its stream is class 0, is not shed or stopped, and an
image runs. -/
def class0Core (s : State) (c : Nat) : Bool :=
  match s.ownerOf (clusterOf c) with
  | some r => r.cls == 0 && (s.stream r.id).state != 3 && (s.stream r.id).state != 4
  | none => false

/-- How a trap ends its request (R150): reason 9, 8 or 3. `why` is the reason a descriptor error carries. -/
def trapReason (code detail why : Nat) : Nat :=
  if code = 0x0C ∨ code = 0x0D then 9
  else if code = 0x08 then (if detail = 2 then 9 else if detail = 1 then 8 else 3)
  else if code = 0x03 then (if why = 9 ∨ why = 8 then why else 3)
  else 3

/-- Abort every block that runs a request's step. -/
def abortBlocksOf (s : State) (n slot : Nat) : State :=
  s.cores.foldl (fun s e => e.2.groups.foldl (fun s g =>
    if g.2.req = some (n, slot) ∧ (s.grp e.1 g.1).st ≠ .idle ∧ (s.grp e.1 g.1).st ≠ .draining then abortBlock s e.1 g.1
    else s) s) s

/-- End a request that lost a sequence, or commanded a lost one (R208): its blocks are aborted and it fails with
reason 0x08; the stream is not shed. -/
def endLost (s : State) (n slot : Nat) : State := failRequest (abortBlocksOf s n slot) n slot 8

/-- The request whose step a group's block runs, while it is under way. One that has ended left its slot, and the slot's next
request starts no step before the block has drained (R132). -/
def liveReq (s : State) (x : Group) : Option (Nat × Nat) :=
  x.req.filter fun r => (findReq s r.1 r.2).any fun q => q.step.isSome

/-- Abort a group's block (R149) and end the request whose step is aborted (R150): failed with reason 9 or 8, or reason 3
with its stream shed. -/
def abortAs (s : State) (c g reason : Nat) : State :=
  let x := s.grp c g
  let t := abortBlock s c g
  let t := match liveReq s x with
    | some r => failRequest t r.1 r.2 reason
    | none => t
  match x.req with
  | some r => if reason = 3 then shedStream t r.1 else t
  | none => t

/-- A group takes a trap (R149): CORE_GTRAP, CORE_TRAP_SUM, an event; then its block is held under trap-hold or where the Visor
steps the group (R153), or aborted, and its request ends under R150. -/
def takeTrap (s : State) (c g code detail lane why : Nat) : State :=
  let x := s.grp c g
  let s := s.setGrp c g { x with trapCode := code, trapDetail := detail, trapLane := lane, trapWhy := why, pend := none,
                                 st := .trapped, stall := .none }
  let s := s.updCore c fun co => { co with trapped := setBit co.trapped g, trapSets := satInc 8 co.trapSets }
  let reason := trapReason code detail why
  let ev : EvRec := { cls := if reason = 3 then 0 else 3, source := 5, code := code, unitType := 2, unitId := c,
                      stream := (x.req.map (·.1)).getD 0xFF, reason := reason, detail := lane }
  let s := if reason = 3 then logEvent s ev else if code = 0x08 ∨ code = 0x03 then faultPart s ev else faultEvent s ev
  if ((s.core c).hold || x.stepping) && !class0Core s c then
    x.slots.foldl (fun s k =>
      if k = g ∨ (s.grp c k).st ≠ .running then s
      else s.updGrp c k fun y => { y with st := .halted, haltCause := 3, stepping := false }) s
  else abortAs s c g reason

/-- A malformed descriptor or fragment failure at issue (Table 5-3): CORE_DESC_ERR and the trap. -/
def descTrap (s : State) (c g code cause : Nat) : State :=
  let s := s.updCore c fun co =>
    { co with descErr := true, descSets := satInc 8 co.descSets, descGrp := g, descCause := cause }
  takeTrap s c g code cause 0 0

/-! ### Fatal errors -/

/-- A fatal error (R360): FAULT_N low, intake and the command-page poll stop, every request under way ends
failed with reason 0x09, the event is written and EVT_FATAL records it. The warm reset comes 10 ms later. -/
def fatal (s : State) (source code ut uid : Nat) : State :=
  let s := { s with pins := { s.pins with faultN := false } }
  let s := s.streamIds.foldl (fun s n => failWhere s n 9 fun _ => true) s
  let s := logEvent s { cls := 4, source := source, code := code, stream := 0xFF, unitType := ut, unitId := uid,
                        reason := 9 }
  let at_ := s.evt.fatalAt.getD s.now
  { s with evt := { s.evt with fatalSource := source, fatalCode := code, lockstep := false, fatalAt := some at_ } }

/-- Intake and the command-page poll are stopped: a fatal error or a reset is pending (R360, Table 15-2), or a trip. -/
def stopped (s : State) : Bool := s.evt.fatalAt.isSome || s.resetting || s.boot.terminal

/-! ### Command entries (R280) -/

/-- Write an entry's state and status. -/
def writeEntry (s : State) (entry state status : Nat) : State :=
  s.setEntry entry { s.entry entry with state := state, status := status, taken := false }

/-- The job of an entry is done with. -/
def dropJob (s : State) (entry : Nat) : State := { s with jobs := s.jobs.filter fun j => j.entry != entry }

/-- A started command ends: complete, or failed with a status. -/
def endCmd (s : State) (entry : Nat) (ok : Bool) (status : Nat) : State :=
  dropJob (writeEntry s entry (if ok then 3 else 5) status) entry

/-! ### Partial resets (15.4) -/

/-- A partial reset's unit code and number (Table 15-4). -/
def unitCode : UnitRef → Nat × Nat
  | .cluster c => (1, c)
  | .core c => (2, c)
  | .slice n => (3, n)
  | .bonded c => (4, c)
  | .lpddr c => (5, c)
  | .partition p => (0x10, p)
  | .palm n => (0x11, n)

/-- Insert by key, before the entries of an equal one. -/
def insertBy {α : Type} (key : α → Nat) (x : α) : List α → List α
  | [] => [x]
  | y :: ys => if key x ≤ key y then x :: y :: ys else y :: insertBy key x ys

/-- A list in ascending order of a key; entries of an equal one keep their order. -/
def sortBy {α : Type} (key : α → Nat) (xs : List α) : List α := xs.foldr (insertBy key) []

/-- The order of changes of one Crown cycle: unit_type, then number (R23). -/
def changeKey (ut id : Nat) : Nat := 1024 * ut + id

/-- The unit of a code and number. -/
def unitOf (code n : Nat) : Option UnitRef :=
  match code with
  | 1 => if h : n < 68 then some (.cluster ⟨n, h⟩) else none
  | 2 => if h : n < 272 then some (.core ⟨n, h⟩) else none
  | 3 => if h : n < 128 then some (.slice ⟨n, h⟩) else none
  | 4 => if h : n < 16 then some (.bonded ⟨n, h⟩) else none
  | 5 => if h : n < 16 then some (.lpddr ⟨n, h⟩) else none
  | 0x10 => if h : n < 4 then some (.partition ⟨n, h⟩) else none
  | 0x11 => if h : n < 128 then some (.palm ⟨n, h⟩) else none
  | _ => none

/-- Note the last partial reset in RST_UNIT. -/
def noteReset (s : State) (u : UnitRef) (outcome trigger : Nat) : State :=
  { s with rst := { s.rst with unit := (unitCode u).1, unitId := (unitCode u).2, outcome := outcome, trigger := trigger } }

/-- A partial reset is over, with its outcome; the command that asked for it completes (Table 15-4, R320). -/
def endPartial (s : State) (p : Partial) (outcome : Nat) : State :=
  let s := noteReset { s with rst := { s.rst with partials := s.rst.partials.filter fun q => q.unit != p.unit } } p.unit outcome
    p.trigger
  match p.entry with
  | some e => endCmd s e true 0
  | none => s

/-- A floor plan change to a unit under partial reset replaces the reset (R320). -/
def replacePartial (s : State) (ut id new : Nat) : State :=
  match s.rst.partials.find? fun p => unitCode p.unit == (ut, id) || (ut == 3 && new == 2 && unitCode p.unit == (0x11, id)) with
  | some p => if 2 ≤ new then endPartial s p 2 else s
  | none => s

/-! ### Loss of units -/

/-- The receivers in service, participants of a mode change (14.7, R367), numbered by type: cores from 0, Palm engines from 272,
slices from 400, bonded channels from 528, LPDDR6 channels from 544. A fenced one is no participant any more (R369). -/
def participantIds (s : State) : List Nat :=
  (List.range 272).filter s.coreOn ++ ((List.range 128).filter s.engineOn).map (272 + ·) ++
  (s.flp.cur.enabled 3).map (400 + ·) ++ (s.flp.cur.enabled 4).map (528 + ·) ++ (s.flp.cur.enabled 5).map (544 + ·)

/-- How many receivers are in service. -/
def participants (s : State) : Nat := (participantIds s).length

/-- Participants yet to acknowledge the current phase of a mode change (EPOCH_PEND). When each acknowledges is open, and the
command that ends the phase comes with or after the last (log 42). -/
def acksAwaited (s : State) : Nat :=
  match s.ep.change with
  | some (_, committed, since) =>
    ((participantIds s).filter fun r => decide (s.now < since + Config.ackDelay (2 * since + b2n committed) r)).length
  | none => 0

/-- What a core reset clears (Table 15-5): groups, tokens, barriers, banks, queues, halts, and local memory
outside the code region. -/
def clearCore (co : Core) : Core :=
  { co with groups := [], bars := [], banks := [], mq := [], dq := [], mxRun := [], dmaRun := [], lastKind := none, a0Free := 0,
            lm := co.lm.filter fun e => decide (4096 * co.codeBase ≤ e.1) }

/-- Requests of a core still on their way have nobody to answer. -/
def orphanReqs (s : State) (c : Nat) : State :=
  let f := fun (r : Req) => match r.src with
    | .group k _ _ _ => if k = c then { r with src := .none } else r
    | _ => r
  { s with
    slices := s.slices.map fun e => (e.1, { e.2 with
      inq := e.2.inq.map f, held := e.2.held.map f, miss := e.2.miss.map fun m => { m with waiters := m.waiters.map f } })
    kvs := s.kvs.map fun e => (e.1, { e.2 with queue := e.2.queue.map fun q =>
      match q.1 with
      | .group k _ _ _ => if k = c then (.none, q.2) else q
      | _ => q }) }

/-- A core's groups are lost: the requests they served end failed (R61, R318), its launches' results have no
taker, and the core is cleared. -/
def loseCore (s : State) (c reason : Nat) : State :=
  let reqs := ((s.core c).groups.filterMap fun e => if e.2.st = .idle then none else liveReq s e.2).eraseDups
  let s := orphanReqs (s.updCore c clearCore) c
  let s := { s with launches := s.launches.map fun e => if e.2.core = c then (e.1, { e.2 with grp := 16 }) else e }
  reqs.foldl (fun s r => stepEnd (failRequest s r.1 r.2 reason) (some r)) s

/-- The windows an engine holds share records of. -/
def Engine.windows (e : Engine) : List Nat := (e.shares.map (·.window)).eraseDups

/-- The engines of a window (R116), those of slices in service with an engine. -/
def engineList (s : State) (w : Nat) : List Nat :=
  match windowNo s w with
  | some r => (blockSlots r.firstSlice r.sliceCount).filter s.engineOn
  | none => []

/-- An engine leaves service (R126): the engines of its windows hold those windows until its shares are
restaged. -/
def loseEngine (s : State) (n : Nat) : State :=
  let ws := (s.engine n).windows
  let es := (ws.flatMap (engineList s)).eraseDups
  es.foldl (fun s e => s.updEngine e fun x => { x with restaging := true }) s

/-- A channel is lost: its queued and held reads come back to their slices as bus errors, and nothing else is kept. -/
def dropChannel (s : State) (lpddr : Bool) (ch : Nat) : State :=
  let m := s.mc lpddr ch
  let s := ((m.q ++ m.held).filter fun r => r.write.isNone).foldl (fun s r =>
    s.updSlice r.slice fun sl => { sl with rets := sl.rets ++ [(r.line, none)] }) s
  s.setMc lpddr ch { m with q := [], held := [], merge := [], heldPages := [] }

/-- Class and source of the event of a floor plan change by its reason (Table 18-2; log 15). -/
def changeSource (reason : Nat) : Nat × Nat :=
  match reason with
  | 1 => (3, 0x10)
  | 2 => (3, 0x01)
  | 3 => (3, 0x01)
  | 4 => (3, 0x0B)
  | 5 => (3, 0x10)
  | 6 => (3, 0x0F)
  | _ => (0, 0x13)

/-- Reason a floor plan change gives requests (Table 3-6). -/
def changeReason (reason : Nat) : Nat := if reason = 4 then 0x0A else 8

/-- Cached verdicts cease to be current (R35). -/
def staleVerdicts (s : State) : State :=
  { s with img := { s.img with shadows := s.img.shadows.map fun e => (e.1, { e.2 with current := false }) } }

/-- Write one floor plan change (R23 steps 1 to 5) and hand it to the re-check (step 6). `setBitV` is the new
slice_set or bc_set bit of the unit, which only state 0b01 of a slice or channel keeps (Table 1-8). The re-check's demands
count a lost unit where its state becomes fenced, so a slice that loses its Palm engine alone is none (the model's choice;
log 53). -/
def recordChange (s : State) (ut id new reason detail : Nat) (setB : Bool) : State :=
  let f := s.flp
  let old := f.cur.get ut id
  let cur := f.cur.put ut id new
  let half := fun m => if new = 1 ∧ setB then setBit m id else clrBit m id
  let cur := if ut = 3 then { cur with sliceSet := half cur.sliceSet }
             else if ut = 4 then { cur with bcSet := half cur.bcSet } else cur
  let gen := (cur.generation + 2) % 2 ^ 32
  let cur := { cur with generation := gen, changedAt := s.now }
  let d : Delta := { generation := gen, unitType := ut, unitId := id, old := old, new := new, reason := reason,
                     detail := detail, stamp := s.now % 2 ^ 32 }
  let s := { s with flp := { f with cur := cur, deltas := tput {} f.deltas f.next d, next := (f.next + 1) % 64,
                                    changed := true, changedSets := satInc 8 f.changedSets } }
  let s := staleVerdicts s
  if s.img.running.isSome then
    { s with fit := { s.fit with recheckDue := some (s.fit.recheckDue.getD s.now)
                                 losses := tupd 0 s.fit.losses ut (· + (if new = 3 then 1 else 0)) } }
  else s

/-- What a change of state does beyond the record. -/
def changeEffects (s : State) (ut id new reason : Nat) : State :=
  match ut with
  | 1 =>
    let s := s.streamIds.foldl (fun s n =>
      if (s.clustersOfStream n).contains id then s.updStream n fun st => { st with lastFenced := id } else s) s
    if new = 3 then s.setRegion id { (s.region id) with gated := true, waiting := false, closing := false } else s
  | 2 => if new = 3 then loseCore s id (changeReason reason) else s
  | 3 =>
    let s := if new = 3 then kvUnitFenced s 3 id else s
    if new = 3 ∨ new = 2 then loseEngine s id else s
  | 4 => if new = 3 then kvUnitFenced (dropChannel s false id) 4 id else s
  | 5 => if new = 3 then kvUnitFenced (dropChannel s true id) 5 id else s
  | _ => s

/-- The bundles of the running image. -/
def State.bundleRefs (s : State) : List BundleRef :=
  match s.img.running with
  | some im => im.bundles
  | none => []

/-- Streams whose work graph names a window: one of their bundles is staged there or a KV pool lies in it
(R128; log 28). -/
def streamsOfWindow (s : State) (w : Nat) : List Nat :=
  s.streamIds.filter fun n =>
    match s.streamRec n with
    | some r =>
      (((s.bundleRefs.drop r.bundleFirst).take r.bundleCount).any fun b => b.window == w) ||
      (match s.kvLayout n with
       | some k => k.pools.any fun p => p.unitType == 3 && p.window == w
       | none => false)
    | none => false

/-- The stream a floor plan change names (Table 18-3): the owner of a cluster, or the first stream that reads a
window on the slice or keeps KV columns on the unit; 0xFF for none (log 36). -/
def affectedStream (s : State) (ut id : Nat) : Nat :=
  let onUnit := fun n => match s.kvLayout n with
    | some k => k.pools.any fun p => p.unitType == ut && decide (p.firstUnit ≤ id) && decide (id < p.firstUnit + p.columns)
    | none => false
  match ut with
  | 1 => ((s.ownerOf id).map (·.id)).getD 0xFF
  | 2 => ((s.ownerOf (clusterOf id)).map (·.id)).getD 0xFF
  | 3 =>
    let ws := (s.windows.filter fun w => w.slocal && decide (w.firstSlice ≤ id) &&
      decide (id < w.firstSlice + w.sliceCount)).map (·.window)
    (s.streamIds.find? fun n => onUnit n || ws.any fun w => (streamsOfWindow s w).contains n).getD 0xFF
  | _ => (s.streamIds.find? onUnit).getD 0xFF

/-- A change is put off while a switch runs from step 4 to step 8 (R39). -/
def putOff (s : State) : Bool :=
  match s.img.switch with
  | some w => decide (w.phase ≠ .drain)
  | none => false

/-- One floor plan change with its event (R23). A change `joined` to a cause already reported is part of that
fault (R19, R361; log 15); with no image there is no fault under 3.7 (log 10). -/
def oneChange (s : State) (ut id new reason detail : Nat) (setB joined : Bool) : State :=
  let who := affectedStream s ut id
  let s := recordChange s ut id new reason detail setB
  let cs := changeSource reason
  let ev : EvRec := { cls := cs.1, source := cs.2, code := reason, stream := who, unitType := ut, unitId := id,
                      reason := changeReason reason, detail := detail }
  let s := if joined || reason == 8 || s.img.running.isNone then logEvent s ev else faultEvent s ev
  changeEffects (replacePartial s ut id new) ut id new reason

/-- The state a unit moves to: a slice has no code for half width and a lost Palm engine together, and is fenced
(1.7). -/
def movesTo (ut old new : Nat) : Nat := if ut = 3 ∧ ((old = 1 ∧ new = 2) ∨ (old = 2 ∧ new = 1)) then 3 else new

/-- A unit changes state (R23); the fence of a cluster's last core brings the cluster's fence, reason 0x08,
as the change that directly follows (R19). A unit never improves (R21). -/
def floorChange (s : State) (ut id new reason detail : Nat) (setB : Bool := false) (joined : Bool := false) :
    State :=
  let old := s.unitState ut id
  let new := movesTo ut old new
  if new ≤ old then s
  else if putOff s then
    { s with flp := { s.flp with deferred := s.flp.deferred ++ [(ut, id, new, reason, detail)] } }
  else
    let s := oneChange s ut id new reason detail setB joined
    let cl := clusterOf id
    if ut = 2 ∧ new = 3 ∧ s.inService 1 cl ∧ (coresOf cl).all fun c => !s.inService 2 c then
      oneChange s 1 cl 3 8 0 false true
    else s

/-- A cause that acts on a whole cluster fences its enabled cores in ascending core id (R19). -/
def fenceCluster (s : State) (cl reason detail : Nat) : State :=
  let cs := (coresOf cl).filter fun c => s.inService 2 c
  (cs.foldl (fun (a : State × Bool) c => (floorChange a.1 2 c 3 reason detail false a.2, true)) (s, false)).1

/-- A slice is to be fenced: its Cuff isolates it (Table 11-3 step 1); SLICE_FENCE does the rest. -/
def startSliceFence (s : State) (n reason detail : Nat) : State :=
  if s.inService 3 n ∧ (s.slice n).fencing.isNone then
    s.updSlice n fun sl => { sl with fencing := some (reason, detail) }
  else s

/-- Fence a unit: a slice through Table 11-3, a cluster through its cores, any other by its change. -/
def fenceUnit (s : State) (ut id reason detail : Nat) : State :=
  match ut with
  | 1 => fenceCluster s id reason detail
  | 3 => startSliceFence s id reason detail
  | _ => floorChange s ut id 3 reason detail

end Sys2Proof.Machine
end

