-- ==== Sys2Proof/Machine/Flags.lean ====
section
/-! DEFINITION. Flag computations: the sticky numeric flags (Table 4-5, 5.10), the conditions of Table 8-4, and
the OR of a descriptor's flags into its token (R102). -/

namespace Sys2Proof.Machine

/-- A write-back that set flags is ORed into CORE_NUMFLAGS and counted; one that set none changes nothing. -/
def orFlags (s : State) (c fl : Nat) : State :=
  if fl % 16 = 0 then s
  else s.updCore c fun co => { co with numFlags := co.numFlags ||| fl % 16, flagSets := satInc 8 co.flagSets }

/-- ISETP conditions (Table 8-4) on 32-bit values. -/
def icond (cond a b : Nat) : Bool :=
  let x := sext 32 a
  let y := sext 32 b
  match cond with
  | 0 => a == b
  | 1 => a != b
  | 2 => decide (x < y)
  | 3 => decide (x ≤ y)
  | 4 => decide (y < x)
  | 5 => decide (y ≤ x)
  | 6 => decide (a < b)
  | _ => decide (b ≤ a)

/-- FSETP conditions (Table 8-4). -/
def fcond (cond : Nat) (a b : Word) : Bool :=
  let ord := !isNan32 a && !isNan32 b
  match cond with
  | 0 => feq32 a b
  | 1 => !feq32 a b
  | 2 => ord && flt32 a b
  | 3 => ord && !flt32 b a
  | 4 => ord && flt32 b a
  | 5 => ord && !flt32 a b
  | 6 => !ord
  | _ => ord

/-- A completion reaches its token (R102, R103): flags ORed, an error bit with its reason, the count down. -/
def Token.finish (t : Token) (fl : Nat) (err : Bool) (why : Nat) : Token :=
  { count := t.count - 1, flags := t.flags ||| fl % 16, err := t.err || err,
    why := if err && !t.err then why else t.why }

/-- Finish one count of a token of a group. -/
def tokenDone (s : State) (c g k fl : Nat) (err : Bool) (why : Nat) : State :=
  let s := s.updGrp c g fun x => x.setToken k ((x.token k).finish fl err why)
  drainEnd s c g

end Sys2Proof.Machine
end

