-- ==== Sys2Proof/Machine/Operands.lean ====
section
/-! DEFINITION. Operand forms: selectors (R157), the registers each instruction names, the legality checks of
R159 and R160 to R171, reading sources and writing destinations under R160. An instruction word is a Nat
whose bits [7:0] are the major opcode (R156). -/

namespace Sys2Proof.Machine

/-- Major opcode of a word. -/
def major (w : Nat) : Nat := fld w 7 0

/-! ### Selectors -/

/-- A selector names a u register. -/
def selU (x : Nat) : Bool := bit x 7
/-- Register number of a selector. -/
def selReg (x : Nat) : Nat := if bit x 7 then x % 32 else x % 128

/-- Checks 3 of R159 on a selector that names `n` registers, aligned to `al` (R157). -/
def selOk (x n al : Nat) : Bool :=
  (if bit x 7 then fld x 6 5 == 0 && decide (x % 32 + n ≤ 32) else decide (x % 128 + n ≤ 128)) &&
  decide (selReg x % al = 0)

/-- A register operand: selector, how many registers, and is it written. -/
structure Opnd where
  sel : Nat
  n : Nat
  dst : Bool
deriving DecidableEq, Repr

/-- A source. -/
def src (sel : Nat) (n : Nat := 1) : Opnd := ⟨sel, n, false⟩
/-- A destination. -/
def dst (sel : Nat) (n : Nat := 1) : Opnd := ⟨sel, n, true⟩

/-! ### Fields -/

/-- rd, or the first operand byte. -/
def fRd (w : Nat) : Nat := fld w 15 8
/-- ra. -/
def fRa (w : Nat) : Nat := fld w 23 16
/-- rb, or rs of the memory format. -/
def fRb (w : Nat) : Nat := fld w 31 24
/-- rc. -/
def fRc (w : Nat) : Nat := fld w 39 32
/-- imm16. -/
def fImm (w : Nat) : Nat := fld w 39 24
/-- cond of ISETP and FSETP, size of the memory format. -/
def fCond (w : Nat) : Nat := fld w 42 40
/-- wide (ALU), space (memory). -/
def fWide (w : Nat) : Bool := bit w 43
/-- imm (ALU), sext (memory). -/
def fImmBit (w : Nat) : Bool := bit w 44
/-- no_return of an atomic. -/
def fNoRet (w : Nat) : Bool := bit w 45

/-- Instructions that allow wide (R162). -/
def wideOps : List Nat := [0x01, 0x02, 0x06, 0x07, 0x08, 0x09, 0x0A, 0x0B, 0x11, 0x12]
/-- ALU instructions that read rb and no rc, and so allow imm (R162; log 18). -/
def rbOps : List Nat := [0x01, 0x02, 0x03, 0x04, 0x05, 0x06, 0x07, 0x08, 0x09, 0x0A, 0x0B, 0x0C, 0x0D, 0x0E, 0x0F, 0x10,
  0x20, 0x21, 0x22, 0x24, 0x25, 0x26]
/-- The atomics. -/
def atomOps : List Nat := [0x42, 0x43, 0x44, 0x45, 0x46, 0x47, 0x48, 0x49, 0x4A, 0x4B, 0x4C]
/-- Every opcode of Table 8-2. -/
def allOps : List Nat := rbOps ++ [0x11, 0x12, 0x23, 0x28, 0x29, 0x40, 0x41] ++ atomOps ++
  [0x4E, 0x4F, 0x60, 0x61, 0x62, 0x63, 0x70, 0x71, 0x72, 0x73, 0x80, 0x81, 0x82, 0x83, 0x84, 0x85, 0x86, 0x88, 0x89,
   0x8A, 0xA0, 0xA8]

/-- Registers that a size code's data takes (R164). -/
def dataRegs (size : Nat) : Nat := if size = 3 then 2 else if size = 4 then 4 else 1

/-- The register operands of a word (Tables 8-3 to 8-10). The ranges of FRAG instructions that hang on the
held bank are checked with the bank. -/
def operands (w : Nat) : List Opnd :=
  let op := major w
  let k := if fWide w then 2 else 1
  if rbOps.contains op then
    [dst (fRd w) k, src (fRa w) k] ++ (if fImmBit w then [] else [src (fRb w) k])
  else if op = 0x11 then [dst (fRd w) k, src (fRa w) k, src (fRb w) k, src (fRc w) k]
  else if op = 0x12 then [dst (fRd w) k, src (fRa w) k]
  else if op = 0x23 then [dst (fRd w), src (fRa w), src (fRb w), src (fRc w)]
  else if op = 0x28 ∨ op = 0x29 then [dst (fRd w), src (fRa w)]
  else
    let n := dataRegs (fCond w)
    let addr := src (fRa w) (if fWide w then 2 else 1)
    if op = 0x40 then [dst (fRd w) n, addr]
    else if op = 0x41 then [src (fRb w) n, addr]
    else if atomOps.contains op then
      (if fNoRet w then [] else [dst (fRd w) n]) ++ [addr, src (fRb w) n] ++
      (if op = 0x4B then [src (fRc w) n] else [])
    else if op = 0x4F then [addr]
    else if op = 0x60 ∨ op = 0x61 ∨ op = 0x62 then [src (fRd w)]
    else if op = 0x63 ∨ op = 0x8A then [dst (fRd w)]
    else if op = 0x71 ∨ op = 0x72 then [src (fRd w)]
    else if op = 0x73 then [dst (fRd w), dst (fRa w)]
    else if op = 0x80 ∨ op = 0x82 ∨ op = 0x83 then [src (fRd w)]
    else if op = 0xA0 then
      [dst (fRd w), src (fRa w)] ++ (if fRc w = 9 then [src (fRb w)] else [])
    else if op = 0xA8 then
      [dst (fRd w) 2, src (fRa w), src (fRb w)] ++ (if fld w 35 32 = 5 then [src (fRd w + 1)] else [])
    else []

/-! ### Legality (R159) -/

/-- Bits [hi:lo] set. -/
def ones (hi lo : Nat) : Nat := 2 ^ (hi + 1) - 2 ^ lo

/-- The bits a word may use; every other bit must be zero (check 2). -/
def usedBits (w : Nat) : Nat :=
  let op := major w
  let wide := if wideOps.contains op then ones 43 43 else 0
  if rbOps.contains op then
    ones 23 0 + (if fImmBit w then ones 39 24 else ones 31 24) + ones 44 44 + wide +
      (if op = 0x10 ∨ op = 0x26 then ones 42 40 else 0)
  else if op = 0x11 then ones 39 0 + wide
  else if op = 0x12 then ones 23 0 + wide
  else if op = 0x23 then ones 39 0
  else if op = 0x28 then ones 23 0 + ones 55 48
  else if op = 0x29 then ones 23 0
  else if op = 0x40 then ones 23 0 + ones 44 40 + ones 63 48
  else if op = 0x41 then ones 7 0 + ones 31 16 + ones 43 40 + ones 63 48
  else if atomOps.contains op then
    ones 7 0 + (if fNoRet w then 0 else ones 15 8) + ones 31 16 + (if op = 0x4B then ones 39 32 else 0) +
      ones 43 40 + ones 45 45 + ones 63 48
  else if op = 0x4E then ones 7 0
  else if op = 0x4F then ones 7 0 + ones 23 16 + ones 43 43 + ones 63 48
  else if op = 0x60 ∨ op = 0x61 ∨ op = 0x62 then ones 35 0
  else if op = 0x63 then ones 24 0
  else if op = 0x70 then ones 12 0 + ones 20 16 + ones 31 24
  else if op = 0x71 then ones 20 0
  else if op = 0x72 then ones 15 0
  else if op = 0x73 then ones 28 0
  else if op = 0x80 then ones 16 0 + ones 57 24
  else if op = 0x81 then ones 7 0 + ones 40 24
  else if op = 0x82 then ones 16 0 + ones 40 24
  else if op = 0x83 ∨ op = 0x85 ∨ op = 0x8A then ones 15 0
  else if op = 0x84 ∨ op = 0x86 then ones 7 0
  else if op = 0x88 ∨ op = 0x89 then ones 10 0
  else if op = 0xA0 then ones 23 0 + (if fRc w = 9 then ones 31 24 else 0) + ones 39 32
  else if op = 0xA8 then ones 39 0
  else ones 7 0

/-- Bare format codes that CVT converts (R163). -/
def cvtFmt (x : Nat) : Bool := (decide (1 ≤ x) && decide (x ≤ 5)) || (decide (8 ≤ x) && decide (x ≤ 10))

/-- Fragment formats: codes 0x1 to 0x5 of one family (R168). -/
def fragFmts (a b : Nat) : Bool :=
  decide (1 ≤ a) && decide (a ≤ 5) && decide (1 ≤ b) && decide (b ≤ 5) && family a == family b
where
  /-- The families of 4.3. -/
  family (x : Nat) : Nat := if x ≤ 2 then 96 else 72

/-- Check 4: field values (Tables 8-4 to 8-12, R163 to R168, R171). -/
def valuesOk (w : Nat) : Bool :=
  let op := major w
  let size := fCond w
  if op = 0x28 then
    let t := fld w 51 48
    let f := fld w 55 52
    (t == 0 && cvtFmt f) || (f == 0 && cvtFmt t)
  else if op = 0x40 then decide (size ≤ 4) && (!fImmBit w || decide (size < 2))
  else if op = 0x41 then decide (size ≤ 4)
  else if [0x43, 0x44, 0x45, 0x46, 0x4C].contains op then size == 2
  else if atomOps.contains op then size == 2 || size == 3
  else if op = 0x4F then fWide w && size == 0
  else if op = 0x63 then fld w 23 16 != 0
  else if op = 0x70 then fragFmts (fld w 27 24) (fld w 31 28)
  else if op = 0x73 then decide (fld w 27 24 ≤ 1)
  else if op = 0xA0 then decide (fRc w ≤ 9) || (decide (0x20 ≤ fRc w) && decide (fRc w ≤ 0x2F))
  else if op = 0xA8 then decide (fld w 35 32 ≤ 5) && decide (fld w 39 36 ≤ 1)
  else true

/-- Operands that must be u registers, and those that must be v registers (check 5). -/
def kindsOk (w : Nat) : Bool :=
  let op := major w
  if [0x60, 0x61, 0x62, 0x63, 0x82, 0x83, 0x8A].contains op then selU (fRd w)
  else if op = 0x71 ∨ op = 0x72 ∨ op = 0x80 then !selU (fRd w)
  else if op = 0x73 then !selU (fRd w) && selU (fRa w)
  else if op = 0xA8 then selU (fRd w) && selU (fRa w) && selU (fRb w)
  else
    let os := operands w
    if os.any fun o => o.dst && selU o.sel then os.all fun o => o.dst || selU o.sel else true

/-- The five checks of R159; they all end in the same trap. -/
def legal (w : Nat) : Bool :=
  allOps.contains (major w) && (w ||| usedBits w) == usedBits w &&
  ((operands w).all fun o => selOk o.sel o.n o.n) && valuesOk w && kindsOk w

/-! ### Reading and writing registers -/

/-- The lanes of a mask. -/
def lanes (m : Word) : List Nat := (List.range 32).filter fun i => m.toNat.testBit i

/-- One register of a selector for a lane. -/
def Group.reg (g : Group) (sel lane : Nat) : Word :=
  if selU sel then g.getU (selReg sel) else g.getV (selReg sel) lane

/-- The value of `n` registers from a selector, lowest register first. -/
def Group.rdN (g : Group) (sel lane : Nat) : Nat → Nat
  | 0 => 0
  | n + 1 => (g.reg sel lane).toNat + 2 ^ 32 * g.rdN (sel + 1) lane n

/-- Write `n` registers from a selector for a lane. -/
def Group.wrN (g : Group) (sel lane : Nat) : Nat → Nat → Group
  | 0, _ => g
  | n + 1, v =>
    let w := BitVec.ofNat 32 v
    let g := if selU sel then g.setU (selReg sel) w else g.setV (selReg sel) lane w
    g.wrN (sel + 1) lane n (v / 2 ^ 32)

/-- Write a destination (R160): a u register once, a v register in the active lanes. -/
def Group.wrDst (g : Group) (sel n : Nat) (f : Nat → Nat) : Group :=
  if selU sel then g.wrN sel 0 n (f 0) else (lanes g.mask).foldl (fun x l => x.wrN sel l n (f l)) g

/-- Go on to the next instruction. -/
def Group.next (g : Group) : Group := { g with pc := g.pc + 8, stall := .none, skipBp := false }

/-- Do two register ranges meet? -/
def overlap (a : Nat) (m : Nat) (b : Nat) (n : Nat) : Bool :=
  selU a == selU b && decide (selReg a < selReg b + n) && decide (selReg b < selReg a + m)

/-- One of these operands waits for an outstanding access (R174); one still being sent is the instruction's own. -/
def Group.hazard (g : Group) (os : List Opnd) : Bool :=
  g.outst.any fun d => d.unsent.isEmpty && d.regs != 0 && os.any fun o => overlap d.rd d.regs o.sel o.n

end Sys2Proof.Machine
end

