-- ==== Sys2Proof/Machine/Issue.lean ====
section
/-! DEFINITION. Issue of one instruction: the checks before it (R144's pops, R158, R151 and R155's breakpoints,
R159, R138, R174), and fetch (R158). -/

namespace Sys2Proof.Machine

/-- An issue attempt: it ends here in this state, or the word goes to its own effect. -/
inductive Issued where
  | stop (s : State)
  | go (s : State) (w : Nat)

/-- Before issuing: while the PC is the stop address, pop the stack (R144). -/
def popStops : Nat → Group → Group
  | 0, g => g
  | k + 1, g =>
    if g.stop = some g.pc then
      match g.stack with
      | e :: es => popStops k { g with pc := e.pc, mask := e.mask, stop := e.stop, stack := es }
      | [] => { g with stop := none }
    else g

/-- The PC is in the code region and aligned (R158). -/
def pcOk (co : Core) (pc : Nat) : Bool :=
  decide (4096 * co.codeBase ≤ pc) && decide (pc < 0x100000) && decide (pc % 8 = 0)

/-- The instruction word at an address, where the fetch buffer holds its unit. -/
def fetched (g : Group) (pc : Nat) : Option Nat :=
  (g.fetch.find? fun u => u.1 == pc / 64).map fun u => rd u.2 (pc % 64) 8

/-- Refill the fetch buffer with the 64-byte unit of the PC: four units at most, newest first. -/
def refill (co : Core) (g : Group) : Group :=
  let u := g.pc.toNat / 64
  { g with fetch := ((u, mread co.lm (64 * u) 64) :: g.fetch.filter fun e => e.1 != u).take 4 }

/-- An enabled breakpoint of the core matches (7.8). -/
def bpHit (co : Core) (g pc : Nat) : Bool :=
  co.bps.any fun b => b.2.enable && b.2.addr == pc && bit b.2.groups g

/-- A correction in a core's register file or local memory (R138, Table 18-2). -/
def coreCorrection (s : State) (c : Nat) : State :=
  correction (s.updCore c fun co => { co with lmCorrected := satInc 16 co.lmCorrected }) 5 2 c

/-- A correction in a row of a core's structure, counted since boot: 0 to 3 a quarter of the register file, 4 local
memory, 5 the table banks. At the fourth the row is recorded in the Lining, which has room for 64 (R306). -/
def noteRow (s : State) (c kind row : Nat) : State :=
  let k := 6 * row + kind
  let n := satInc 3 (tget 0 (s.core c).rowCorr k)
  let s := s.updCore c fun co => { co with rowCorr := tput 0 co.rowCorr k n }
  if n = 4 ∧ !s.rst.corrections.contains (c, kind, row) ∧ s.rst.corrections.length < 64 then
    { s with rst := { s.rst with corrections := s.rst.corrections ++ [(c, kind, row)] } }
  else s

/-- What the register file delivers, counted in the quarter of the group's issue slot (R135, R136). -/
def regEcc (s : State) (c g : Nat) (e : Ecc) : State :=
  match e with
  | .regCorrected row => noteRow (coreCorrection s c) c (g % 4) row
  | _ => s

/-- What local memory delivers, counted. -/
def lmEcc (s : State) (c : Nat) (e : Ecc) : State :=
  match e with
  | .lmCorrected row => noteRow (coreCorrection s c) c 4 row
  | _ => s

/-- Element bytes of a fragment format. -/
def fragBytes (f : Nat) : Nat := if f ≤ 2 then 2 else 1

/-- Registers that `k` elements of a format take (R168). -/
def fragRegs (f k : Nat) : Nat := cdiv (k * fragBytes f) 4

/-- Registers that FRAG.ROUND writes. -/
def roundRegs (fmt n : Nat) : Nat := if fmt = 0 then n else cdiv n 2

/-- The bank a group holds. -/
def heldBank (co : Core) (g : Nat) : Option Nat := (List.range 2).find? fun j => (co.bankAt j).owner == some g

/-- The whole register range of a fragment instruction, which the held bank sets (R168). -/
def fragRange (co : Core) (g w : Nat) : List Opnd :=
  match heldBank co g with
  | none => []
  | some j =>
    let b := co.bankAt j
    match major w with
    | 0x71 => [⟨fRd w, fragRegs b.fmtA (fld w 20 16 + 1), false⟩]
    | 0x72 => [⟨fRd w, fragRegs b.fmtB b.k, false⟩]
    | 0x73 => [⟨fRd w, roundRegs (fld w 27 24) b.n, true⟩]
    | _ => []

/-- Every operand of an instruction of a group, with the range of a fragment instruction. -/
def operandsOf (co : Core) (g w : Nat) : List Opnd := operands w ++ fragRange co g w

/-- A register that an instruction reads meets an uncorrectable error (R138). -/
def badSource (os : List Opnd) : Ecc → Option Nat
  | .regUncorrectable r =>
    if os.any fun o => !o.dst && !selU o.sel && decide (selReg o.sel ≤ r.val) &&
        decide (r.val < selReg o.sel + o.n) then some r.val else none
  | _ => none

/-- The group may issue: it runs, and it is not held in a wait or a barrier. -/
def mayIssue (s : State) (c g : Nat) : Bool :=
  let x := s.grp c g
  s.coreRuns c && x.st == .running && (x.stall == .none || x.stall == .retry)

/-- One attempt to issue at a group. `want` is the opcode the command names. Where the group cannot issue, or
its next word is not fetched yet or is another instruction, nothing changes (log 2). -/
def issue (s : State) (c g : Nat) (want : Option Nat) (ecc : Ecc) : Issued :=
  if !mayIssue s c g then .stop s
  else match (s.grp c g).pend with
  | some (t, why) => .stop (takeTrap s c g 3 t 0 why)
  | none =>
    let x := popStops 33 (s.grp c g)
    let pc := x.pc.toNat
    let s1 := if (s.grp c g).stop = some (s.grp c g).pc then s.setGrp c g x else s
    if !pcOk (s.core c) pc then .stop (takeTrap s1 c g 1 0 0 0)
    else match fetched x pc with
    | none => .stop s
    | some w =>
      if bpHit (s.core c) g pc && !x.skipBp && !class0Core s c then
        .stop (s1.setGrp c g { x with st := .halted, haltCause := 1, skipBp := true })
      else if !allOps.contains (major w) then .stop (takeTrap s1 c g 1 (major w) 0 0)
      else if want.any (· != major w) then .stop s
      else if !legal w then .stop (takeTrap s1 c g 1 (major w) 0 0)
      else if x.hazard (operandsOf (s.core c) g w) then .stop s
      else match badSource (operandsOf (s.core c) g w) ecc with
      | some r => .stop (takeTrap s1 c g 0x0C r 0 0)
      | none => .go (regEcc s1 c g ecc) w

/-- What an instruction does once issued: core, group, word, what the memories deliver. -/
abbrev Body := State → Nat → Nat → Nat → Ecc → State

/-- The one instruction of a step has issued (R153): the group halts again, in its wait or barrier where it waits; a trap is
held. An instruction that is still to be tried again has not issued yet. -/
def endStep (stepped : Bool) (s : State) (c g : Nat) : State :=
  if stepped then s.updGrp c g fun x =>
    if x.stall = .retry then x
    else if x.st = .running then { x with st := .halted, haltCause := 2, stepDone := true, stepping := false, skipBp := false }
    else { x with stepDone := true, stepping := false }
  else s

/-- The Visor steps a running group. -/
def Group.stepped (x : Group) : Bool := x.stepping && x.st == .running

/-- An issue attempt with the effect `f` of what issues. A step goes on until its instruction issues or traps: an operand
still on its way delays it. -/
def finishIssue (s : State) (c g : Nat) (ecc : Ecc) (f : Body) : Issued → State
  | .stop t => if (t.grp c g).st = .running then t else endStep (s.grp c g).stepped t c g
  | .go t w => endStep (s.grp c g).stepped (f t c g w ecc) c g

/-- Issue one instruction of a given opcode. -/
def issueAs (op : Nat) (c : Fin 272) (g : Fin 16) (ecc : Ecc) (s : State) (f : Body) : State :=
  finishIssue s c g ecc f (issue s c g (some op) ecc)

/-- The instruction cannot go on now; it is tried again (R99, R107). -/
def stallRetry (s : State) (c g : Nat) : State := s.updGrp c g fun x => { x with stall := .retry }

/-- INSTRUCTION_FETCH: the fetch buffer is refilled at the PC, or the group traps (R158). -/
def execInstructionFetch (c : Fin 272) (g : Fin 16) (s : State) : Host.Outcome State Fault Refusal :=
  if !mayIssue s c g || (s.grp c g).pend.isSome then .next s
  else
    let x := popStops 33 (s.grp c g)
    let s := s.setGrp c g x
    if pcOk (s.core c) x.pc.toNat then .next (s.setGrp c g (refill (s.core c) x))
    else .next (takeTrap s c g 1 0 0 0)

end Sys2Proof.Machine
end

