-- ==== Sys2Proof/Machine/Alu.lean ====
section
/-! DEFINITION. The ALU family: integer and FP32 arithmetic, compare, select, move and conversion (R161 to
R163). -/

namespace Sys2Proof.Machine

/-- Width of an integer operation. -/
def aluBits (w : Nat) : Nat := if fWide w then 64 else 32

/-- Source b: rb, or imm16 sign-extended for integers and widened from BF16 for FP32 (R162). -/
def srcB (g : Group) (w lane : Nat) : Nat :=
  if fImmBit w then
    if major w < 0x20 then unsext (aluBits w) (sext 16 (fImm w)) else (bf16to32 (fImm w)).toNat
  else g.rdN (fRb w) lane (if fWide w then 2 else 1)

/-- Write a destination lane by lane from sources a, b and c and go on. `f` gets the width. -/
def aluGroup (g : Group) (w : Nat) (f : Nat → Nat → Nat → Nat → Nat) : Group :=
  let k := if fWide w then 2 else 1
  (g.wrDst (fRd w) k fun l => f (aluBits w) (g.rdN (fRa w) l k) (srcB g w l) (g.rdN (fRc w) l k)).next

/-- The body of an ALU instruction without flags. -/
def aluBody (f : Nat → Nat → Nat → Nat → Nat) : Body := fun s c g w _ => s.updGrp c g fun x => aluGroup x w f

/-- An FP32 operation on words. -/
def fp (f : Word → Word → Word → Word) : Nat → Nat → Nat → Nat → Nat := fun _ a b c =>
  (f (BitVec.ofNat 32 a) (BitVec.ofNat 32 b) (BitVec.ofNat 32 c)).toNat

/-- The smaller or larger of two signed words. -/
def pickS (max : Bool) (n a b : Nat) : Nat := if decide (sext n a < sext n b) != max then a else b

/-- What CVT gives one lane: the result and its flags (R163). -/
def cvtLane (w a : Nat) : Nat × Nat :=
  if fld w 51 48 = 0 then ((widenCode (fld w 55 52) a).toNat, 0)
  else narrow (fld w 51 48) (BitVec.ofNat 32 a)

/-- The effect of IADD: the sum, wrapping. -/
def bodyIadd : Body := aluBody (fun n a b _ => (a + b) % 2 ^ n)
/-- Issue IADD. -/
def execIadd (c : Fin 272) (g : Fin 16) (ecc : Ecc) (s : State) : Host.Outcome State Fault Refusal :=
  .next (issueAs 0x01 c g ecc s bodyIadd)

/-- The effect of ISUB: the difference, wrapping. -/
def bodyIsub : Body := aluBody (fun n a b _ => (a + (2 ^ n - b)) % 2 ^ n)
/-- Issue ISUB. -/
def execIsub (c : Fin 272) (g : Fin 16) (ecc : Ecc) (s : State) : Host.Outcome State Fault Refusal :=
  .next (issueAs 0x02 c g ecc s bodyIsub)

/-- The effect of IMUL: the low half of the product. -/
def bodyImul : Body := aluBody (fun n a b _ => a * b % 2 ^ n)
/-- Issue IMUL. -/
def execImul (c : Fin 272) (g : Fin 16) (ecc : Ecc) (s : State) : Host.Outcome State Fault Refusal :=
  .next (issueAs 0x03 c g ecc s bodyImul)

/-- The effect of IMULHI.U: the high 32 bits of the unsigned product. -/
def bodyImulhiU : Body := aluBody (fun _ a b _ => a * b / 2 ^ 32)
/-- Issue IMULHI.U. -/
def execImulhiU (c : Fin 272) (g : Fin 16) (ecc : Ecc) (s : State) : Host.Outcome State Fault Refusal :=
  .next (issueAs 0x04 c g ecc s bodyImulhiU)

/-- The effect of IMULHI.S: the high 32 bits of the signed product. -/
def bodyImulhiS : Body := aluBody (fun _ a b _ => unsext 32 (sext 32 a * sext 32 b / 2 ^ 32))
/-- Issue IMULHI.S. -/
def execImulhiS (c : Fin 272) (g : Fin 16) (ecc : Ecc) (s : State) : Host.Outcome State Fault Refusal :=
  .next (issueAs 0x05 c g ecc s bodyImulhiS)

/-- The effect of AND. -/
def bodyAnd : Body := aluBody (fun _ a b _ => a &&& b)
/-- Issue AND. -/
def execAnd (c : Fin 272) (g : Fin 16) (ecc : Ecc) (s : State) : Host.Outcome State Fault Refusal :=
  .next (issueAs 0x06 c g ecc s bodyAnd)

/-- The effect of OR. -/
def bodyOr : Body := aluBody (fun _ a b _ => a ||| b)
/-- Issue OR. -/
def execOr (c : Fin 272) (g : Fin 16) (ecc : Ecc) (s : State) : Host.Outcome State Fault Refusal :=
  .next (issueAs 0x07 c g ecc s bodyOr)

/-- The effect of XOR. -/
def bodyXor : Body := aluBody (fun _ a b _ => a ^^^ b)
/-- Issue XOR. -/
def execXor (c : Fin 272) (g : Fin 16) (ecc : Ecc) (s : State) : Host.Outcome State Fault Refusal :=
  .next (issueAs 0x08 c g ecc s bodyXor)

/-- The effect of SHL by the low 5 or 6 bits of the count. -/
def bodyShl : Body := aluBody (fun n a b _ => a * 2 ^ (b % n) % 2 ^ n)
/-- Issue SHL. -/
def execShl (c : Fin 272) (g : Fin 16) (ecc : Ecc) (s : State) : Host.Outcome State Fault Refusal :=
  .next (issueAs 0x09 c g ecc s bodyShl)

/-- The effect of SHR, logical. -/
def bodyShr : Body := aluBody (fun n a b _ => a / 2 ^ (b % n))
/-- Issue SHR. -/
def execShr (c : Fin 272) (g : Fin 16) (ecc : Ecc) (s : State) : Host.Outcome State Fault Refusal :=
  .next (issueAs 0x0A c g ecc s bodyShr)

/-- The effect of SAR, arithmetic. -/
def bodySar : Body := aluBody (fun n a b _ => unsext n (sext n a / 2 ^ (b % n)))
/-- Issue SAR. -/
def execSar (c : Fin 272) (g : Fin 16) (ecc : Ecc) (s : State) : Host.Outcome State Fault Refusal :=
  .next (issueAs 0x0B c g ecc s bodySar)

/-- The effect of IMIN.S. -/
def bodyIminS : Body := aluBody (fun n a b _ => pickS false n a b)
/-- Issue IMIN.S. -/
def execIminS (c : Fin 272) (g : Fin 16) (ecc : Ecc) (s : State) : Host.Outcome State Fault Refusal :=
  .next (issueAs 0x0C c g ecc s bodyIminS)

/-- The effect of IMAX.S. -/
def bodyImaxS : Body := aluBody (fun n a b _ => pickS true n a b)
/-- Issue IMAX.S. -/
def execImaxS (c : Fin 272) (g : Fin 16) (ecc : Ecc) (s : State) : Host.Outcome State Fault Refusal :=
  .next (issueAs 0x0D c g ecc s bodyImaxS)

/-- The effect of IMIN.U. -/
def bodyIminU : Body := aluBody (fun _ a b _ => min a b)
/-- Issue IMIN.U. -/
def execIminU (c : Fin 272) (g : Fin 16) (ecc : Ecc) (s : State) : Host.Outcome State Fault Refusal :=
  .next (issueAs 0x0E c g ecc s bodyIminU)

/-- The effect of IMAX.U. -/
def bodyImaxU : Body := aluBody (fun _ a b _ => max a b)
/-- Issue IMAX.U. -/
def execImaxU (c : Fin 272) (g : Fin 16) (ecc : Ecc) (s : State) : Host.Outcome State Fault Refusal :=
  .next (issueAs 0x0F c g ecc s bodyImaxU)

/-- The effect of ISETP: 1 where the condition holds, 0 elsewhere. -/
def bodyIsetp : Body := fun s c g w e =>
  aluBody (fun _ a b _ => b2n (icond (fCond w) a b)) s c g w e
/-- Issue ISETP. -/
def execIsetp (c : Fin 272) (g : Fin 16) (ecc : Ecc) (s : State) : Host.Outcome State Fault Refusal :=
  .next (issueAs 0x10 c g ecc s bodyIsetp)

/-- The effect of SEL: rb where ra is non-zero, rc elsewhere. -/
def bodySel : Body := aluBody (fun _ a b c => if a = 0 then c else b)
/-- Issue SEL. -/
def execSel (c : Fin 272) (g : Fin 16) (ecc : Ecc) (s : State) : Host.Outcome State Fault Refusal :=
  .next (issueAs 0x11 c g ecc s bodySel)

/-- The effect of MOV. -/
def bodyMov : Body := aluBody (fun _ a _ _ => a)
/-- Issue MOV. -/
def execMov (c : Fin 272) (g : Fin 16) (ecc : Ecc) (s : State) : Host.Outcome State Fault Refusal :=
  .next (issueAs 0x12 c g ecc s bodyMov)

/-- The effect of FADD (R88). -/
def bodyFadd : Body := aluBody (fp fun a b _ => fadd32 a b)
/-- Issue FADD. -/
def execFadd (c : Fin 272) (g : Fin 16) (ecc : Ecc) (s : State) : Host.Outcome State Fault Refusal :=
  .next (issueAs 0x20 c g ecc s bodyFadd)

/-- The effect of FSUB (R88). -/
def bodyFsub : Body := aluBody (fp fun a b _ => fsub32 a b)
/-- Issue FSUB. -/
def execFsub (c : Fin 272) (g : Fin 16) (ecc : Ecc) (s : State) : Host.Outcome State Fault Refusal :=
  .next (issueAs 0x21 c g ecc s bodyFsub)

/-- The effect of FMUL (R88). -/
def bodyFmul : Body := aluBody (fp fun a b _ => fmul32 a b)
/-- Issue FMUL. -/
def execFmul (c : Fin 272) (g : Fin 16) (ecc : Ecc) (s : State) : Host.Outcome State Fault Refusal :=
  .next (issueAs 0x22 c g ecc s bodyFmul)

/-- The effect of FFMA: ra × rb + rc with one rounding. -/
def bodyFfma : Body := aluBody (fp fun a b c => fma32 a b c)
/-- Issue FFMA. -/
def execFfma (c : Fin 272) (g : Fin 16) (ecc : Ecc) (s : State) : Host.Outcome State Fault Refusal :=
  .next (issueAs 0x23 c g ecc s bodyFfma)

/-- The effect of FMIN (R88). -/
def bodyFmin : Body := aluBody (fp fun a b _ => fminmax32 false a b)
/-- Issue FMIN. -/
def execFmin (c : Fin 272) (g : Fin 16) (ecc : Ecc) (s : State) : Host.Outcome State Fault Refusal :=
  .next (issueAs 0x24 c g ecc s bodyFmin)

/-- The effect of FMAX (R88). -/
def bodyFmax : Body := aluBody (fp fun a b _ => fminmax32 true a b)
/-- Issue FMAX. -/
def execFmax (c : Fin 272) (g : Fin 16) (ecc : Ecc) (s : State) : Host.Outcome State Fault Refusal :=
  .next (issueAs 0x25 c g ecc s bodyFmax)

/-- The effect of FSETP: 1 where the condition holds, 0 elsewhere. -/
def bodyFsetp : Body := fun s c g w e =>
  aluBody (fp fun a b _ => BitVec.ofNat 32 (b2n (fcond (fCond w) a b))) s c g w e
/-- Issue FSETP. -/
def execFsetp (c : Fin 272) (g : Fin 16) (ecc : Ecc) (s : State) : Host.Outcome State Fault Refusal :=
  .next (issueAs 0x26 c g ecc s bodyFsetp)

/-- The effect of CVT: the result in the low bits of rd, zero-extended, and the flags of the lanes written. -/
def bodyCvt : Body := fun s c g w _ =>
  let x := s.grp c g
  let ls := if selU (fRd w) then [0] else lanes x.mask
  let fl := ls.foldl (fun f l => f ||| (cvtLane w (x.rdN (fRa w) l 1)).2) 0
  orFlags (s.setGrp c g (x.wrDst (fRd w) 1 fun l => (cvtLane w (x.rdN (fRa w) l 1)).1).next) c fl
/-- Issue CVT. -/
def execCvt (c : Fin 272) (g : Fin 16) (ecc : Ecc) (s : State) : Host.Outcome State Fault Refusal :=
  .next (issueAs 0x28 c g ecc s bodyCvt)

/-- The effect of CVT.SCALE (Table 4-7). -/
def bodyCvtScale : Body := aluBody (fun _ a _ _ => (scaleTo32 (a % 256)).toNat)
/-- Issue CVT.SCALE. -/
def execCvtScale (c : Fin 272) (g : Fin 16) (ecc : Ecc) (s : State) : Host.Outcome State Fault Refusal :=
  .next (issueAs 0x29 c g ecc s bodyCvtScale)

end Sys2Proof.Machine
end

