-- ==== Sys2Proof/Machine/Dot.lean ====
section
/-! DEFINITION. Exact accumulation (4.3), rounding at write-back (4.4) and partial accumulators (4.5). -/

namespace Sys2Proof.Machine

/-- Is a format code an MX format (Table 4-1)? -/
def isMx (code : Nat) : Bool := decide (6 ≤ code) && decide (code ≤ 11)

/-- The families of 4.3: 72 for codes 0x3–0xB, 96 for BF16 and FP16, 0 for FP32 and reserved codes. -/
def family (code : Nat) : Nat :=
  if code = 1 ∨ code = 2 then 96 else if 3 ≤ code ∧ code ≤ 11 then 72 else 0

/-- emax of Table 4-3. -/
def emaxOf (code : Nat) : Int :=
  match code with
  | 5 => 7
  | 3 => 9
  | 6 => 9
  | 4 => 16
  | 7 => 16
  | 8 => 5
  | 9 => 3
  | 10 => 3
  | 11 => 1
  | _ => 0

/-- The value of an element by its format code; INT8 and MXINT8 by Table 4-3. -/
def elemVal (code c : Nat) : Val :=
  match code with
  | 5 => let i := sext 8 c; .fin (decide (i < 0)) i.natAbs 0
  | 11 => let i := sext 8 c; .fin (decide (i < 0)) i.natAbs (-6)
  | _ =>
    match fmtOf code with
    | some f => f.decode (c % 2 ^ elemBits code)
    | none => .nan

/-- Element `i` of a row of elements held as bytes (R71). -/
def elemAt (code : Nat) (bs : List Byte) (i : Nat) : Nat :=
  let g := fun k => (bs.getD k 0).toNat
  match elemBits code with
  | 32 => rd bs (4 * i) 4
  | 16 => g (2 * i) + 256 * g (2 * i + 1)
  | 6 => let j := 3 * (i / 4); fld (g j + 256 * g (j + 1) + 65536 * g (j + 2)) (6 * (i % 4) + 5) (6 * (i % 4))
  | 4 => if i % 2 = 0 then g (i / 2) % 16 else g (i / 2) / 16
  | _ => g i

/-- Bytes that `n` elements of a format take. -/
def rowBytes (code n : Nat) : Nat := cdiv (n * elemBits code) 8

/-- Pack element codes (R71): a whole number of bytes; 6-bit elements in groups of four. -/
def packElems (code : Nat) (cs : List Nat) : List Byte :=
  match elemBits code with
  | 32 => cs.flatMap (leBytes 4)
  | 16 => cs.flatMap (leBytes 2)
  | 6 => (List.range ((cs.length + 3) / 4)).flatMap fun j =>
      let e := fun k => cs.getD (4 * j + k) 0
      leBytes 3 (e 0 + 64 * e 1 + 4096 * e 2 + 262144 * e 3)
  | 4 => (List.range ((cs.length + 1) / 2)).map fun j =>
      BitVec.ofNat 8 (cs.getD (2 * j) 0 + 16 * cs.getD (2 * j + 1) 0)
  | _ => cs.map (BitVec.ofNat 8)

/-- The row maximum of scale codes: the largest, ignoring 0xFF; 0 when all are 0xFF (R72). -/
def rowMax (cs : List Nat) : Nat := cs.foldl (fun m c => if c = 255 then m else max m c) 0

/-- An operand row: its format, element codes, scale codes of the blocks they lie in (127 for a non-MX
format), its row maximum over the whole reduction, and whether a supplied maximum is below a scale (R76). -/
structure OpRow where
  fmt : Nat
  elems : List Nat
  scales : List Nat
  rmax : Nat
  badMax : Bool

/-- The anchor A of R74. -/
def anchorOf (ra rb : Nat) : Int := ((ra : Int) - 127) + ((rb : Int) - 127)

/-- Exponent of the window LSB (R74, R77). -/
def windowExp (fa fb : Nat) (anchor : Int) : Int :=
  if family fa = 96 then -48 else anchor + emaxOf fa + emaxOf fb - 52

/-- Wrap an accumulator to its width, sign-extended (R74, R77, R86). -/
def wrapAcc (fam : Nat) (i : Int) : Int := sext fam (unsext fam i)

/-- Truncate m × 2^e toward zero to a multiple of 2^w: the multiple, and was it inexact. -/
def truncTo (a : Dy) (w : Int) : Int × Bool :=
  let d := a.e - w
  if 0 ≤ d then (a.m * 2 ^ d.toNat, false)
  else
    let q := a.m.natAbs / 2 ^ (-d).toNat
    (if a.m < 0 then -(q : Int) else q, a.m.natAbs % 2 ^ (-d).toNat != 0)

/-- An infinite product, +∞ or −∞: the second sign to come makes a NaN from inputs without one (R79). -/
def Acc.addInf (a : Acc) (neg : Bool) : Acc :=
  { a with pinf := a.pinf || !neg, ninf := a.ninf || neg, nanGen := a.nanGen || (if neg then a.pinf else a.ninf) }

/-- A product that is NaN: of a NaN element or a 0xFF scale code, or 0 × ∞ (R79). -/
def Acc.addNan (a : Acc) (input : Bool) : Acc :=
  { a with nan := true, nanIn := a.nanIn || input, nanGen := a.nanGen || !input }

/-- Add a finite product to an accumulator (R75, R77); a zero product adds nothing. -/
def Acc.addDy (a : Acc) (fam : Nat) (w : Int) (p : Dy) : Acc :=
  if p.m = 0 then a
  else if fam = 96 && decide (32 ≤ ilog p.m.natAbs 1 p.e) then { a.addInf (decide (p.m < 0)) with of96 := true }
  else
    let t := truncTo p w
    { a with v := wrapAcc fam (a.v + t.1), tr := a.tr || t.2 }

/-- One product of two elements under their scale codes (R75, R79). -/
def Acc.addProd (a : Acc) (fam : Nat) (w : Int) (x y : Val) (ca cb : Nat) : Acc :=
  if ca = 255 ∨ cb = 255 then a.addNan true
  else match x, y with
    | .nan, _ => a.addNan true
    | _, .nan => a.addNan true
    | .inf n, .inf m => a.addInf (n != m)
    | .inf n, .fin m k _ => if k = 0 then a.addNan false else a.addInf (n != m)
    | .fin n k _, .inf m => if k = 0 then a.addNan false else a.addInf (n != m)
    | .fin .., .fin .. => a.addDy fam w ((x.dy.mul y.dy).scale ((ca : Int) + cb - 254))

/-- The products of two operand rows added to an accumulator, element by element. -/
def dotRow (a : Acc) (ra rb : OpRow) : Acc :=
  let fam := family ra.fmt
  let w := windowExp ra.fmt rb.fmt (anchorOf ra.rmax rb.rmax)
  let a := (List.range (min ra.elems.length rb.elems.length)).foldl (fun a i =>
    a.addProd fam w (elemVal ra.fmt (ra.elems.getD i 0)) (elemVal rb.fmt (rb.elems.getD i 0))
      (ra.scales.getD (i / 32) 127) (rb.scales.getD (i / 32) 127)) a
  if ra.badMax || rb.badMax then { a with nan := true, nanGen := true } else a

/-- Combine two accumulators of one window (R86). -/
def Acc.combine (fam : Nat) (a b : Acc) : Acc :=
  { v := wrapAcc fam (a.v + b.v), nan := a.nan || b.nan, pinf := a.pinf || b.pinf, ninf := a.ninf || b.ninf,
    nanGen := a.nanGen || b.nanGen, nanIn := a.nanIn || b.nanIn, tr := a.tr || b.tr, of96 := a.of96 || b.of96 }

/-- A partial accumulator record (Table 4-6). -/
def partialBytes (a : Acc) (fa fb : Nat) (anchor : Int) : List Byte :=
  leBytes 12 (unsext 96 a.v) ++
  leBytes 1 (b2n a.nan + 2 * b2n a.pinf + 4 * b2n a.ninf + 8 * b2n a.nanGen + 16 * b2n a.tr + 32 * b2n a.of96) ++
  leBytes 1 (fa + 16 * fb) ++ leBytes 2 (unsext 16 anchor)

/-- Combine an accumulator with a record read from memory (R86): a record of other formats or another
anchor, or with non-zero reserved bits, leaves nan and nan_gen; the sum and the other states stay the accumulator's own
and the record's are dropped (the model's choice; log 16). -/
def addPartial (a : Acc) (fa fb : Nat) (anchor : Int) (bs : List Byte) : Acc :=
  let fam := family fa
  let fl := rd bs 12 1
  if rd bs 13 1 = fa + 16 * fb ∧ sext 16 (rd bs 14 2) = anchor ∧ fl < 64 then
    a.combine fam
      { v := wrapAcc fam (sext 96 (rd bs 0 12)), nan := bit fl 0, pinf := bit fl 1, ninf := bit fl 2,
        nanGen := bit fl 3, nanIn := bit fl 0 && !bit fl 3, tr := bit fl 4, of96 := bit fl 5 }
  else { a with nan := true, nanGen := true }

/-- The value an accumulator resolves to (R80). -/
def Acc.value (a : Acc) (w : Int) : Val :=
  if a.nan || (a.pinf && a.ninf) then .nan
  else if a.pinf then .inf false
  else if a.ninf then .inf true
  else .fin (decide (a.v < 0)) a.v.natAbs w

/-- Flags an accumulator reports whatever its target (Table 4-5; log 17). -/
def Acc.flags (a : Acc) : Nat :=
  (if a.nanIn then flNanIn else 0) |||
  (if a.nanGen || (a.pinf && a.ninf) then flNv else 0) |||
  (if a.of96 then flOf else 0) ||| (if a.tr then flTr else 0)

/-- Round a value to FP32 or BF16 (R80 to R82): the code and the of flag. A zero is +0. -/
def roundOut (code : Nat) (v : Val) : Nat × Nat :=
  let f := if code = 1 then fmtBF16 else fmtF32
  match v with
  | .nan => (if code = 1 then 0x7FC0 else 0x7FC00000, 0)
  | .inf n => (withSign f n (f.maxCode + 1), 0)
  | .fin n m e =>
    let c := f.roundMag m 1 e
    if c = 0 then (0, 0)
    else if f.maxCode < c then (withSign f n (f.maxCode + 1), flOf)
    else (withSign f n c, 0)

/-- Exponent of the largest normal of an MX element (R83). -/
def emaxElem (code : Nat) : Int :=
  match code with
  | 6 => 8
  | 7 => 15
  | 8 => 4
  | 11 => 0
  | _ => 2

/-- Floor of log2 of the largest magnitude of a block; none when all are zero. -/
def blockExp (vs : List Val) : Option Int :=
  vs.foldl (fun acc v =>
    match v with
    | .fin _ m e =>
      if m = 0 then acc
      else
        let k := ilog m 1 e
        match acc with
        | none => some k
        | some b => some (max b k)
    | _ => acc) none

/-- One element of an MX block under scale code c (R83): code and of flag. -/
def mxElem (code c : Nat) (v : Val) : Nat × Nat :=
  match v with
  | .fin n m e =>
    let e := e - ((c : Int) - 127)
    match fmtOf code with
    | some f =>
      let k := f.roundMag m 1 e
      if k = 0 then (0, 0)
      else if f.maxCode < k then (withSign f n f.maxCode, if c = 254 then flOf else 0)
      else (withSign f n k, 0)
    | none =>
      let e := e + 6
      let k := if m = 0 then 0
               else if 40 < ilog m 1 e then 2 ^ 40
               else if 0 ≤ e then m * 2 ^ e.toNat else rne m (2 ^ (-e).toNat)
      let lim := if n then 128 else 127
      let s := min k lim
      (if n then (256 - s) % 256 else s, if lim < k ∧ c = 254 then flOf else 0)
  | _ => (0, 0)

/-- Write back one MX block (R83, R84): scale code, 32 element codes, flags. Scales clamped at 254 alone let
a saturation set of. -/
def mxBlock (code : Nat) (vs : List Val) : Nat × List Nat × Nat :=
  if vs.any fun v => match v with
      | .fin .. => false
      | _ => true then
    (255, List.replicate 32 0, if vs.any fun v => match v with
      | .inf _ => true
      | _ => false then flOf else 0)
  else
    match blockExp vs with
    | none => (0, List.replicate 32 0, 0)
    | some k =>
      let x := k - emaxElem code + 127
      let c := if x < 0 then 0 else if 254 < x then 254 else x.toNat
      let clamped := decide (254 < x)
      let r := (List.range 32).map fun i => mxElem code c (vs.getD i (.fin false 0 0))
      (c, r.map (·.1), if clamped then (r.map (·.2)).foldl (· ||| ·) 0 else 0)

/-- A written row: its element bytes, its scale codes, and its flags. -/
structure OutRow where
  bytes : List Byte
  scales : List Byte
  flags : Nat

/-- Round and write a row of accumulators, each under its own window (R80 to R85). -/
def writeRow (code : Nat) (as : List (Int × Acc)) : OutRow :=
  let vs := as.map fun a => a.2.value a.1
  let fl := as.foldl (fun f a => f ||| a.2.flags) 0
  if isMx code then
    let bl := (List.range ((as.length + 31) / 32)).map fun j => mxBlock code (slicePad vs (32 * j))
    { bytes := bl.flatMap fun b => packElems code b.2.1, scales := bl.map fun b => BitVec.ofNat 8 b.1,
      flags := bl.foldl (fun f b => f ||| b.2.2) fl }
  else
    let rs := vs.map (roundOut code)
    { bytes := packElems code (rs.map (·.1)), scales := [], flags := rs.foldl (fun f r => f ||| r.2) fl }
where
  /-- 32 values from an index, +0 beyond the row (R82). -/
  slicePad (vs : List Val) (i : Nat) : List Val :=
    let t := (vs.drop i).take 32
    t ++ List.replicate (32 - t.length) (.fin false 0 0)

end Sys2Proof.Machine
end

