-- ==== Sys2Proof/Machine/Desc.lean ====
section
/-! DEFINITION. Descriptors of the arrays and the DMA engine: their fields (Tables 5-2 and 5-5), the checks of
Table 5-3, and what a matrix or element-wise descriptor writes (R97, R105, R106). -/

namespace Sys2Proof.Machine

/-- A matrix or element-wise descriptor (Table 5-2). -/
structure MxDesc where
  kind : Nat
  mode : Nat
  outKind : Nat
  mask : Nat
  fa : Nat
  fb : Nat
  fo : Nat
  token : Nat
  m : Nat
  n : Nat
  kLen : Nat
  givenA : Bool
  givenB : Bool
  astr : Nat
  aAddr : Nat
  aSc : Nat
  bAddr : Nat
  bSc : Nat
  out : Nat
  outSc : Nat
  rA : Nat
  rB : Nat
  psum : Nat
  aStr : Nat
  bStr : Nat
  oStr : Nat
  kOff : Nat
  kTot : Nat
deriving DecidableEq, Repr

/-- Read a descriptor's fields; a k_total of 0 means k_len. -/
def parseMx (b : List Byte) : MxDesc :=
  let b1 := rd b 1 1
  let b2 := rd b 2 1
  let b3 := rd b 3 1
  let k := rd b 8 4
  let kt := rd b 0x3C 4
  { kind := rd b 0 1, mode := fld b1 1 0, outKind := fld b1 3 2, mask := fld b1 7 4, fa := fld b2 3 0, fb := fld b2 7 4,
    fo := fld b3 3 0, token := fld b3 6 4, m := rd b 4 2, n := rd b 6 2, kLen := k, givenA := bit (rd b 0xC 1) 0,
    givenB := bit (rd b 0xC 1) 1, astr := rd b 0xE 2, aAddr := rd b 0x10 4, aSc := rd b 0x14 4, bAddr := rd b 0x18 4,
    bSc := rd b 0x1C 4, out := rd b 0x20 4, outSc := rd b 0x24 4, rA := rd b 0x28 4, rB := rd b 0x2C 4,
    psum := rd b 0x30 4, aStr := rd b 0x34 2, bStr := rd b 0x36 2, oStr := rd b 0x38 2, kOff := rd b 0x3A 2,
    kTot := if kt = 0 then k else kt }

/-- The descriptor is element-wise. -/
def MxDesc.ew (d : MxDesc) : Bool := d.kind == 0x11
/-- The element-wise operation. -/
def MxDesc.ewOp (d : MxDesc) : Nat := d.kLen % 16
/-- It writes partial records. -/
def MxDesc.partOut (d : MxDesc) : Bool := bit d.outKind 0
/-- It adds partial records. -/
def MxDesc.partIn (d : MxDesc) : Bool := bit d.outKind 1
/-- Elements of a row of operand a and b in this part. -/
def MxDesc.len (d : MxDesc) : Nat := if d.ew then d.n else d.kLen
/-- Scale codes of a whole row. Element-wise, where k_len holds the operation, a row has n_cols ÷ 32 codes from block 0, and
k_total and k_offset are neither used nor checked (the model's choice; log 21). -/
def MxDesc.codes (d : MxDesc) : Nat := (if d.ew then d.n else d.kTot) / 32
/-- First block of this part. -/
def MxDesc.blk (d : MxDesc) : Nat := if d.ew then 0 else d.kOff
/-- Rows of operand a. -/
def MxDesc.aRows (d : MxDesc) : Nat := if d.ew then d.m else d.n
/-- The arrays that take part. -/
def MxDesc.arrays (d : MxDesc) : List Nat := (List.range 4).filter fun k => bit d.mask k
/-- Offset of an array's regions (R97). -/
def MxDesc.off (d : MxDesc) (k : Nat) : Nat := 64 * d.astr * k
/-- Offset of an array's regions of operand a: element-wise only. -/
def MxDesc.offA (d : MxDesc) (k : Nat) : Nat := if d.ew then d.off k else 0
/-- Bytes of an output row. -/
def MxDesc.outRow (d : MxDesc) : Nat :=
  if d.partOut then 16 * d.n else rowBytes d.fo (if isMx d.fo then cdiv d.n 32 * 32 else d.n)
/-- MX output is written. -/
def MxDesc.mxOut (d : MxDesc) : Bool := !d.partOut && isMx d.fo

/-- A region of local memory: start, stride, rows, bytes of a row. -/
abbrev Region4 := Nat × Nat × Nat × Nat

/-- The end of a region. -/
def regionEnd (r : Region4) : Nat := if r.2.2.1 = 0 ∨ r.2.2.2 = 0 then 0 else r.1 + (r.2.2.1 - 1) * r.2.1 + r.2.2.2

/-- The regions an array reads. -/
def MxDesc.reads (d : MxDesc) (k : Nat) : List Region4 :=
  let side := fun (f addr str sc rows : Nat) (given : Bool) (rm : Nat) =>
    [(addr, str, rows, rowBytes f d.len)] ++
    (if isMx f then [(sc, d.codes, rows, d.codes)] else []) ++
    (if given then [(rm, 1, rows, 1)] else [])
  side d.fa (d.aAddr + d.offA k) d.aStr (d.aSc + d.offA k) d.aRows d.givenA (d.rA + d.offA k) ++
  side d.fb (d.bAddr + d.off k) d.bStr (d.bSc + d.off k) d.m d.givenB (d.rB + d.off k) ++
  (if d.partIn then [(d.psum + d.off k, d.oStr, d.m, 16 * d.n)] else [])

/-- The regions an array writes. -/
def MxDesc.writes (d : MxDesc) (k : Nat) : List Region4 :=
  [(d.out + d.off k, d.oStr, d.m, d.outRow)] ++
  (if d.mxOut then [(d.outSc + d.off k, cdiv d.n 32, d.m, cdiv d.n 32)] else [])

/-- Address fields a descriptor does not use, which are zero (Table 5-2; log 21). -/
def MxDesc.unused (d : MxDesc) : List Nat :=
  (if isMx d.fa then [] else [d.aSc]) ++ (if isMx d.fb then [] else [d.bSc]) ++ (if d.mxOut then [] else [d.outSc]) ++
  (if d.givenA then [] else [d.rA]) ++ (if d.givenB then [] else [d.rB]) ++ (if d.partIn then [] else [d.psum])

/-- Row limits by mode (Table 5-2): m_rows and n_cols. -/
def MxDesc.limits (d : MxDesc) : Nat × Nat := if d.ew then (1024, 4096) else if d.mode = 1 then (8, 128) else (1024, 32)

/-- The first cause of Table 5-3 that a matrix or element-wise descriptor meets; `code` is the start of the
code region. An element-wise descriptor whose mode is not zero has a reserved mode, cause 5 (the model's choice: Table 5-2
says zero, Table 5-3 names cause 2 as well; log 21). An address whose bits 31 to 20 are not zero, for which Table 5-3 names no
cause, gives cause 7 through the range of its region, and none where the region is empty (the model's choice; log 21). -/
def checkMx (b : List Byte) (code : Nat) : Option Nat :=
  let d := parseMx b
  let flag := rd b 0xC 1
  let op := d.ewOp
  let lim := if family d.fa = 96 then 32768 else 262144
  let strides := [(d.aStr, rowBytes d.fa d.len), (d.bStr, rowBytes d.fb d.len), (d.oStr, d.outRow)] ++
    (if d.partIn then [(d.oStr, 16 * d.n)] else [])
  if d.kind ≠ 0x10 ∧ d.kind ≠ 0x11 then some 1
  else if bit (rd b 3 1) 7 ∨ 4 ≤ flag ∨ rd b 0xD 1 ≠ 0 ∨ (d.ew ∧ 16 ≤ d.kLen) ∨ d.unused.any (· != 0) then some 2
  else if family d.fa = 0 ∨ family d.fa ≠ family d.fb ∨ (d.ew ∧ op < 2 ∧ d.fa ≠ d.fb) ∨ (!d.partOut ∧ 12 ≤ d.fo) then some 3
  else if !d.partOut ∧ !(d.fo == 0 || d.fo == 1 || isMx d.fo) then some 4
  else if 2 ≤ d.mode ∨ (d.ew ∧ d.mode ≠ 0) ∨ d.mask = 0 ∨ d.m = 0 ∨ d.limits.1 < d.m ∨ d.n = 0 ∨ d.limits.2 < d.n ∨
      (d.ew ∧ (isMx d.fa || isMx d.fb) ∧ d.n % 32 ≠ 0) then some 5
  else if !d.ew ∧ (d.kLen % 32 ≠ 0 ∨ d.kTot % 32 ≠ 0 ∨ d.kTot < 32 * d.kOff + d.kLen ∨ lim < d.kTot) then some 6
  else if ([d.aAddr, d.aSc, d.bAddr, d.bSc, d.out, d.outSc, d.rA, d.rB, d.psum, d.aStr, d.bStr, d.oStr].any
        fun a => a % 8 != 0) ∨ strides.any (fun p => decide (p.1 < p.2)) ∨
      d.arrays.any (fun k => (d.reads k).any fun r => decide (0x100000 < regionEnd r)) ∨
      d.arrays.any (fun k => (d.writes k).any fun r => decide (code < regionEnd r)) then some 7
  else if d.ew ∧ 3 ≤ op then some 8
  else none

/-! ### What the arrays compute -/

/-- A row of an operand as local memory holds it: `i` counts rows from an address, `pos` gives the first block. -/
def opRow (lm : Mem) (f addr str sc codes blk n : Nat) (given : Bool) (rm i : Nat) : OpRow :=
  let bytes := mread lm (addr + i * str) (rowBytes f n)
  let es := (List.range n).map (elemAt f bytes)
  if isMx f then
    let cs := (mread lm (sc + i * codes) codes).map BitVec.toNat
    let r := (mget lm (rm + i)).toNat
    { fmt := f, elems := es, scales := cs.drop blk, rmax := if given then r else rowMax cs,
      badMax := given && cs.any fun c => c != 255 && decide (r < c) }
  else { fmt := f, elems := es, scales := [], rmax := 127, badMax := false }

/-- Row i of operand a for array k. -/
def MxDesc.aRow (d : MxDesc) (lm : Mem) (k i : Nat) : OpRow :=
  opRow lm d.fa (d.aAddr + d.offA k) d.aStr (d.aSc + d.offA k) d.codes d.blk d.len d.givenA (d.rA + d.offA k) i

/-- Row i of operand b for array k. -/
def MxDesc.bRow (d : MxDesc) (lm : Mem) (k i : Nat) : OpRow :=
  opRow lm d.fb (d.bAddr + d.off k) d.bStr (d.bSc + d.off k) d.codes d.blk d.len d.givenB (d.rB + d.off k) i

/-- The value an element stands for with its sign flipped. -/
def flipVal : Val → Val
  | .nan => .nan
  | .inf n => .inf (!n)
  | .fin n m e => .fin (!n) m e

/-- Element-wise outputs of one row (R105): window exponent, anchor and accumulator of each. -/
def ewRow (op : Nat) (a b : OpRow) : List (Int × Int × Acc) :=
  let fam := family a.fmt
  let bad := fun (x : Acc) => if a.badMax || b.badMax then { x with nan := true, nanGen := true } else x
  let one : Val := .fin false 1 0
  (List.range (min a.elems.length b.elems.length)).map fun i =>
    let x := elemVal a.fmt (a.elems.getD i 0)
    let y := elemVal b.fmt (b.elems.getD i 0)
    let ca := a.scales.getD (i / 32) 127
    let cb := b.scales.getD (i / 32) 127
    if op = 2 then
      let an := anchorOf a.rmax b.rmax
      let w := windowExp a.fmt b.fmt an
      (w, an, bad (({} : Acc).addProd fam w x y ca cb))
    else
      let an : Int := max ((a.rmax : Int) - 127) ((b.rmax : Int) - 127)
      let w := if fam = 96 then -48 else an + emaxOf a.fmt + 7 - 52
      (w, an, bad ((({} : Acc).addProd fam w x one ca 127).addProd fam w (if op = 1 then flipVal y else y) one cb 127))

/-- Outputs of row i of array k before rounding: window exponent, anchor and accumulator of each column. -/
def MxDesc.rowAccs (d : MxDesc) (lm : Mem) (k i : Nat) : List (Int × Int × Acc) :=
  let b := d.bRow lm k i
  let r := if d.ew then ewRow d.ewOp (d.aRow lm k i) b
    else (List.range d.n).map fun j =>
      let a := d.aRow lm k j
      let an := anchorOf a.rmax b.rmax
      (windowExp d.fa d.fb an, an, dotRow {} a b)
  if d.partIn then
    (List.range r.length).zip r |>.map fun p =>
      (p.2.1, p.2.2.1, addPartial p.2.2.2 d.fa d.fb p.2.2.1 (mread lm (d.psum + d.off k + i * d.oStr + 16 * p.1) 16))
  else r

/-- The writes of one output row, address and bytes, with the flags it reports. Partial records carry their
conditions with them and report none (log 22). -/
def MxDesc.rowWrites (d : MxDesc) (lm : Mem) (k i : Nat) : List (Nat × List Byte) × Nat :=
  let r := d.rowAccs lm k i
  let at_ := d.out + d.off k + i * d.oStr
  if d.partOut then ([(at_, r.flatMap fun p => partialBytes p.2.2 d.fa d.fb p.2.1)], 0)
  else
    let o := writeRow d.fo (r.map fun p => (p.1, p.2.2))
    ([(at_, o.bytes), (d.outSc + d.off k + i * cdiv d.n 32, o.scales)], o.flags)

/-- Everything a descriptor writes from the operands of `lm`, rows before `stop` only, with the flags (R102, R103), row after
row as R94 times them. Where its own output overlaps its operands, all operands are read first, and of two arrays that write one
byte in one cycle the higher one's stays (the model's choices; log 22). -/
def MxDesc.run (d : MxDesc) (lm : Mem) (stop : Nat) : List (Nat × List Byte) × Nat :=
  let rs := (List.range (min d.m stop)).flatMap fun i => d.arrays.map fun k => d.rowWrites lm k i
  (rs.flatMap (·.1), rs.foldl (fun f r => f ||| r.2) 0)

/-- Cycles the arrays are occupied (R94, R95, R104). -/
def MxDesc.busy (d : MxDesc) : Nat :=
  let c := if family d.fa = 96 then 4 else 1
  let fp4 := d.fa == 10 && d.fb == 10
  if d.ew then cdiv (d.m * d.n) (if family d.fa = 96 then 8 else if fp4 then 64 else 32)
  else if d.mode = 1 then (if fp4 then d.kLen / 2 else d.kLen * c)
  else cdiv d.kLen (if fp4 then 64 else 32) * max 32 (d.m * c)

/-! ### DMA -/

/-- A DMA descriptor (Table 5-5). -/
structure DmaDesc where
  out : Bool
  token : Nat
  rows : Nat
  rowBytes : Nat
  dev : Nat
  loc : Nat
  devStr : Nat
  locStr : Nat
deriving DecidableEq, Repr

/-- Read a DMA descriptor's fields. -/
def parseDma (b : List Byte) : DmaDesc :=
  { out := bit (rd b 1 1) 0, token := fld (rd b 1 1) 6 4, rows := rd b 2 2, rowBytes := rd b 4 4, dev := rd b 8 8,
    loc := rd b 0x10 4, devStr := rd b 0x18 8, locStr := rd b 0x20 4 }

/-- The first cause of Table 5-3 that a DMA descriptor meets. -/
def checkDma (b : List Byte) (code : Nat) : Option Nat :=
  let d := parseDma b
  let b1 := rd b 1 1
  let e := regionEnd (d.loc, d.locStr, d.rows, d.rowBytes)
  if rd b 0 1 ≠ 0x18 then some 1
  else if fld b1 3 1 ≠ 0 ∨ bit b1 7 ∨ rd b 0x14 4 ≠ 0 ∨ !allZero (slice b 0x24 28) then some 2
  else if d.loc % 8 ≠ 0 ∨ d.locStr % 8 ≠ 0 ∨ d.dev % 8 ≠ 0 ∨ d.devStr % 8 ≠ 0 ∨ d.locStr < d.rowBytes ∨
      d.devStr < d.rowBytes ∨ 0x100000 < e ∨ (!d.out ∧ code < e) then some 7
  else if d.rows = 0 ∨ 4096 < d.rows ∨ d.rowBytes < 8 ∨ 65536 < d.rowBytes ∨ d.rowBytes % 8 ≠ 0 ∨ 2 ^ 40 ≤ d.dev ∨
      2 ^ 40 ≤ d.devStr then some 9
  else none

/-! ### Operand bytes that change under a descriptor (R101) -/

/-- The operand bytes a descriptor reads when local memory is `lm` at its completion and `seen` tells what bytes written
since its start held before, and what others under way write: each such byte is one of those values or the present one, by
free choice (log 46). -/
def mixMem (seen : List (Nat × Byte)) (lm : Mem) (ctr : Nat) : Mem × Nat :=
  ((seen.map (·.1)).eraseDups).foldl (fun (a : Mem × Nat) k =>
    let vs := (seen.filter fun e => e.1 == k).map (·.2) ++ [mget lm k]
    if vs.all (· == mget lm k) then a
    else (mput a.1 k (vs.getD ((Config.freeByte a.2).toNat % vs.length) 0), a.2 + 1)) (lm, ctr)

/-- The bytes a descriptor's writes leave: where another writer wrote since its start, the one that wrote last stays, and
which that is is free (R101; log 46). -/
def landWrites (seen : List (Nat × Byte)) (lm : Mem) (ctr : Nat) (ws : List (Nat × Byte)) : List (Nat × Byte) × Nat :=
  ws.foldl (fun (a : List (Nat × Byte) × Nat) w =>
    if seen.any fun e => e.1 == w.1 then
      (a.1 ++ [if (Config.freeByte a.2).getLsbD 0 then (w.1, mget lm w.1) else w], a.2 + 1)
    else (a.1 ++ [w], a.2)) ([], ctr)

/-- A descriptor's or launch's writes land in a core's local memory. -/
def landLm (s : State) (c : Nat) (seen : List (Nat × Byte)) (ws : List (Nat × List Byte)) : State :=
  let r := landWrites seen (s.core c).lm s.freeCtr (byteWrites ws)
  { s with freeCtr := r.2 }.storeLm c r.1

end Sys2Proof.Machine
end

