-- ==== Sys2Proof/Machine/Share.lean ====
section
/-! DEFINITION. Matrix tables and share records of the Palm engines (6.2): the checks of R115, the rank rule of
R116, the packing of weights into slice-local windows, and the dealing of a lost engine's shares (R126, R128). -/

namespace Sys2Proof.Machine

/-- Read entry `i` of a matrix table. -/
def parseMat (b : List Byte) (i : Nat) : MatEnt :=
  let o := 0x10 + 32 * i
  let f := rd b (o + 2) 1
  { id := rd b o 2, fmt := f % 16, split := bit f 4, source := bit f 5, n := rd b (o + 4) 4, k := rd b (o + 8) 4,
    stride := rd b (o + 0xC) 4, wOff := rd b (o + 0x10) 8, scOff := rd b (o + 0x18) 4, rmOff := rd b (o + 0x1C) 4 }

/-- Every entry of a matrix table. -/
def parseMats (b : List Byte) : List MatEnt := (List.range (min (rd b 4 4) 2048)).map (parseMat b)

/-- Weight formats an engine accepts (R113). -/
def palmFmt (f : Nat) : Bool := f == 1 || (decide (3 ≤ f) && decide (f ≤ 11))

/-- k_total keeps R72 and R78. -/
def kOk (f k : Nat) : Bool := decide (k % 32 = 0) && decide (k ≤ if family f = 96 then 32768 else 262144)

/-- The rows, scales and row maxima of an entry lie in the plaintext. -/
def MatEnt.inside (e : MatEnt) (size : Nat) : Bool :=
  decide (e.wOff + (e.n - 1) * e.stride + rowBytes e.fmt e.k ≤ size) &&
  (!isMx e.fmt || (decide (e.wOff + e.scOff + e.n * (e.k / 32) ≤ size) && decide (e.wOff + e.rmOff + e.n ≤ size)))

/-- R115 and the home rule of R123: the matrix table is valid beside the matrix ids the window holds. -/
def matsOk (b : List Byte) (size : Nat) (bondedHome : Bool) (held : List Nat) : Bool :=
  let ms := parseMats b
  decide (rd b 0 4 = 0x58544D50) && decide (1 ≤ rd b 4 4) && decide (rd b 4 4 ≤ 2048) && decide (rd b 8 8 = 0) &&
  (List.range ms.length).all (fun i => decide (rd b (0x12 + 32 * i) 1 < 64) && decide (rd b (0x13 + 32 * i) 1 = 0)) &&
  decide ((ms.map (·.id)).Nodup) &&
  ms.all fun e => !held.contains e.id && palmFmt e.fmt && kOk e.fmt e.k && e.inside size && (bondedHome || !e.source)

/-! ### Share geometry -/

/-- Bytes of one 32-element block. -/
def blockBytes (f : Nat) : Nat := rowBytes f 32

/-- Step between the blocks of a share: the dealt blocks of a reduction split lie `out_row_stride` apart
(Table 6-3 names no other field for them; log 27). -/
def Share.bStep (sh : Share) : Nat := if sh.extra && sh.split then sh.outStride else 1

/-- Whole-row blocks a share holds, in order. -/
def Share.blocks (sh : Share) : List Nat := (List.range sh.kBlocks).map fun j => sh.kFirst + j * sh.bStep

/-- Output rows of a share. -/
def Share.outRows (sh : Share) : List Nat :=
  (List.range sh.rows).map fun r => sh.outFirst + r * (if sh.split then 1 else sh.outStride)

/-- Rows between successive rows of the share at its source: a packed share's rows are consecutive. -/
def Share.srcStep (sh : Share) : Nat := if sh.source && !sh.split then sh.outStride else 1

/-- An address of the share: w_addr plus an offset; the record's 32 bits hold the offset, the model its value (log 27). -/
def Share.at_ (sh : Share) (off : Int) : Nat := ((sh.wAddr : Int) + off).toNat

/-- Bytes of one row of elements as packed. -/
def Share.rowB (sh : Share) : Nat := blockBytes sh.fmtW * sh.kBlocks

/-- Bytes of a packed share in its slice: elements, scale codes, row maxima. -/
def Share.packed (sh : Share) : Nat :=
  if sh.source then 0
  else sh.rows * sh.rowB + (if isMx sh.fmtW then sh.rows * (sh.kTotal / 32) + sh.rows else 0)

/-- Bytes of weight elements and scales an engine reads of a share (W of R122). -/
def Share.weight (sh : Share) : Nat :=
  sh.rows * (sh.rowB + (if isMx sh.fmtW then sh.kBlocks else 0))

/-- Row `r` of a share's elements, read with `get`. -/
def Share.elemBytes (sh : Share) (get : Nat → Nat → List Byte) (r : Nat) : List Byte :=
  (List.range sh.kBlocks).flatMap fun j =>
    get (sh.wAddr + r * sh.wStride + blockBytes sh.fmtW * (if sh.source then j * sh.bStep else j)) (blockBytes sh.fmtW)

/-- Scale codes of the whole reduction row of row `r`. -/
def Share.scaleCodes (sh : Share) (get : Nat → Nat → List Byte) (r : Nat) : List Byte :=
  if isMx sh.fmtW then get (sh.at_ sh.scaleOff + r * sh.srcStep * (sh.kTotal / 32)) (sh.kTotal / 32) else []

/-- Row `r` of a share as an operand, its anchor taken from the whole row (R114). -/
def Share.row (sh : Share) (get : Nat → Nat → List Byte) (r : Nat) : OpRow :=
  let es := (List.range (32 * sh.kBlocks)).map (elemAt sh.fmtW (sh.elemBytes get r))
  if isMx sh.fmtW then
    let cs := (sh.scaleCodes get r).map BitVec.toNat
    let m := leNat (get (sh.at_ sh.rmaxOff + r * sh.srcStep) 1)
    { fmt := sh.fmtW, elems := es, scales := sh.blocks.map fun b => cs.getD b 127, rmax := m,
      badMax := cs.any fun c => c != 255 && decide (m < c) }
  else { fmt := sh.fmtW, elems := es, scales := [], rmax := 127, badMax := false }

/-! ### Staging -/

/-- Aperture address of a slice-local window's first byte in a slice (R219, R228). -/
def windowBase (s : State) (w sl : Nat) : Nat := 0x8000000000 + sl * 0x1000000 + firstWay s w * mib

/-- Bytes of a window up to the end of the last packed share that an engine holds in its slice. -/
def usedBytes (s : State) (n w : Nat) : Nat :=
  ((s.engine n).shares.filter fun sh => sh.window == w && decide (0 < sh.packed)).foldl
    (fun m sh => max m (sh.wAddr + sh.packed - windowBase s w n)) 0

/-- Share of rank `r` of `E` of a matrix whose bundle lies at `home` (R116); `base` is where its packed part
would begin. -/
def rankShare (m : MatEnt) (ref w E r home base : Nat) : Share :=
  let B := m.k / 32
  let lo := fun n => n * r / E
  let hi := fun n => n * (r + 1) / E
  let r0 := if m.split then 0 else lo m.n
  let rows := if m.split then (if hi B = lo B then 0 else m.n) else hi m.n - lo m.n
  let b0 := if m.split then lo B else 0
  let nb := if m.split then hi B - lo B else B
  let src := home + m.wOff + r0 * m.stride + blockBytes m.fmt * b0
  let scHome := home + m.wOff + m.scOff + r0 * B
  let rmHome := home + m.wOff + m.rmOff + r0
  let rb := blockBytes m.fmt * nb
  { ref := ref, base := home, mat := m, matrixId := m.id, window := w, fmtW := m.fmt, split := m.split, source := m.source,
    extra := false, rows := rows, outFirst := r0, outStride := 1, kTotal := m.k, nTotal := m.n,
    wAddr := if m.source then src else base, wStride := if m.source then m.stride else rb,
    scaleOff := if m.source then (scHome : Int) - src else (rows * rb : Nat),
    rmaxOff := if m.source then (rmHome : Int) - src else (rows * rb + (if isMx m.fmt then rows * B else 0) : Nat),
    kFirst := b0, kBlocks := nb, home := src }

/-- The class staging runs at: that of the stream whose bundles the window receives, or 0 where streams of several
classes share it (R42); 0 too for a window that no stream's bundles name, of which the spec says nothing (the model's choice;
log 28). -/
def windowClass (s : State) (w : Nat) : Nat :=
  match ((streamsOfWindow s w).map s.streamClass).eraseDups with
  | [c] => c
  | _ => 0

/-- Copy bytes from one device address to another by the Crown's own reads and writes, each served at its home (R220). What
a bus error keeps from being read is not copied (log 28). -/
def copyRange (s : State) (cls src dst n : Nat) : State :=
  (linePieces src n).foldl (fun s pc =>
    match devRead (snoopRead s cls pc.1 pc.2).2 true cls pc.1 pc.2 with
    | (.ok b, s) => devWrite s cls (dst + (pc.1 - src)) b
    | (.error _, s) => s) s

/-- What a packed share holds: its home address, its offset in the share, its length. Elements come row by row, then the
scale codes, then the row maxima. -/
def Share.parts (sh : Share) : List (Nat × Nat × Nat) :=
  let m := sh.mat
  let B := m.k / 32
  let bb := blockBytes m.fmt
  let w := sh.base + m.wOff
  let rows := (List.range sh.rows).zip sh.outRows
  rows.flatMap (fun p =>
    if sh.bStep = 1 then [(w + p.2 * m.stride + bb * sh.kFirst, p.1 * sh.rowB, sh.rowB)]
    else (List.range sh.kBlocks).map fun j => (w + p.2 * m.stride + bb * (sh.kFirst + j * sh.bStep), p.1 * sh.rowB + bb * j, bb)) ++
  (if isMx m.fmt then
    rows.map (fun p => (w + m.scOff + p.2 * B, sh.scaleOff.toNat + p.1 * B, B)) ++
    rows.map (fun p => (w + m.rmOff + p.2, sh.rmaxOff.toNat + p.1, 1))
   else [])

/-- Home ranges that a share's copy or its engine's reads take. -/
def Share.homes (sh : Share) : List (Nat × Nat) := sh.parts.map fun p => (p.1, p.2.2)

/-- Copy a share's weights, scales and row maxima from its bundle's home into its slice (source 0). -/
def copyShare (s : State) (cls : Nat) (sh : Share) : State :=
  if sh.source then s else sh.parts.foldl (fun s p => copyRange s cls p.1 (sh.wAddr + p.2.1) p.2.2) s

/-- Stage a bundle's matrices into a slice-local window: each rank gets its shares in matrix table order (R116). -/
def stageMats (s : State) (cls ref w home : Nat) (ms : List MatEnt) : State :=
  let es := engineList s w
  (List.range es.length).foldl (fun s r =>
    let n := es.getD r 0
    ms.foldl (fun s m =>
      let e := s.engine n
      let sh := rankShare m ref w es.length r home (windowBase s w n + usedBytes s n w)
      copyShare (s.setEngine n { e with shares := e.shares ++ [sh] }) cls sh) s) s

/-- Staging would overflow a share store (R117). -/
def storeFull (s : State) (w count : Nat) : Bool :=
  (engineList s w).any fun n => decide (2048 < (s.engine n).shares.length + count)

/-! ### Loss of an engine (R126) -/

/-- The part of a lost share that the survivor at distance `d` behind the pointer receives, of `S` survivors:
every S-th row, or every S-th block of a reduction split. -/
def dealtShare (sh : Share) (S d base : Nat) : Share :=
  let m := sh.mat
  let w := sh.base + m.wOff
  let B := m.k / 32
  let count := if sh.split then sh.kBlocks else sh.rows
  let mine := if d < count then cdiv (count - d) S else 0
  let g := sh.outFirst + d * sh.outStride
  let b0 := sh.kFirst + d * sh.bStep
  let rows := if sh.split then (if mine = 0 then 0 else m.n) else mine
  let nb := if sh.split then mine else B
  let st := S * (if sh.split then sh.bStep else sh.outStride)
  let src := if sh.split then w + blockBytes m.fmt * b0 else w + g * m.stride
  let row0 := if sh.split then 0 else g
  let rb := blockBytes m.fmt * nb
  { sh with extra := true, rows := rows, outFirst := row0, outStride := st
            wAddr := if sh.source then src else base
            wStride := if sh.source then (if sh.split then m.stride else st * m.stride) else rb
            scaleOff := if sh.source then ((w + m.scOff + row0 * B : Nat) : Int) - src else (rows * rb : Nat)
            rmaxOff := if sh.source then ((w + m.rmOff + row0 : Nat) : Int) - src
                       else (rows * rb + (if isMx m.fmt then rows * B else 0) : Nat)
            kFirst := if sh.split then b0 else 0, kBlocks := nb, home := src }

/-- One dealt share and the engine that receives it. -/
structure Dealt where
  engine : Nat
  share : Share

/-- Deal a lost engine's shares of a window to the survivors in rank order from the rank after it (R126);
`used` is what each survivor's slice already holds. -/
def dealWindow (s : State) (lost w : Nat) : List Dealt :=
  let surv := engineList s w
  let S := surv.length
  let after := (surv.filter fun n => decide (n < lost)).length
  let mine := ((s.engine lost).shares.filter fun sh => sh.window == w && decide (0 < sh.rows)).mergeSort
    fun a b => decide (a.matrixId ≤ b.matrixId)
  (mine.foldl (fun (a : Nat × Tab Nat × List Dealt) sh =>
    let count := if sh.split then sh.kBlocks else sh.rows
    let step := (List.range (min S count)).foldl (fun (b : Tab Nat × List Dealt) d =>
      let n := surv.getD ((a.1 + d) % S) 0
      let u := tget (usedBytes s n w) b.1 n
      let x := dealtShare sh S d (windowBase s w n + u)
      (tins (tdel b.1 n) n (u + x.packed), b.2 ++ [⟨n, x⟩])) a.2
    ((a.1 + count) % S, step)) (after % (if S = 0 then 1 else S), [], [])).2.2

/-- Dealt shares fit: the window's ways hold them and no share store overflows (R128). -/
def dealFits (s : State) (w : Nat) (ds : List Dealt) : Bool :=
  let quota := match windowNo s w with
    | some r => r.ways * mib
    | none => 0
  (engineList s w).all fun n =>
    let mine := ds.filter fun d => d.engine == n
    decide (usedBytes s n w + (mine.map fun d => d.share.packed).sum ≤ quota) &&
    decide ((s.engine n).shares.length + mine.length ≤ 2048)

/-- Write the dealt shares of a window; restaging after a loss runs at class 0 (Table 12-7). -/
def applyDeal (s : State) (ds : List Dealt) : State :=
  ds.foldl (fun s d =>
    copyShare (s.updEngine d.engine fun e => { e with shares := e.shares ++ [d.share] }) 0 d.share) s

/-! ### What an engine reads -/

/-- A line as an engine's weight port or its half's channels give it, past the slice cache (R112, R123, R220). Bytes that
a retire has left without a value are free (log 27). -/
def portLine (s : State) (a : Nat) : List Byte :=
  match place a with
  | .aperture sl off =>
    match apertureHome s sl off with
    | some h =>
      let l := (s.slice sl).line h.set (h.way.getD 0)
      (List.range 256).map fun i => if l.valid.testBit i then mget l.data i else Config.freeByte (s.freeCtr + i)
    | none => List.replicate 256 0#8
  | .bonded ch _ =>
    match bondedLine s ch (a / 256) with
    | .ok b => overlay b (queuedWrites (s.bc ch) (a / 256))
    | .error _ => List.replicate 256 0#8
  | _ => List.replicate 256 0#8

/-- Bytes of weights as an engine reads them: its slice's SRAM, or bonded DRAM. -/
def weightBytes (s : State) (a n : Nat) : List Byte :=
  (linePieces a n).flatMap fun pc => slice (portLine s pc.1) (pc.1 % 256) pc.2

/-- Ranges of bonded DRAM that an engine reads of a share of source 1: elements, scale codes and row maxima, or for a row
fetch (`only`) the elements and scale codes of its row. -/
def Share.sourceRanges (sh : Share) (only : Option Nat) : List (Nat × Nat) :=
  let bb := blockBytes sh.fmtW
  ((List.range sh.rows).filter fun r => only.all fun g => sh.outRows.getD r 0 == g).flatMap fun r =>
    (if sh.bStep = 1 then [(sh.wAddr + r * sh.wStride, sh.rowB)]
     else (List.range sh.kBlocks).map fun j => (sh.wAddr + r * sh.wStride + bb * (j * sh.bStep), bb)) ++
    (if isMx sh.fmtW then
      (sh.at_ sh.scaleOff + r * sh.srcStep * (sh.kTotal / 32), sh.kTotal / 32) ::
        (if only.isNone then [(sh.at_ sh.rmaxOff + r * sh.srcStep, 1)] else [])
     else [])

/-- The lines of bonded DRAM that an engine reads of its shares. -/
def sourceLines (shs : List Share) (only : Option Nat) : List Nat :=
  ((shs.filter (·.source)).flatMap fun sh => (sh.sourceRanges only).flatMap fun r => (linePieces r.1 r.2).map fun p => p.1 / 256).eraseDups

/-- Read the lines an engine needs of bonded DRAM, in its launch's class (R123, Table 12-7): charged and counted at their
channels, with what the `bad`-th of them meets; the Bool says that every one came. -/
def readSources (s : State) (cls : Nat) (ls : List Nat) (bad : Option (Nat × BcEv)) : Bool × State :=
  ((List.range ls.length).zip ls).foldl (fun (a : Bool × State) p =>
    let c := (channelOf (256 * p.2)).2
    if !a.2.inService 4 c then (false, a.2)
    else
      let ev := match bad with
        | some b => if b.1 = p.1 then b.2 else .ok
        | none => .ok
      let r := bondedTake (chargeCtl a.2 false c cls) c p.2 cls ev
      (a.1 && r.1.isSome, r.2)) (true, s)

/-- The limits of Palm engines let one read these lines in a class (R258, kind 0x1). -/
def sourcesAllowed (s : State) (cls : Nat) (ls : List Nat) : Bool :=
  ls.all fun L =>
    let c := (channelOf (256 * L)).2
    decide (0 < (limitsOf s 1 cls).getD (heldCode s 1 (memCtl false c) (s.bc c).codes cls) 0)

/-- Where the bytes of a line of an engine's slice come from: offset in the line, home address, length. -/
def lineSources (e : Engine) (A : Nat) : List (Nat × Nat × Nat) :=
  (e.shares.filter fun sh => !sh.source).flatMap fun sh => sh.parts.filterMap fun p =>
    let d := sh.wAddr + p.2.1
    let lo := max d A
    let hi := min (d + p.2.2) (A + 256)
    if lo < hi then some (lo - A, p.1 + (lo - d), hi - lo) else none

/-- Home ranges of the bytes of a line of an engine's slice. -/
def lineHomes (s : State) (n A : Nat) : List (Nat × Nat) := (lineSources (s.engine n) A).map fun p => (p.2.1, p.2.2)

/-- The lines of a slice's aperture that shares of source 0 lie in. -/
def packedLines (shs : List Share) : List Nat :=
  ((shs.filter fun sh => decide (0 < sh.packed)).flatMap fun sh =>
    (List.range ((sh.wAddr + sh.packed + 255) / 256 - sh.wAddr / 256)).map fun i => 256 * (sh.wAddr / 256 + i)).eraseDups

/-- Lines of shares in an engine's slice that are poisoned. -/
def poisonedShares (s : State) (n : Nat) (shs : List Share) : List Nat :=
  (packedLines shs).filter fun A => (apertureHome s n (A % 0x1000000)).any fun h =>
    ((s.slice n).line h.set (h.way.getD 0)).poison

/-- Before ranges are read: the host's lines of every one are recalled or invalidated (R270); the Bool says that the reads may
go on. -/
def snoopRanges (s : State) (cls : Nat) (rs : List (Nat × Nat)) : Bool × State :=
  rs.foldl (fun (a : Bool × State) r =>
    let x := snoopRead a.2 cls r.1 r.2
    (a.1 && x.1, x.2)) (true, s)

/-- A line of an engine's slice is read again from its home and written back, a write like any other for its filter entry
(R129, R232): the Bool says that every byte came. -/
def rewriteLine (s : State) (n A cls : Nat) : Bool × State :=
  let r := (lineSources (s.engine n) A).foldl (fun (a : Bool × List (Nat × Byte) × State) p =>
    match devRead (snoopRead a.2.2 cls p.2.1 p.2.2).2 true cls p.2.1 p.2.2 with
    | (.ok b, s) => (a.1, a.2.1 ++ offsets p.1 b, s)
    | (.error _, s) => (false, a.2.1, s)) (true, [], s)
  match apertureHome r.2.2 n (A % 0x1000000) with
  | none => (r.1, r.2.2)
  | some h => (r.1, r.2.2.updSlice n fun sl =>
      let way := h.way.getD 0
      let sl := undead sl (h.backing / 256)
      let l := sl.line h.set way
      sl.setLine h.set way { l with poison := false, data := r.2.1.foldl (fun m w => mput m w.1 w.2) l.data
                                    valid := r.2.1.foldl (fun v w => setBit v w.1) l.valid })

/-- An engine reads a source-0 line again from its home and writes it back into its slice: counted, a fault with the line's
address (R129). The Bool says that every byte came. -/
def refetchLine (s : State) (n A cls : Nat) : Bool × State :=
  let r := rewriteLine s n A cls
  let s := r.2.updEngine n fun e => { e with refetches := satInc 16 e.refetches }
  (r.1, faultEvent s { cls := 3, source := 6, stream := 0xFF, unitType := 3, unitId := n, reason := 9, detail := A })

end Sys2Proof.Machine
end

