-- ==== Sys2Proof/Machine/PalmCalc.lean ====
section
/-! DEFINITION. A Palm launch's descriptor (Table 6-4) and what it computes from its vectors and weights: partials, the
combining of R124 and R125, argmax and row fetches (6.5). -/

namespace Sys2Proof.Machine

/-- A Palm descriptor (Table 6-4). -/
structure PalmDesc where
  kind : Nat
  v : Nat
  token : Nat
  fx : Nat
  fo : Nat
  op : Nat
  id : Nat
  window : Nat
  given : Bool
  x : Nat
  xSc : Nat
  xRm : Nat
  out : Nat
  outSc : Nat
  xStr : Nat
  oStr : Nat
  row : Nat
deriving DecidableEq, Repr

/-- Read a Palm descriptor's fields. -/
def parsePalm (b : List Byte) : PalmDesc :=
  let b1 := rd b 1 1
  let b2 := rd b 2 1
  { kind := rd b 0 1, v := b1 % 16, token := fld b1 6 4, fx := b2 % 16, fo := b2 / 16, op := rd b 3 1 % 16, id := rd b 4 2,
    window := rd b 6 1, given := bit (rd b 7 1) 0, x := rd b 8 4, xSc := rd b 0xC 4, xRm := rd b 0x10 4,
    out := rd b 0x14 4, outSc := rd b 0x18 4, xStr := rd b 0x1C 2, oStr := rd b 0x1E 2, row := rd b 0x20 4 }

/-- An engine's shares of a matrix of a window. -/
def Engine.sharesOf (e : Engine) (w id : Nat) : List Share := e.shares.filter fun sh => sh.window == w && sh.matrixId == id

/-- Every share of a launch's matrix, by engine in ascending slice number. -/
def palmShares (s : State) (d : PalmDesc) : List (Nat × Share) :=
  (engineList s d.window).flatMap fun n => ((s.engine n).sharesOf d.window d.id).map fun sh => (n, sh)

/-! ### What a launch computes -/

/-- Vector `i` of a launch. -/
def PalmDesc.vec (d : PalmDesc) (lm : Mem) (k i : Nat) : OpRow :=
  opRow lm d.fx d.x d.xStr d.xSc (k / 32) 0 k d.given d.xRm i

/-- The blocks of an operand row that a share multiplies; its anchor stays the whole row's (R124). -/
def OpRow.select (o : OpRow) (bl : List Nat) : OpRow :=
  { o with elems := bl.flatMap fun b => (o.elems.drop (32 * b)).take 32
           scales := if o.scales.isEmpty then [] else bl.map fun b => o.scales.getD b 127 }

/-- Accumulators of a share for one vector: output row, window exponent, accumulator. -/
def shareAccs (s : State) (sh : Share) (x : OpRow) : List (Nat × Int × Acc) :=
  let y := x.select sh.blocks
  (List.range sh.rows).zip sh.outRows |>.map fun p =>
    let w := sh.row (weightBytes s) p.1
    (p.2, windowExp w.fmt y.fmt (anchorOf w.rmax y.rmax), dotRow {} w y)

/-- One more engine's partial of an output (R86): where its window, and so its anchor, is another than the first's, the
total is nan and nan_gen. -/
def joinPartial (fam : Nat) (w : Int) (a : Acc) (p : Nat × Int × Acc) : Acc :=
  if p.2.1 = w then Acc.combine fam a p.2.2 else { a with nan := true, nanGen := true }

/-- Combine the partials of a reduction split by output row (R86, R124); the order does not change the total
(R87). -/
def combineRows (fam n : Nat) (parts : List (Nat × Int × Acc)) : List (Nat × Int × Acc) :=
  (List.range n).map fun j =>
    let mine := parts.filter fun p => p.1 == j
    let w := ((mine.head?).map (·.2.1)).getD 0
    (j, w, mine.foldl (joinPartial fam w) {})

/-- The outputs of a launch for one vector before rounding: pieces of consecutive work, each with the engines that
report its flags. A row split gives one piece per share, a reduction split one for all. -/
def palmPieces (s : State) (shs : List (Nat × Share)) (x : OpRow) : List (List Nat × List (Nat × Int × Acc)) :=
  match shs.head? with
  | none => []
  | some (_, h) =>
    if h.split then
      [((shs.map (·.1)).eraseDups, combineRows (family h.fmtW) h.nTotal (shs.flatMap fun p => shareAccs s p.2 x))]
    else (shs.filter fun p => decide (0 < p.2.rows)).map fun p => ([p.1], shareAccs s p.2 x)

/-- Pieces regrouped by blocks of 32 output rows, which an MX target takes whole: dealt rows of a block may stand in
several engines (R127). -/
def byBlocks (n : Nat) (ps : List (List Nat × List (Nat × Int × Acc))) : List (List Nat × List (Nat × Int × Acc)) :=
  let rows := ps.flatMap (·.2)
  (List.range (cdiv n 32)).map fun b =>
    (((ps.filter fun p => p.2.any fun r => r.1 / 32 == b).flatMap (·.1)).eraseDups,
     (List.range 32).filterMap fun i => rows.find? fun r => r.1 == 32 * b + i)

/-- What a launch writes and reports: local-memory writes, and flags by engines. -/
abbrev PalmOut := List (Nat × List Byte) × List (List Nat × Nat)

/-- Op 0x0: the outputs of one piece of vector `i`. -/
def matvecPiece (d : PalmDesc) (n i : Nat) (p : List Nat × List (Nat × Int × Acc)) : PalmOut :=
  let o := writeRow d.fo (p.2.map fun r => (r.2.1, r.2.2))
  let base := d.out + i * d.oStr
  let first := (p.2.head?.map (·.1)).getD 0
  let ws := if isMx d.fo then
      [(base + rowBytes d.fo first, o.bytes), (d.outSc + i * cdiv n 32 + first / 32, o.scales)]
    else
      let sz := rowBytes d.fo 1
      (List.range p.2.length).zip p.2 |>.map fun q => (base + sz * q.2.1, slice o.bytes (sz * q.1) sz)
  (ws, [(p.1, o.flags)])

/-- Does the first of two values win the argmax: NaN below −∞, else the larger value, then the lower row (R125)? -/
def beats (a b : Val × Nat) : Bool :=
  let rank := fun (v : Val) => match v with
    | .nan => 0
    | .inf true => 1
    | .fin .. => 2
    | .inf false => 3
  if rank a.1 ≠ rank b.1 then decide (rank b.1 < rank a.1)
  else match a.1, b.1 with
    | .fin .., .fin .. =>
      if b.1.dy.lt a.1.dy then true else if a.1.dy.lt b.1.dy then false else decide (a.2 < b.2)
    | _, _ => decide (a.2 < b.2)

/-- Op 0x1: the record of vector `i`. -/
def argmaxVec (d : PalmDesc) (i : Nat) (ps : List (List Nat × List (Nat × Int × Acc))) : PalmOut :=
  let all := ps.flatMap (·.2)
  let best := all.foldl (fun (b : Option (Nat × Int × Acc)) r =>
    match b with
    | none => some r
    | some q => if beats (r.2.2.value r.2.1, r.1) (q.2.2.value q.2.1, q.1) then some r else some q) none
  let es := (ps.flatMap (·.1)).eraseDups
  let put := fun (row val : Nat) => [(d.out + i * d.oStr, leBytes 4 row ++ leBytes 4 val)]
  match best with
  | none => ([], [])
  | some r =>
    match r.2.2.value r.2.1 with
    | .nan => (put 0xFFFFFFFF 0x7FC00000, [(es, all.foldl (fun f q => f ||| q.2.2.flags) 0)])
    | v => let c := roundOut 0 v; (put r.1 c.1, [(es, r.2.2.flags ||| c.2)])

/-- Op 0x2: the row as stored. -/
def fetchRow (s : State) (d : PalmDesc) (shs : List (Nat × Share)) : PalmOut :=
  match shs.findSome? fun p => (List.range p.2.rows).findSome? fun r =>
      if p.2.outRows.getD r 0 = d.row then some (p.2, r) else none with
  | none => ([], [])
  | some (sh, r) =>
    ([(d.out, sh.elemBytes (weightBytes s) r)] ++
      (if isMx sh.fmtW then [(d.outSc, sh.scaleCodes (weightBytes s) r)] else []), [])

/-- Everything a launch without a cause writes and reports, its vectors read from `lm`. -/
def palmRun (s : State) (d : PalmDesc) (lm : Mem) : PalmOut :=
  let shs := palmShares s d
  let k := (shs.head?.map (·.2.kTotal)).getD 0
  let n := (shs.head?.map (·.2.nTotal)).getD 0
  if d.op = 2 then fetchRow s d shs
  else
    let rs := (List.range d.v).map fun i =>
      let ps := palmPieces s shs (d.vec lm k i)
      if d.op = 1 then argmaxVec d i ps
      else
        let o := (if isMx d.fo then byBlocks n ps else ps).map (matvecPiece d n i)
        (o.flatMap (·.1), o.flatMap (·.2))
    (rs.flatMap (·.1), rs.flatMap (·.2))

end Sys2Proof.Machine
end

