-- ==== Sys2Proof/Machine/Async.lean ====
section
/-! DEFINITION. The asynchronous family (8.6): issue of descriptors and launches, WAIT, and the running of
matrix, element-wise and DMA descriptors (5.5, 5.8). -/

namespace Sys2Proof.Machine

/-! ### Issue -/

/-- Address of the descriptor an issue names (Table 8-6). -/
def descAddr (x : Group) (w : Nat) : Nat := (x.rdN (fRd w) 0 1 + fld w 35 16) % 2 ^ 32

/-- The 64 bytes lie in local memory on a 64-byte boundary (R119). -/
def descPlaceOk (a : Nat) : Bool := decide (a % 64 = 0) && decide (a + 64 ≤ 0x100000)

/-- The descriptor's own bytes meet an uncorrectable error. -/
def descBad : Ecc → Bool
  | .lmUncorrectable _ => true
  | _ => false

/-- Count an issue on its token and go on. -/
def issued (s : State) (c g k : Nat) : State :=
  s.updGrp c g fun x => (x.setToken k { x.token k with count := (x.token k).count + 1 }).next

/-- The bytes at an address of a core's local memory. -/
def lmBytes (s : State) (c a n : Nat) : List Byte := mread (s.core c).lm a n

/-- Issue a descriptor that `check` passes (R99): `tok` finds its token, `put` places it in its queue of `depth`
entries. An address that is not a multiple of 64 in local memory ends in cause 0x07 before any other check; chapter 6 says so
of PALM.ISSUE, of the others it is the model's choice (log 21). An issue that stalls for room reads and checks its descriptor
anew when it is tried again, so what the bytes are then decides (the model's choice; log 21). -/
def issueDesc (tok : List Byte → Nat) (check : List Byte → Nat → Option Nat) (palm : Bool) (depth : Core → Nat) (put : Core → QEnt → Core) :
    Body := fun s c g w ecc =>
  let x := s.grp c g
  let a := descAddr x w
  let bytes := lmBytes s c a 64
  let k := tok bytes
  let cause := if !descPlaceOk a then some 7
    else if palm then none
    else (check bytes (4096 * (s.core c).codeBase)).orElse fun _ => if descBad ecc then some 0x20 else none
  match cause with
  | some e => descTrap s c g 2 e
  | none =>
    let s := lmEcc s c ecc
    if 16 ≤ depth (s.core c) ∨ 15 ≤ (x.token k).count then stallRetry s c g
    else issued (s.updCore c fun co => put co { grp := g, bytes := bytes, palm := palm, bad := palm && descBad ecc }) c g k

/-- The token of a DMA descriptor or a launch (Tables 5-5 and 6-4). -/
def tokenAt1 (b : List Byte) : Nat := fld (rd b 1 1) 6 4

/-- The effect of MX.ISSUE; the token stands in byte 3 (Table 5-2). -/
def bodyMxIssue : Body :=
  issueDesc (fun b => fld (rd b 3 1) 6 4) checkMx false (fun co => co.mq.length) fun co e => { co with mq := co.mq ++ [e] }
/-- The effect of DMA.ISSUE. -/
def bodyDmaIssue : Body :=
  issueDesc tokenAt1 checkDma false (fun co => co.dq.length) fun co e => { co with dq := co.dq ++ [e] }
/-- The effect of PALM.ISSUE: only the address is checked (R119). -/
def bodyPalmIssue : Body :=
  issueDesc tokenAt1 (fun _ _ => none) true (fun co => co.dq.length) fun co e => { co with dq := co.dq ++ [e] }

/-- Issue MX.ISSUE. -/
def execMxIssue (c : Fin 272) (g : Fin 16) (ecc : Ecc) (s : State) : Host.Outcome State Fault Refusal :=
  .next (issueAs 0x60 c g ecc s bodyMxIssue)
/-- Issue DMA.ISSUE. -/
def execDmaIssue (c : Fin 272) (g : Fin 16) (ecc : Ecc) (s : State) : Host.Outcome State Fault Refusal :=
  .next (issueAs 0x61 c g ecc s bodyDmaIssue)
/-- Issue PALM.ISSUE. -/
def execPalmIssue (c : Fin 272) (g : Fin 16) (ecc : Ecc) (s : State) : Host.Outcome State Fault Refusal :=
  .next (issueAs 0x62 c g ecc s bodyPalmIssue)

/-! ### WAIT (R167) -/

/-- The tokens of a mask. -/
def tokensOf (m : Nat) : List Nat := (List.range 8).filter fun k => bit m k

/-- Every named count reads zero. -/
def countsZero (x : Group) (m : Nat) : Bool := (tokensOf m).all fun k => (x.token k).count == 0

/-- The counts have reached zero: WAIT writes rd, clears the tokens and retires; an error bit leaves the
descriptor error for the next instruction, with the lowest such token (R167, R103). -/
def finishWait (x : Group) (sel m : Nat) : Group :=
  let ts := tokensOf m
  let fl := ts.foldl (fun f k => f ||| (x.token k).flags) 0
  let er := ts.filter fun k => (x.token k).err
  let v := fl % 16 + 16 * b2n (!er.isEmpty) + 256 * er.foldl setBit 0
  let y := ts.foldl (fun y k => y.setToken k {}) x
  { (y.wrN sel 0 1 v).next with pend := er.head?.map fun k => (k, (x.token k).why) }

/-- The effect of WAIT. -/
def bodyWait : Body := fun s c g w _ =>
  let m := fld w 23 16
  s.updGrp c g fun x =>
    if bit w 24 then
      (x.wrN (fRd w) 0 1 (((tokensOf m).filter fun k => (x.token k).count != 0).foldl setBit 0)).next
    else if countsZero x m then finishWait x (fRd w) m
    else { x with stall := .tokens (fRd w) m }

/-- Issue WAIT. -/
def execWait (c : Fin 272) (g : Fin 16) (ecc : Ecc) (s : State) : Host.Outcome State Fault Refusal :=
  .next (issueAs 0x63 c g ecc s bodyWait)

/-- The stall of a WAIT ends where its counts read zero. -/
def endWait (x : Group) : Group :=
  match x.stall with
  | .tokens sel m => if countsZero x m then finishWait x sel m else x
  | _ => x

/-- WAIT_COMPLETE: a stalled WAIT whose counts have reached zero retires. -/
def execWaitComplete (c : Fin 272) (g : Fin 16) (s : State) : Host.Outcome State Fault Refusal :=
  .next (if (s.grp c g).st = .running then s.updGrp c g endWait else s)

/-! ### Writes of others under way (R101) -/

/-- What the matrix-queue descriptors under way write or have written, though it is not yet visible. -/
def comingMx (s : State) (c : Nat) : List (Nat × Byte) :=
  (s.core c).mxRun.flatMap fun r =>
    let d := parseMx r.ent.bytes
    byteWrites (d.run (mixMem r.seen (s.core c).lm s.freeCtr).1 d.m).1

/-- What the DMA transfer into local memory under way writes or has written. -/
def comingDma (s : State) (c : Nat) : List (Nat × Byte) :=
  (s.core c).dmaRun.flatMap fun r =>
    let d := parseDma r.ent.bytes
    if d.out then []
    else byteWrites ((List.range (r.cut.getD d.rows)).map fun i => (d.loc + i * d.locStr, devPeek s (d.dev + i * d.devStr) d.rowBytes))

/-- What the core's started launches write or have written, but for launch `but`. -/
def comingLaunches (s : State) (c : Nat) (but : Option Nat) : List (Nat × Byte) :=
  (s.launches.filter fun e => e.2.core == c && e.2.cause == 0 && !e.2.started.isEmpty && some e.1 != but).flatMap fun e =>
    byteWrites (palmRun s (parsePalm e.2.bytes) (mixMem e.2.seen (s.core c).lm s.freeCtr).1).1

/-! ### Matrix-queue descriptors -/

/-- Kind and mode of a queued descriptor. -/
def QEnt.shape (e : QEnt) : Nat × Nat := ((parseMx e.bytes).kind, (parseMx e.bytes).mode)

/-- Ticks that cycles of a cluster take at least: at 2.5 GHz, which no fitted clock exceeds (R51, R90). -/
def cycleTicks (n : Nat) : Nat := cdiv (2 * n) 5

/-- A fragment instruction occupies A0 (R109): the cycles of Table 5-4 have not passed since its issue (log 23). -/
def a0Busy (s : State) (c : Nat) : Bool := decide (s.now < (s.core c).a0Free)

/-- A fragment instruction takes A0 for its cycles (Table 5-4), after those before it. -/
def takeA0 (s : State) (c cycles : Nat) : State :=
  s.updCore c fun co => { co with a0Free := max s.now co.a0Free + cycleTicks cycles }

/-- A matrix-queue descriptor with A0 in its mask occupies it (R94, R109): the one started last, whose start ended the occupancy
of those before it (R96), until its own cycles have passed (log 23). -/
def a0Desc (s : State) (c : Nat) : Bool :=
  (s.core c).mxRun.getLast?.any fun r =>
    let d := parseMx r.ent.bytes
    bit d.mask 0 && decide (s.now < r.since + cycleTicks d.busy)

/-- DESCRIPTOR_START: the head of the matrix queue starts (R96, R100, R109). -/
def execDescriptorStart (c : Fin 272) (s : State) : Host.Outcome State Fault Refusal :=
  let co := s.core c
  match co.mq with
  | [] => .next s
  | e :: es =>
    let d := parseMx e.bytes
    if !s.coreRuns c then .next s
    else if co.lastKind.any (· != e.shape) && !co.mxRun.isEmpty then .next s
    else if bit d.mask 0 && a0Busy s c then .next s
    else .next (s.setCore c { co with mq := es, mxRun := co.mxRun ++ [{ ent := e, since := s.now }], lastKind := some e.shape,
                                      mode := if d.ew then co.mode else d.mode })

/-- An uncorrectable local-memory error met by a descriptor or launch is reported (R103, Table 18-2); `code` is a launch's cause
of Table 6-5 (R363). -/
def descEvent (s : State) (c g : Nat) (code : Nat := 0) : State :=
  faultEvent s { cls := 3, source := 5, code := code, unitType := 2, unitId := c, stream := (((s.grp c g).req).map (·.1)).getD 0xFF,
                 reason := 9 }

/-- DESCRIPTOR_COMPLETE: the oldest running descriptor's writes become visible, its flags go to its token and
CORE_NUMFLAGS, and its count falls (R102). `stopRow` is the row at which an uncorrectable operand error stopped
it (R103). -/
def execDescriptorComplete (c : Fin 272) (stopRow : Option Nat) (s : State) : Host.Outcome State Fault Refusal :=
  let co := s.core c
  match co.mxRun with
  | [] => .next s
  | r :: rs =>
    if s.coreHeld c then .next s else
    let d := parseMx r.ent.bytes
    let mx := mixMem (r.seen ++ comingDma s c ++ comingLaunches s c none) co.lm s.freeCtr
    let o := d.run mx.1 (stopRow.getD d.m)
    let s := { s with freeCtr := mx.2 }
    let s := s.setCore c { co with mxRun := rs, perfDesc := (co.perfDesc + 1) % 2 ^ 32,
                                   perfBusy := (co.perfBusy + d.busy) % 2 ^ 32 }
    let s := orFlags (landLm s c r.seen o.1) c o.2
    let s := if stopRow.isSome then descEvent s c r.ent.grp else s
    .next (tokenDone s c r.ent.grp d.token o.2 stopRow.isSome 9)

/-! ### DMA -/

/-- DMA_START: the head of the DMA queue starts where it is a DMA descriptor and the engine is free. -/
def execDmaStart (c : Fin 272) (s : State) : Host.Outcome State Fault Refusal :=
  let co := s.core c
  match co.dq with
  | [] => .next s
  | e :: es =>
    if e.palm || !co.dmaRun.isEmpty || !s.coreRuns c then .next s
    else .next (s.setCore c { co with dq := es, dmaRun := [{ ent := e }] })

/-- Reason a bus error's detail gives a request (R150). -/
def busReason (detail : Nat) : Nat := if detail = 2 then 9 else if detail = 1 then 8 else 3

/-- Move the rows of a DMA descriptor from row `i` on, stopping at the first bus error: its reason, if any. `lm` is what it
reads of local memory, `seen` what others wrote meanwhile. -/
def dmaRows (c cls : Nat) (d : DmaDesc) (lm : Mem) (seen : List (Nat × Byte)) : Nat → Nat → State → Option Nat × State
  | 0, _, s => (none, s)
  | n + 1, i, s =>
    let dev := (d.dev + i * d.devStr)
    let loc := d.loc + i * d.locStr
    if d.out then
      match devStore s false cls dev (mread lm loc d.rowBytes) with
      | (some e, s) => (some (busReason e), s)
      | (none, s) => dmaRows c cls d lm seen n (i + 1) s
    else
      match devRead s false cls dev d.rowBytes (some (clusterOf c)) with
      | (.error e, s) => (some (busReason e), s)
      | (.ok b, s) => dmaRows c cls d lm seen n (i + 1) (landLm s c seen [(loc, b)])

/-- Before a DMA read: the host's listed lines of every row are recalled or invalidated (R270). -/
def dmaSnoop (d : DmaDesc) (cls : Nat) (s : State) : Bool × State :=
  (List.range d.rows).foldl (fun (a : Bool × State) i =>
    let r := snoopRead a.2 cls (d.dev + i * d.devStr) d.rowBytes
    (a.1 && r.1, r.2)) (true, s)

/-- The limits of the cluster let a DMA descriptor's requests go, and no Cuff holds one (R258, R314): it waits whole (log 52). -/
def dmaAllowed (d : DmaDesc) (cls : Nat) (s : State) : Bool × State :=
  (List.range d.rows).foldl (fun (a : Bool × State) i =>
    if a.1 then mayAccess a.2 0 cls (d.dev + i * d.devStr) d.rowBytes d.out else a) (true, s)

/-- DMA_COMPLETE: every byte has been moved and accepted; the descriptor completes under R102, or with its
token's error bit under R103, also where R320 has answered one of its requests. `lmRow` is the row whose local bytes met an uncorrectable error; the rows before it are moved. -/
def execDmaComplete (c : Fin 272) (lmRow : Option Nat) (s : State) : Host.Outcome State Fault Refusal :=
  let co := s.core c
  match co.dmaRun with
  | [] => .next s
  | r :: rs =>
    let d := parseDma r.ent.bytes
    let cls := s.coreClass c
    let al := dmaAllowed d cls s
    let sn := if d.out then (true, al.2) else dmaSnoop d cls al.2
    if !al.1 then .next al.2
    else if !sn.1 then .next sn.2
    else
      let mx := mixMem (r.seen ++ if d.out then comingMx s c ++ comingLaunches s c none else []) co.lm s.freeCtr
      let lost := if d.out then lmRow.filter fun k => decide (k < r.cut.getD d.rows) else none
      let stop := lost.orElse fun _ => r.cut
      let s := { sn.2 with freeCtr := mx.2 }.updCore c fun co => { co with dmaRun := rs, perfDesc := (co.perfDesc + 1) % 2 ^ 32 }
      let res := dmaRows c cls d mx.1 r.seen (stop.getD d.rows) 0 s
      let res := if res.1.isSome then res
        else if lost.isSome then (some 9, descEvent res.2 c r.ent.grp)
        else (r.cut.map fun _ => busReason 1, res.2)
      .next (tokenDone res.2 c r.ent.grp d.token 0 res.1.isSome (res.1.getD 0))

end Sys2Proof.Machine
end

