-- ==== Sys2Proof/Machine/HostPath.lean ====
section
/-! DEFINITION. The host's way into the module (13.1 to 13.6): when its accesses are let in (R286, R308), its BAR writes
under R264, CXL.mem accesses through the HDM firewall (R267) and the write path of the rings (R273), and the host link's own
queue (R283). -/

namespace Sys2Proof.Machine

/-! ### When the host is let in (R286, R308) -/

/-- IDE is required and not established (R286). -/
def ideBlocked (s : State) : Bool := s.hlk.ide == 1 || s.hlk.ide == 3

/-- Both IDEs are established: each has a key in force in each direction (R286). -/
def ideKeyed (s : State) : Bool :=
  [(IdeKind.io, false), (.io, true), (.cachemem, false), (.cachemem, true)].all fun k =>
    s.hlk.keys.any fun x => x.active && x.ide.kind == k.1 && x.ide.dir == k.2

/-- HLK_STATUS.ide without an integrity failure (13.8). -/
def ideState (s : State) : Nat := if s.sec.op.state = 0 then 0 else if ideKeyed s then 2 else 1

/-- Host accesses reach the module's own space: the link is up, the module is ready (R308), and IDE does not stop them
(R286). -/
def hostOpen (s : State) : Bool := s.boot.ready && !ideBlocked s

/-- A write discarded under R263 or R264. -/
def dropCtl (s : State) : State := { s with hlk := { s.hlk with dropCtl := satInc 16 s.hlk.dropCtl } }

/-- Ticks of the last 100,000. -/
def recent (s : State) (ts : List Nat) : List Nat := ts.filter fun t => decide (s.now < t + 100000)

/-- A BAR write of the host, unless the link is down, the module answers unsupported request (R286, R308), or the write
is beyond R264. -/
def barWrite (s : State) (f : State → State) : State :=
  let ts := recent s s.hlk.barTicks
  if !s.hlk.up then s
  else if !hostOpen s then s.emit .unsupported
  else if ts.length < 4096 then f { s with hlk := { s.hlk with barTicks := ts ++ [s.now] } }
  else hlkEvent (dropCtl s) 3

/-! ### CXL.mem accesses (R267, R269, R270) -/

/-- An access that the firewall blocked, in whole or in part: counted once, and fw_block (R267). -/
def fwBlocked (s : State) (write : Bool) : State :=
  let h := s.hlk
  hlkEvent { s with hlk := if write then { h with fwWrites := satInc 16 h.fwWrites }
                           else { h with fwReads := satInc 16 h.fwReads } } 1

/-- The device window that lets a 64-byte line of the HDM range through, with the line's device address. -/
def hdmLine (s : State) (write : Bool) (l : Nat) : Option (HostWin × Nat) :=
  (hdmFind s (64 * l) 64).filter fun w => if write then w.1.hostWrite else w.1.hostRead

/-- The host may hold a line from now on: it is listed, the oldest entry giving way when the directory is full (13.3). -/
def dirEnter (s : State) (l : Nat) : State :=
  if s.hlk.dir.contains l then s
  else
    let s := match s.hlk.dir with
      | [] => s
      | old :: _ => if 262144 ≤ s.hlk.dir.length then dirInvalidate s old else s
    { s with hlk := { s.hlk with dir := s.hlk.dir ++ [l] } }

/-- Read one line for the host: its bytes and its poison (R267). -/
def hostReadLine (s : State) (l : Nat) : (Option (List Byte) × Bool) × State :=
  match hdmLine s false l with
  | none => ((some (List.replicate 64 0#8), true), s)
  | some w =>
    let r := devRead s false w.1.cls w.2 64
    let t := dirEnter r.2 (w.2 / 64)
    match r.1 with
    | .ok b => ((some b, false), t)
    | .error _ => ((none, true), t)

/-- Read lines for the host, in ascending order. -/
def hostReadLines : List Nat → State → List (Option (List Byte) × Bool) × State
  | [], s => ([], s)
  | l :: ls, s =>
    let r := hostReadLine s l
    let t := hostReadLines ls r.2
    (r.1 :: t.1, t.2)

/-- A host read through the firewall (R267): each line is judged alone. -/
def hostRead (s : State) (off len : Nat) : State :=
  let ls := lines64 off len
  let r := hostReadLines ls s
  let t := if ls.all fun l => (hdmLine s false l).isSome then r.2 else fwBlocked r.2 false
  t.emit (.memData r.1)

/-! ### The write path of the rings (R273, R274) -/

/-- A part of a slot. -/
inductive SlotPart where
  /-- The status word. -/
  | status
  /-- Bytes 0x08 to 0xFF. -/
  | body
  /-- The result buffer. -/
  | result
deriving DecidableEq, Repr

/-- The stream, slot and part that a device address belongs to. -/
def partAt (s : State) (a : Nat) : Option (Nat × Nat × SlotPart) :=
  match s.img.running with
  | none => none
  | some im => im.streams.findSome? fun r =>
    let ring := hdmAddr s r.ringBase
    let res := hdmAddr s r.resultBase
    if ring ≤ a ∧ a < ring + 256 * r.ringSlots then
      some (r.id, (a - ring) / 256, if (a - ring) % 256 < 8 then .status else .body)
    else if res ≤ a ∧ a < res + r.ringSlots * r.resultBytes then some (r.id, (a - res) / r.resultBytes, .result)
    else none

/-- What has arrived for the status words of slots takes effect first (R221, R273). -/
def settleSlots (s : State) (ps : List (Nat × Nat)) : State :=
  ps.foldl (fun s p => match resolve s true (slotAddr s p.1 p.2) with
    | .ok h => settleLine s h.slice (h.backing / 256)
    | .error _ => s) s

/-- The status word a slot holds. -/
def heldStatus (s : State) (n slot : Nat) : Nat := rd (devPeek s (slotAddr s n slot) 8) 0 8

/-- The status word a write would leave: the word held, with the written bytes put over it. -/
def leftStatus (s : State) (n slot : Nat) (ws : List (Nat × Byte)) : Nat :=
  let a := slotAddr s n slot
  leNat ((devPeek s a 8).zipIdx.map fun b => ((ws.find? fun w => w.1 == a + b.2).map (·.2)).getD b.1)

/-- A free, pending or final state code, the last two of which a write of zero ends (Table 13-6). -/
def mayFree (st : Nat) : Bool := st == 1 || (decide (5 ≤ st) && decide (st ≤ 8))

/-- Table 13-6 for a status word: held and left. -/
def statusTaken (held left : Nat) : Bool :=
  left == held || (held % 16 == 0 && left == 1) || (mayFree (held % 16) && left == 0)

/-- A part of a write is taken, judged against the state before the write (R273). -/
def partTaken (s : State) (ws : List (Nat × Byte)) (p : Nat × Nat × SlotPart) : Bool :=
  let held := heldStatus s p.1 p.2.1
  match p.2.2 with
  | .status => statusTaken held (leftStatus s p.1 p.2.1 ws)
  | _ => held % 16 == 0

/-- Runs of bytes at adjoining addresses. -/
def runs : List (Nat × Byte) → List (Nat × List Byte)
  | [] => []
  | (a, b) :: t =>
    match runs t with
    | (a', bs) :: r => if a' = a + 1 then (a, b :: bs) :: r else (a, [b]) :: (a', bs) :: r
    | [] => [(a, [b])]

/-- Bytes of a host write land at their homes; a byte with no home is lost. -/
def hostLand (s : State) (cls : Nat) (ws : List (Nat × Byte)) : State :=
  (runs ws).foldl (fun s w => (linePieces w.1 w.2.length).foldl (fun s pc =>
    match resolve s false pc.1 with
    | .error _ => s
    | .ok h => homeWrite s h cls (pc.1 % 256) (slice w.2 (pc.1 - w.1) pc.2)) s) s

/-- The slots whose commit word a write brings (R274). -/
def commits (s : State) (ws : List (Nat × Byte)) (ps : List (Nat × Nat × SlotPart)) : List (Nat × Nat) :=
  (ps.filter fun p => p.2.2 == .status && heldStatus s p.1 p.2.1 != 1 && heldStatus s p.1 p.2.1 % 16 == 0 &&
    leftStatus s p.1 p.2.1 ws == 1).map fun p => (p.1, p.2.1)

/-- A host write with discarded parts is counted once for each ring and once in HLK_DROP.slot, sets hostile, and its
discarded lines are back-invalidated (R273). -/
def discardParts (s : State) (rings lines : List Nat) : State :=
  if lines.isEmpty then s
  else
    let s := rings.foldl (fun s n => s.updStream n fun st => { st with dropped := satInc 16 st.dropped }) s
    let s := hlkEvent { s with hlk := { s.hlk with dropSlot := satInc 16 s.hlk.dropSlot } } 2
    lines.foldl (fun s l => sendSnp { s with hlk := { s.hlk with dir := s.hlk.dir.filter (· != l) } } false l) s

/-- A host write of the bytes that passed the firewall, each run of them with its class. -/
def ringWrite (s : State) (segs : List (Nat × List (Nat × Byte))) : State :=
  let ws := segs.flatMap (·.2)
  let ps := (ws.filterMap fun w => partAt s w.1).eraseDups
  let s := settleSlots s (ps.map fun p => (p.1, p.2.1)).eraseDups
  let bad := ps.filter fun p => !partTaken s ws p
  let lost := fun (w : Nat × Byte) => match partAt s w.1 with
    | some p => bad.contains p
    | none => false
  let made := commits s ws (ps.filter fun p => !bad.contains p)
  let t := segs.foldl (fun t g => hostLand t g.1 (g.2.filter fun w => !lost w)) s
  let t := made.foldl (fun t c => devWrite t (t.streamClass c.1) (slotAddr t c.1 c.2 + 0x28) (leBytes 8 t.now)) t
  discardParts t (bad.map (·.1)).eraseDups ((ws.filter lost).map (·.1 / 64)).eraseDups

/-- The bytes of a write by lines of the HDM range: each permitted line's class and its bytes at their device
addresses. -/
def permitted (s : State) (off : Nat) (bs : List Byte) : List (Nat × List (Nat × Byte)) :=
  (lines64 off bs.length).filterMap fun l =>
    (hdmLine s true l).map fun w =>
      let lo := max off (64 * l)
      let hi := min (off + bs.length) (64 * l + 64)
      (w.1.cls, (slice bs (lo - off) (hi - lo)).zipIdx.map fun b => (w.2 + (lo - 64 * l) + b.2, b.1))

/-- A host write through the firewall (R267) and the write path (R273). -/
def hostWrite (s : State) (off : Nat) (bs : List Byte) : State :=
  let t := ringWrite s (permitted s off bs)
  if (lines64 off bs.length).all fun l => (hdmLine s true l).isSome then t else fwBlocked t true

/-! ### The host link's queue (R258, R283, R314) -/

/-- Device addresses and classes of the lines an access reaches, and of the slots whose status judges it. -/
def hostReach (s : State) (a : HostAcc) : List (Nat × Nat) :=
  match a with
  | .read off len => (lines64 off len).filterMap fun l => (hdmLine s false l).map fun w => (w.2, w.1.cls)
  | .write off bs =>
    let segs := permitted s off bs
    ((lines64 off bs.length).filterMap fun l => (hdmLine s true l).map fun w => (w.2, w.1.cls)) ++
      segs.flatMap fun g => ((g.2.filterMap fun w => partAt s w.1).map fun p => slotAddr s p.1 p.2.1).eraseDups.map
        fun a => (a, g.1)

/-- An access may go to its homes now, or is to be turned away; one that its limit holds counts in REG_CLS_HELD. -/
def hostMay (s : State) (a : HostAcc) : Bool × State :=
  let write := match a with
    | .read .. => false
    | .write .. => true
  if !hostOpen s then (true, s)
  else (hostReach s a).foldl (fun (x : Bool × State) l => if x.1 then mayAccess x.2 3 l.2 l.1 64 write else x) (true, s)

/-- What a line reads as while the module lets nothing in: 64 zero bytes marked poisoned until it is ready (R308), poison
while IDE stops it (R286). -/
def shutLine (s : State) : Option (List Byte) × Bool :=
  (if s.boot.ready then none else some (List.replicate 64 0#8), true)

/-- Serve an access of the host: poisoned reads and discarded writes while the module lets nothing in (R286, R308). -/
def hostServe (s : State) (a : HostAcc) : State :=
  match a with
  | .read off len =>
    if hostOpen s then hostRead s off len else s.emit (.memData ((lines64 off len).map fun _ => shutLine s))
  | .write off bs => if hostOpen s then hostWrite s off bs else s

/-- Serve the accesses that wait at the host link, in their order, as far as nothing holds the first. -/
def hostDrain : List HostAcc → State → State
  | [], s => { s with hlk := { s.hlk with queue := [] } }
  | a :: as, s =>
    let m := hostMay s a
    if m.1 then hostDrain as (hostServe m.2 a) else { m.2 with hlk := { m.2.hlk with queue := a :: as } }

/-- What waits at the host link goes on. -/
def hostGo (s : State) : State := if s.hlk.queue.isEmpty then s else hostDrain s.hlk.queue s

/-- An access of the host arrives: it is served, or waits behind those that wait. -/
def hostAccess (s : State) (a : HostAcc) : State :=
  if !s.hlk.up then s
  else if s.hlk.queue.isEmpty then
    let m := hostMay s a
    if m.1 then hostServe m.2 a else { m.2 with hlk := { m.2.hlk with queue := [a] } }
  else hostGo { s with hlk := { s.hlk with queue := s.hlk.queue ++ [a] } }

/-- HOST_MEM_READ. -/
def execHostMemRead (offset : BitVec 40) (len : Nat) (s : State) : Host.Outcome State Fault Refusal :=
  .next (hostAccess s (.read offset.toNat len))

/-- HOST_MEM_WRITE. -/
def execHostMemWrite (offset : BitVec 40) (bytes : List Byte) (s : State) : Host.Outcome State Fault Refusal :=
  .next (hostAccess s (.write offset.toNat bytes))

end Sys2Proof.Machine
end

