-- ==== Sys2Proof/Machine/Fitting.lean ====
section
/-! DEFINITION. The Fitting (3.2 to 3.4, 3.10): derating, the thermal model, the five checks of Table 3-3 in
exact rational arithmetic, and the refusal record. -/

namespace Sys2Proof.Machine

/-- The fields of a refusal that its check decides (Table 3-4). -/
structure Refused where
  check : Nat
  resource : Nat
  stream : Nat := 0xFF
  unitType : Nat := 0
  unitId : Nat := 0
  demand : Nat
  limit : Nat
deriving DecidableEq, Repr

/-- What the Fitting found for a class-0 stream. -/
structure Fitted where
  id : Nat
  promise : Nat
  margin : Nat
deriving DecidableEq, Repr

/-- An accepted fit: cluster clock code by partition (0xFF without class-0 work), the binding, the promises. -/
structure FitOk where
  clocks : List Nat
  bind : List (Nat × Nat)
  streams : List Fitted
deriving DecidableEq, Repr

/-- What a fit is made against, beside the image: the floor plan, units lost since the fit and units fitted by
unit_type (R62), the binding where one stands, shed streams, and the current and converters available. -/
structure FitIn where
  plan : FloorPlan
  losses : Tab Nat := []
  fitted : Tab Nat := []
  bind : Option (List (Nat × Nat)) := none
  shed : List Nat := []
  lastFenced : Tab Nat := []
  amps : Nat
  converters : Nat
  /-- The checks made: a run-time re-check makes 2 to 5 (R62). -/
  first : Nat := 1
  /-- A run-time re-check (origin 0x10). -/
  runTime : Bool := false

/-! ### Numbers -/

/-- Smallest integer at or above, at least 0. -/
def ceilQ (q : Rat) : Nat := q.ceil.toNat
/-- Greatest integer at or below, at least 0. -/
def floorQ (q : Rat) : Nat := q.floor.toNat
/-- The least of a list; `d` when empty. -/
def minQ (d : Rat) : List Rat → Rat
  | [] => d
  | x :: xs => xs.foldl (fun a b => if b < a then b else a) x
/-- The greatest of a list and zero. -/
def maxQ (l : List Rat) : Rat := l.foldl (fun a b => if a < b then b else a) 0
/-- The clock-domain tolerance (R46). -/
def tol : Rat := 10005 / 10000
/-- The cluster clocks of R51 in GHz, by code. -/
def clockGHz (code : Nat) : Rat :=
  match code with
  | 0 => 5 / 2
  | 1 => 9 / 4
  | 2 => 2
  | 3 => 7 / 4
  | _ => 3 / 2
/-- VCMP set point by clock code (Table 3-8), in V. -/
def setPoint (code : Nat) : Rat :=
  match code with
  | 0 => 85 / 100
  | 1 => 80 / 100
  | 2 => 75 / 100
  | 3 => 70 / 100
  | _ => 65 / 100

/-! ### Binding (R26) -/

/-- Logical clusters of a pass in ascending order. -/
def passRecs (im : Image) (p : Nat) : List Nat :=
  ((im.structs.filter fun r => r.partition == p).map (·.logical)).mergeSort fun a b => decide (a ≤ b)

/-- R26: the binding, or the pass that runs out. -/
def bindClusters (f : FloorPlan) (im : Image) : Except Refused (List (Nat × Nat)) :=
  let free := f.enabled 1
  let step := fun (acc : Except Refused (List (Nat × Nat))) (pass : Nat) =>
    match acc with
    | .error e => Except.error e
    | .ok b =>
      let recs := passRecs im pass
      let av := free.filter fun c => !(b.any fun x => x.2 == c) && (pass == 0xFF || partOfCluster c == pass)
      if av.length < recs.length then
        .error { check := 1, resource := 6, unitId := pass, demand := recs.length, limit := av.length }
      else .ok (b ++ recs.zip av)
  [0, 1, 2, 3, 0xFF].foldl step (.ok [])

/-! ### The image as the Fitting sees it -/

/-- Streams fitted: declared and not shed, in ascending id. -/
def fitStreams (i : FitIn) (im : Image) : List StreamRec :=
  (im.streams.filter fun r => !i.shed.contains r.id).mergeSort fun a b => decide (a.id ≤ b.id)

/-- Physical clusters of a stream under a binding. -/
def fitClusters (im : Image) (b : List (Nat × Nat)) (n : Nat) : List Nat :=
  (im.structs.filter fun r => r.stream == n).filterMap fun r => (b.find? fun x => x.1 == r.logical).map (·.2)

/-- The graph of a stream. -/
def graphAt (im : Image) (r : StreamRec) : Graph := im.graphs.getD r.graph ⟨[], [], none, 1, []⟩

/-- Pointwise combination of demands. -/
def Demand.zip (f : Nat → Nat → Nat) (a b : Demand) : Demand :=
  { compute := f a.compute b.compute, sram := f a.sram b.sram, seam := f a.seam b.seam, bonded := f a.bonded b.bonded,
    lpddr := f a.lpddr b.lpddr, frame := f a.frame b.frame, kvWrites := f a.kvWrites b.kvWrites }

/-- The exact demand of a step on the five resources of R46, in code order, with losses taken in (R62). -/
def stepDemand (i : FitIn) (st : StepRec) : List Rat × Nat :=
  let lost := fun ut => tget 0 i.losses ut
  let d := [1, 2, 3, 4, 5].foldl (fun d ut =>
    if lost ut = 0 then d else d.zip max (st.loss.getD (ut - 1) {})) st.base
  let scale := fun ut : Nat =>
    if 2 ≤ lost ut then
      ((tget 0 i.fitted ut : Nat) : Rat) / ((max 1 (i.plan.enabled ut).length : Nat) : Rat) else 0
  let big := fun (v base : Nat) (uts : List Nat) => maxQ ((v : Rat) :: uts.map fun ut => (base : Rat) * scale ut)
  ([big d.compute st.base.compute [1, 2], big d.sram st.base.sram [3], big d.seam st.base.seam [3],
    big d.bonded st.base.bonded [4], big d.lpddr st.base.lpddr [5]], d.frame)

/-! ### Thermal model (R67, R68) -/

/-- θ(F) of Table 3-8. -/
def theta (f : Rat) : Rat :=
  let seg := fun (a b ta tb : Rat) => ta + (tb - ta) * (f - a) / (b - a)
  if f ≤ 2 then seg (3 / 2) 2 (250 / 1000) (220 / 1000)
  else if f ≤ 5 / 2 then seg 2 (5 / 2) (220 / 1000) (200 / 1000)
  else if f ≤ 3 then seg (5 / 2) 3 (200 / 1000) (186 / 1000)
  else seg 3 4 (186 / 1000) (170 / 1000)

/-- Powers and temperatures at candidate clocks: P_p of each partition in W, P_in, and T_p. -/
structure Heat where
  pp : List Rat
  pin : Rat
  temps : List Rat

/-- Sum of a list. -/
def sumQ (l : List Rat) : Rat := l.foldl (· + ·) 0

/-- R67 at candidate clock codes. The clusters of a shed stream are bound still and not gated, so they draw what its records
say (R326; log 53). -/
def heat (i : FitIn) (im : Image) (b : List (Nat × Nat)) (clocks : List Nat) : Heat :=
  let power := fun (p : Nat) =>
    sumQ (im.streams.map fun r =>
      let n := ((fitClusters im b r.id).filter fun c => partOfCluster c == p && i.plan.get 1 c != 3).length
      let pw := (graphAt im r).power
      let mw := if r.cls = 0 then pw.getD (clocks.getD p 0) 0 else pw.getD 5 0
      (n * mw : Nat) / 1000)
  let pp := (List.range 4).map power
  let total := sumQ pp
  let pin := (total + 330) * 20 / 19
  let flow : Rat := (im.envelope.flowMin : Rat) / 100
  let tin : Rat := (im.envelope.inletMax : Rat) / 10
  { pp := pp, pin := pin,
    temps := pp.map fun q => tin + 151 / 10000 * pin / flow + theta flow * q + (total - q) / 100 }

/-- Partitions with an enabled cluster bound to one of some streams. -/
def boundParts (i : FitIn) (im : Image) (b : List (Nat × Nat)) (rs : List StreamRec) : List Nat :=
  (List.range 4).filter fun p => rs.any fun r =>
    (fitClusters im b r.id).any fun c => partOfCluster c == p && i.plan.get 1 c != 3

/-- Partitions that host class-0 work. -/
def class0Parts (i : FitIn) (im : Image) (b : List (Nat × Nat)) : List Nat :=
  boundParts i im b ((fitStreams i im).filter fun r => r.cls == 0)

/-- R68: lower the clock of every hot class-0 partition until none can be lowered; four steps each at most. -/
def lowerClocks (i : FitIn) (im : Image) (b : List (Nat × Nat)) : Nat → List Nat → List Nat
  | 0, cs => cs
  | k + 1, cs =>
    let h := heat i im b cs
    let hot := (class0Parts i im b).filter fun p => decide (92 < h.temps.getD p 0) && decide (cs.getD p 0 < 4)
    if hot.isEmpty then cs
    else lowerClocks i im b k ((List.range 4).map fun p => if hot.contains p then cs.getD p 0 + 1 else cs.getD p 0)

/-! ### Capacities -/

/-- Bandwidth of a channel in GB/s under Table 3-2; `hot` by half. -/
def channelBw (f : FloorPlan) (hot : List Bool) (ut c : Nat) : Rat :=
  if ut = 4 then
    let g : Rat := if f.get 4 c = 1 then 384 else 768
    if hot.getD (halfOfCh c) false then g * 93 / 100 else g
  else if f.get 5 c = 1 then 256 / 10 else 384 / 10

/-- The rate f(r) of each resource for a stream's step (R46), in code order. -/
def rates (f : FloorPlan) (hot : List Bool) (clock : Rat) : List Rat :=
  [clock, 16 / 10, if (f.enabled 3).any fun n => f.get 3 n == 1 then 8 / 10 else 16 / 10,
   minQ 0 ((f.enabled 4).map (channelBw f hot 4)), minQ 0 ((f.enabled 5).map (channelBw f hot 5))]

/-- The term that decides a step: ns and resource code; ties to the lower code. A demand on a resource with no
unit left takes ticks without end. -/
def stepTerm (d r : List Rat) : Rat × Nat :=
  ([0, 1, 2, 3, 4] : List Nat).foldl (fun (a : Rat × Nat) k =>
    let x := d.getD k 0
    let t : Rat := if x = 0 then 0 else if r.getD k 0 = 0 then ((2 ^ 62 : Nat) : Rat) else x / r.getD k 0
    if a.1 < t then (t, k + 1) else a) (0, 1)

/-- t(s) of R46. -/
def stepTicks (t : Rat) : Nat := ceilQ (tol * (32 / 31) * t)

/-- The compute clock of a stream: the slowest of its partitions, halved by a cluster at half rate (R46). -/
def streamClock (f : FloorPlan) (clocks : List Nat) (cl : List Nat) : Rat :=
  let live := cl.filter fun c => f.get 1 c != 3
  let g := minQ (3 / 2) (live.map fun c => clockGHz (clocks.getD (partOfCluster c) 0))
  if live.any fun c => f.get 1 c == 1 then g / 2 else g

/-- The timing of a class-0 stream: Σ t(s), S, P, and the resource with most ticks. -/
structure Timing where
  sum : Nat
  s : Nat
  p : Nat
  res : Nat

/-- R48 and R54. -/
def timing (i : FitIn) (im : Image) (hot : List Bool) (clocks : List Nat) (b : List (Nat × Nat)) (r : StreamRec) :
    Timing :=
  let rs := rates i.plan hot (streamClock i.plan clocks (fitClusters im b r.id))
  let terms := (graphAt im r).steps.map fun st =>
    let t := stepTerm (stepDemand i st).1 rs
    (t.2, stepTicks t.1 * (if st.perItem then r.maxItems else 1))
  let sum := (terms.map (·.2)).sum
  let by_ := fun k => ((terms.filter fun t => t.1 == k).map (·.2)).sum
  let res := ([1, 2, 3, 4, 5] : List Nat).foldl (fun a k => if by_ a < by_ k then k else a) 1
  let s := sum + 4099
  { sum := sum, s := s, p := r.pollNs + r.rateCount * s, res := res }

/-! ### The checks (Table 3-3) -/

/-- Persistent load of a half in lines (R230). -/
def persistentLoad (f : FloorPlan) (im : Image) (h : Nat) : Nat :=
  (im.windows.map fun w =>
    if w.slocal then
      w.ways * 4096 * ((blockSlots w.firstSlice w.sliceCount).filter fun n => halfOfSlice n == h && f.get 3 n != 3).length
    else if w.persistence = 1 then (if h = 0 then w.quota0 else w.quota1) else 0).sum

/-- persistent cap of a half in lines (R230). -/
def persistentCap (f : FloorPlan) (h : Nat) : Nat :=
  49152 * ((f.enabled 3).filter fun n => halfOfSlice n == h).length

/-- Bytes of a range that lie in the linear region of one channel (Table 12-1). -/
def linearPart (ut c base size : Nat) : Nat :=
  let lo := if ut = 4 then 0x400000000 + c * 0x40000000 else 0x3000000000 + c * 0x180000000
  let hi := lo + (if ut = 4 then 0x40000000 else 0x180000000)
  min hi (base + size) - max lo base

/-- Ranges that must fit in their tier: windows, bundle homes, and the KV agent's records and page tables. -/
def tierRanges (im : Image) : List (Nat × Nat) :=
  im.windows.map (fun w => (w.base, w.size)) ++ im.bundles.map (fun b => (b.home, b.plainSize)) ++
  im.graphs.flatMap fun g =>
    match g.kv with
    | some k => [(k.seqBase, 64 * k.seqMax), (k.ptBase, k.seqMax * k.ptStride)]
    | none => []

/-- The linear part of a range on a fenced channel does not fit (log 29). -/
def rangeCheck (f : FloorPlan) (im : Image) : Option Refused :=
  [4, 5].findSome? fun ut => (List.range 16).findSome? fun c =>
    if f.get ut c ≠ 3 then none
    else (tierRanges im).findSome? fun r =>
      let n := linearPart ut c r.1 r.2
      if n = 0 then none
      else some { check := 1, resource := 6, unitType := ut, unitId := c, demand := r.2, limit := r.2 - n }

/-- Sequences that check 1 counts for a class-0 stream (R203): one, and a draft sequence where the stream drafts, as many as
the layout has (log 55). -/
def fitSequences (k : KvLayout) (r : StreamRec) : Nat := min k.seqMax (if r.specDepth = 0 then 1 else 2)

/-- A pool with no enabled column, or, for class 0, without room for its sequences at max_positions (R199, R203). -/
def poolCheck (f : FloorPlan) (im : Image) (r : StreamRec) : Option Refused :=
  match (graphAt im r).kv with
  | none => none
  | some k => (List.range k.pools.length).findSome? fun j =>
      let p := k.pools.getD j ⟨0, 0, 0, 0, 0, 0, 0⟩
      let cols := ((List.range p.columns).filter fun c => f.get p.unitType (p.firstUnit + c) != 3).length
      let need := fitSequences k r * pagesNeeded k k.maxPositions j
      let bad := fun d l => some ({ check := 1, resource := 6, stream := r.id, unitType := p.unitType,
                                    unitId := p.firstUnit, demand := d, limit := l } : Refused)
      if cols = 0 then bad (max need 1) 0
      else if r.cls = 0 ∧ cols * p.pagesPerCol < need then bad need (cols * p.pagesPerCol)
      else none

/-- Check 1, the binding apart. -/
def check1 (i : FitIn) (im : Image) : Option Refused :=
  (([0, 1] : List Nat).findSome? fun h =>
    if !i.runTime && decide (persistentCap i.plan h < persistentLoad i.plan im h) then
      some ({ check := 1, resource := 6, unitId := h, demand := persistentLoad i.plan im h,
              limit := persistentCap i.plan h } : Refused)
    else none).orElse fun _ =>
  (rangeCheck i.plan im).orElse fun _ => (fitStreams i im).findSome? (poolCheck i.plan im)

/-- The reservation of a class at a controller: one that names the unit replaces one for every unit (R260). -/
def reservation (im : Image) (ut u cls : Nat) : Option Resv :=
  (im.resv.find? fun r => r.unitType == ut && r.cls == cls && r.unitId == u).orElse fun _ =>
    im.resv.find? fun r => r.unitType == ut && r.cls == cls && r.unitId == 0xFFFF

/-- Capacity of a slice's vertical port in GB/s before R50: 512 B read and 256 B write per slice cycle (Table 3-2). A
reservation names no direction, so both count (DEDUCED; log 30). -/
def seamBw (f : FloorPlan) (u : Nat) : Rat :=
  if f.get 3 u = 3 then 0 else if f.get 3 u = 1 then 6144 / 10 else 12288 / 10

/-- Derated capacity of a resource of Table 3-1 at a controller in B/s (R50). -/
def controllerCap (f : FloorPlan) (hot : List Bool) (res ut u : Nat) : Rat :=
  let g : Rat := if res = 3 then seamBw f u else if ut = 3 then (if f.get 3 u = 2 then 0 else 6144 / 10)
    else channelBw f hot ut u
  g * 1000000000 * (31 / 32) / tol

/-- Check 2. -/
def check2 (i : FitIn) (im : Image) (hot : List Bool) : Option Refused :=
  ([(3, 2), (3, 3), (4, 4), (5, 5)] : List (Nat × Nat)).findSome? fun t =>
    (i.plan.enabled t.1).findSome? fun u =>
      let bw := fun c => 1000000 * (((reservation im t.1 u c).map (·.bandwidth)).getD 0)
      let cap := controllerCap i.plan hot t.2 t.1 u
      let all := bw 0 + bw 1 + bw 2 + bw 3
      if all = 0 then none
      else if cap * 85 / 100 < (bw 0 : Rat) then
        some { check := 2, resource := t.2, unitType := t.1, unitId := u, demand := bw 0, limit := floorQ (cap * 85 / 100) }
      else if cap < (all : Rat) then
        some { check := 2, resource := t.2, unitType := t.1, unitId := u, demand := all, limit := floorQ cap }
      else none

/-- Frame reservation of a stream in a partition (Table 3-3). -/
def frameOf (i : FitIn) (im : Image) (b : List (Nat × Nat)) (r : StreamRec) (p : Nat) : Nat :=
  ((graphAt im r).steps.filter fun st => st.blocks.any fun k =>
    (b.find? fun x => x.1 == k.logical).any fun x => partOfCluster x.2 == p).foldl
      (fun m st => max m (stepDemand i st).2) 0

/-- Check 3. -/
def check3 (i : FitIn) (im : Image) (b : List (Nat × Nat)) : Option Refused :=
  (List.range 4).findSome? fun p =>
    let d := (((fitStreams i im).filter fun r => r.cls == 0).map fun r => frameOf i im b r p).sum
    if 7936 < d then some { check := 3, resource := 7, unitId := p, demand := d, limit := 7936 } else none

/-- A stream whose steps use slices beneath a partition other than the one running them: hashing spreads a step's demand on
slices and memory over every partition's (log 30). -/
def crossParts (i : FitIn) (im : Image) (r : StreamRec) : Bool :=
  (graphAt im r).steps.any fun st => ((stepDemand i st).1.drop 1).any fun x => decide (x ≠ 0)

/-- Check 4 for one stream. -/
def check4One (i : FitIn) (im : Image) (r : StreamRec) (t : Timing) : Option Refused :=
  let bad := fun d l => some ({ check := 4, resource := t.res, stream := r.id, demand := d, limit := l } : Refused)
  let need := 33024 * (cdiv t.p 1000000000 + 1)
  if r.rateUs * 1000 < r.rateCount * t.s then bad (r.rateCount * t.s) (r.rateUs * 1000)
  else if r.deadline < t.p then bad t.p r.deadline
  else if crossParts i im r && decide (t.sum < need) then bad need t.sum
  else none

/-- Check 5 (R51, R68). -/
def check5 (i : FitIn) (im : Image) (b : List (Nat × Nat)) (clocks : List Nat) : Option Refused :=
  let h := heat i im b clocks
  let total := sumQ h.pp
  let c0 := class0Parts i im b
  let cap : Rat := im.envelope.powerCap
  let slow := !(boundParts i im b (im.streams.filter fun r => r.cls != 0)).isEmpty
  let on0 := boundParts i im b (im.streams.filter fun r => r.cls == 0)
  let fast := if slow then 0 else on0.foldl (fun m p => min m (clocks.getD p 0)) (if on0.isEmpty then 0 else 4)
  let amps := total / setPoint fast
  let lim : Rat := i.amps
  let conv : Rat := (650 * i.converters : Nat)
  match c0.find? fun p => decide (92 < h.temps.getD p 0) with
  | some p =>
    let q := h.pp.getD p 0
    let rest := h.temps.getD p 0 - theta ((im.envelope.flowMin : Rat) / 100) * q
    some { check := 5, resource := 8, unitId := p, demand := ceilQ (q * 1000),
           limit := floorQ ((92 - rest) / theta ((im.envelope.flowMin : Rat) / 100) * 1000) }
  | none =>
    let bad := fun (d l : Rat) => some ({ check := 5, resource := 8, demand := ceilQ (d * 1000),
                                          limit := floorQ (l * 1000) } : Refused)
    if cap < h.pin then bad h.pin cap
    else if conv < h.pin then bad h.pin conv
    else if lim < amps then bad amps lim
    else none

/-- A class-0 stream with no enabled cluster left among those bound to it (R62). The record's demand is the number of those
clusters and its limit 0 (the model's choice; log 53). -/
def lostClusters (i : FitIn) (im : Image) (b : List (Nat × Nat)) : Option Refused :=
  (fitStreams i im).findSome? fun r =>
    let cl := fitClusters im b r.id
    if r.cls = 0 ∧ !cl.isEmpty ∧ cl.all (fun c => i.plan.get 1 c == 3) then
      some { check := 1, resource := 6, stream := r.id, unitType := 1, unitId := tget 0 i.lastFenced r.id,
             demand := cl.length, limit := 0 }
    else none

/-- The Fitting's verdict on an image (R49, R52). -/
def fit (i : FitIn) (im : Image) : Except Refused FitOk :=
  match (match i.bind with
    | some b => Except.ok b
    | none => bindClusters i.plan im) with
  | .error e => .error e
  | .ok b =>
    let clocks := lowerClocks i im b 16 [0, 0, 0, 0]
    let h := heat i im b clocks
    let t := fun p => h.temps.getD p 0
    let hot := [decide (85 < t 0) || decide (85 < t 1), decide (85 < t 2) || decide (85 < t 3)]
    let c0 := (fitStreams i im).filter fun r => r.cls == 0
    let times := c0.map fun r => (r, timing i im hot clocks b r)
    let r1 := if i.runTime then lostClusters i im b else none
    let r2 := if i.first = 1 then check1 i im else none
    match r1.orElse fun _ => r2.orElse fun _ => (check2 i im hot).orElse fun _ => (check3 i im b).orElse fun _ =>
        (times.findSome? fun p => check4One i im p.1 p.2).orElse fun _ => check5 i im b clocks with
    | some e => .error e
    | none =>
      let parts := class0Parts i im b
      .ok { clocks := (List.range 4).map fun p => if parts.contains p then clocks.getD p 0 else 0xFF
            bind := b
            streams := times.map fun p =>
              { id := p.1.id, promise := p.2.p, margin := 1000 * (p.1.deadline - p.2.p) / p.1.deadline } }

/-! ### The refusal record -/

/-- Per-mille shortfall (R54). -/
def shortfall (d l : Nat) : Nat := if l = 0 then 0xFFFF else min 0xFFFF (max 1 (cdiv (1000 * (d - l)) l))

/-- The 64 bytes of a refusal record (Table 3-4). -/
def refusalBytes (gen origin now : Nat) (digest : List Byte) (r : Refused) : List Byte :=
  let b := leBytes 4 0x46455246 ++ leBytes 2 1 ++ leBytes 2 0x40 ++ leBytes 4 gen ++ leBytes 1 origin ++ leBytes 1 r.check ++
    leBytes 1 r.stream ++ leBytes 1 r.resource ++ leBytes 2 (shortfall r.demand r.limit) ++ leBytes 1 r.unitType ++
    leBytes 1 0 ++ leBytes 2 r.unitId ++ leBytes 2 0 ++ leBytes 8 (sat 64 r.demand) ++ leBytes 8 (sat 64 r.limit) ++
    slice digest 0 8 ++ leBytes 8 now ++ leBytes 4 0
  b ++ leBytes 4 (crc32c b)

/-- Write the refusal record (R53). -/
def writeRefusal (s : State) (origin : Nat) (digest : List Byte) (r : Refused) : State :=
  { s with fit := { s.fit with refusal := refusalBytes s.flp.cur.generation origin s.now digest r } }

/-- A fit that ended in refusal: the record and the refused flag (R53). -/
def refuseFit (s : State) (origin : Nat) (digest : List Byte) (r : Refused) : State :=
  let s := writeRefusal s origin digest r
  { s with fit := { s.fit with refused := true, refusedSets := satInc 8 s.fit.refusedSets } }

/-- Digest of the running image; during a profile switch, of the image that ran when it began (R349). -/
def State.shownDigest (s : State) : Option (List Byte) :=
  match s.img.switch with
  | some w => w.digest
  | none => s.img.running.map (·.digest)

/-- Digest of the image that runs, zero bytes where none does (IMG_DIGEST). -/
def State.imageDigest (s : State) : List Byte := s.shownDigest.getD []

/-! ### Against the state of the module -/

/-- VCMP and VCACHE available current in A (R323, R324): after a converter's loss what 650 W at input_min
supports, a figure the spec does not state (log 31). -/
def availAmps (s : State) : Nat × Nat :=
  let vc := min 1100 (s.pwr.vcmpPhases * 25 / 2)
  let va := min 260 (s.pwr.vcachePhases * 25 / 2)
  if s.pwr.bcvOk = 3 then (vc, va)
  else
    let im := match s.img.running with
      | some im => im.envelope.inputMin
      | none => 400
    let lim := Config.oneConverterAmps im
    (min vc lim.1, min va lim.2)

/-- What an image is fitted against at a load, switch, shadow re-fit or slot write. -/
def fitInput (s : State) : FitIn :=
  { plan := s.flp.cur, amps := (availAmps s).1, converters := popc s.pwr.bcvOk 2 }

/-- What the running image is re-checked against (R62): the binding stands, and losses count. -/
def recheckInput (s : State) (full : Bool) : FitIn :=
  { fitInput s with
    losses := s.fit.losses, fitted := s.fit.fitted, bind := some s.img.bind, first := if full then 1 else 2,
    runTime := true, shed := s.streamIds.filter fun n => (s.stream n).state == 3,
    lastFenced := (s.streamIds.map fun n => (n, (s.stream n).lastFenced)) }

end Sys2Proof.Machine
end

