-- ==== Sys2Proof/Machine/Image.lean ====
section
/-! DEFINITION. An Akovokel image as bytes: the load checks of Table 2-8 in order, with the checks that owning
chapters make on section contents (8.12, 9.3, 10.1, 11.4, 12.10, 13.2, 17.7), and the image parsed. -/

namespace Sys2Proof.Machine

/-- A section table entry (Table 2-2). -/
structure SecEnt where
  type : Nat
  resv : Nat
  version : Nat
  off : Nat
  len : Nat
  crc : Nat
deriving DecidableEq, Repr

/-- An image of an unprovisioned signer slot and the like: what the checks are made against. -/
structure LoadEnv where
  signers : List Signer
  fwVersion : Nat

/-- The section table. -/
def secTable (b : List Byte) : List SecEnt :=
  (List.range (rd b 0xC 2)).map fun i =>
    let o := 0x40 + 16 * i
    { type := rd b o 1, resv := rd b (o + 1) 1, version := rd b (o + 2) 2, off := rd b (o + 4) 4, len := rd b (o + 8) 4,
      crc := rd b (o + 12) 4 }

/-- A section's entry. -/
def secOf (t : List SecEnt) (type : Nat) : Option SecEnt := t.find? fun e => e.type == type

/-- Records of a section as byte strings. -/
def records (b : List Byte) (t : List SecEnt) (type : Nat) : List (List Byte) :=
  match secOf t type with
  | none => []
  | some e =>
    let sz := rd b e.off 4
    (List.range (rd b (e.off + 4) 4)).map fun i => slice b (e.off + 16 + i * sz) sz

/-! ### Checks 0x01 to 0x09 -/

/-- First 8 bytes of SHA-256 over a key in the SEC 1 form (Table 2-1, R4). -/
def keyId (x y : Nat) : List Byte := (sha256 (sec1 (x, y))).take 8

/-- The signer an image names. -/
def signerOf (v : LoadEnv) (b : List Byte) : Option Signer :=
  v.signers.find? fun g => g.valid && keyId g.x g.y == slice b 0x38 8

/-- The image's signature under a key (2.3). -/
def signatureOk (g : Signer) (b : List Byte) : Bool :=
  let o := rd b 0x34 4
  ecdsaVerify (g.x, g.y) (b.take o) (rd b o 32) (rd b (o + 32) 32)

/-- Record size of a section type and its least and greatest count (R382, Table 2-3). -/
def secShape (type : Nat) : Option (Nat × Nat × Nat) :=
  match type with
  | 1 => some (16, 1, 64)
  | 2 => some (64, 1, 64)
  | 3 => some (32, 1, 64)
  | 4 => some (0x840, 1, 17)
  | 5 => some (32, 0, 64)
  | 6 => some (32, 0, 2 ^ 32)
  | 7 => some (64, 1, 1)
  | 8 => some (32, 0, 2 ^ 32)
  | 9 => some (64, 0, 1024)
  | 10 => some (32, 1, 1)
  | _ => none

/-- R382 for one section; a section of a reserved type is left to check 0x0B. -/
def secHeaderOk (b : List Byte) (e : SecEnt) : Bool :=
  match secShape e.type with
  | none => true
  | some (sz, lo, hi) =>
    let n := rd b (e.off + 4) 4
    rd b e.off 4 == sz && decide (lo ≤ n) && decide (n ≤ hi) &&
    (if e.type = 3 then decide (16 + n * sz ≤ e.len) else 16 + n * sz == e.len)

/-- R25: order, overlap and zero gaps, between neighbours of the table. -/
def secOrderOk (b : List Byte) : List SecEnt → Bool
  | e :: f :: t =>
    decide (e.off + e.len ≤ f.off) && allZero (slice b (e.off + e.len) (f.off - (e.off + e.len))) && secOrderOk b (f :: t)
  | _ => true

/-- Check 0x08. -/
def tableOk (b : List Byte) : Bool :=
  let t := secTable b
  let n := rd b 0xC 2
  decide (8 ≤ n) && decide (n ≤ 10) && (t.all fun e => e.version == 1 && e.off % 64 == 0 &&
    decide (0x40 + 16 * n ≤ e.off) && decide (e.off + e.len ≤ rd b 0x34 4) && decide (16 ≤ e.len)) && secOrderOk b t &&
  decide ((t.map (·.type)).Nodup) && ([1, 2, 3, 5, 6, 7, 8, 10].all fun k => (secOf t k).isSome) && t.all (secHeaderOk b)

/-! ### Checks 0x0A and 0x0B (Tables 2-1 to 2-7) -/

/-- R28: the shedding order lists every declared stream once, then 0xFF. -/
def shedOk (ids : List Nat) (r : List Byte) : Bool :=
  let l := (r.take ids.length).map BitVec.toNat
  decide l.Nodup && (l.all fun i => ids.contains i) && (r.drop ids.length).all (· == 0xFF#8)

/-- Check 0x0A: reserved fields of this chapter's structures are zero, and R28. -/
def reservedOk (b : List Byte) : Bool :=
  let t := secTable b
  let zero := fun (r : List Byte) (o n : Nat) => allZero (slice r o n)
  zero b 0xE 2 && zero b 0x13 1 && zero b 0x1C 4 && (t.all fun e => e.resv == 0 && zero b (e.off + 8) 8) &&
  ((records b t 1).all fun r => decide (rd r 3 1 < 4) && zero r 8 8) &&
  ((records b t 2).all fun r => decide (rd r 1 1 < 8) && zero r 0xA 2 && zero r 0x2F 1 && zero r 0x34 12) &&
  ((records b t 9).all fun r => decide (rd r 0x30 1 < 4) && zero r 0x32 14) &&
  ((records b t 10).all fun r => zero r 8 24) &&
  (records b t 7).all (shedOk ((records b t 2).map fun r => rd r 0 1))

/-- A range of bytes lies in bonded DRAM or in LPDDR6 (Table 12-1). -/
def inBonded (a n : Nat) : Bool := decide (a + n ≤ 0x0800000000)
/-- In LPDDR6. -/
def inLpddr (a n : Nat) : Bool := decide (0x1000000000 ≤ a) && decide (a + n ≤ 0x4800000000)
/-- In either tier. -/
def inTier (a n : Nat) : Bool := inBonded a n || inLpddr a n

/-- Two ranges share a byte. -/
def overlaps (a n b m : Nat) : Bool := decide (a < b + m) && decide (b < a + n) && decide (0 < n) && decide (0 < m)

/-- A range reaches a range of Table 12-2 (R34, R240). -/
def hitsReserved (a n : Nat) : Bool := overlaps a n 0x03F0000000 0x10000000 || overlaps a n 0x07E0000000 0x20000000

/-- A structure record (Table 2-4). -/
def parseStruct (r : List Byte) : StructRec :=
  { logical := rd r 0 1, partition := rd r 1 1, stream := rd r 2 1, mode := rd r 3 1 % 4, layerFirst := rd r 4 2,
    layerLast := rd r 6 2 }

/-- A stream record (Table 2-5). -/
def parseStream (r : List Byte) : StreamRec :=
  { id := rd r 0 1, cls := rd r 1 1 % 8, graph := rd r 2 2, pollNs := rd r 4 4, rateCount := rd r 8 2, rateUs := rd r 0xC 4,
    deadline := rd r 0x10 4, ringSlots := rd r 0x14 4, ringBase := rd r 0x18 8, resultBase := rd r 0x20 8,
    resultBytes := rd r 0x28 4, maxItems := rd r 0x2C 2, specDepth := rd r 0x2E 1, bundleFirst := rd r 0x30 2,
    bundleCount := rd r 0x32 2 }

/-- A bundle reference (Table 2-6). -/
def parseBundle (r : List Byte) : BundleRef :=
  { digest := slice r 0 32, plainSize := rd r 0x20 8, home := rd r 0x28 8, atStart := bit (rd r 0x30 1) 0,
    onDemand := bit (rd r 0x30 1) 1, window := rd r 0x31 1 }

/-- The thermal envelope (Table 2-7). -/
def parseEnvelope (r : List Byte) : Envelope :=
  { inletMax := rd r 0 2, flowMin := rd r 2 2, inputMin := rd r 4 2, powerCap := rd r 6 2 }

/-- Range of a structure record. -/
def structOk (ids : List Nat) (r : StructRec) : Bool :=
  decide (r.logical < 64) && (decide (r.partition < 4) || r.partition == 0xFF) && (ids.contains r.stream || r.stream == 0xFF) &&
  r.mode != 3

/-- Range of a stream record (Table 2-5, R27). -/
def streamOk (r : StreamRec) : Bool :=
  let within := fun (v lo hi : Nat) => decide (lo ≤ v) && decide (v ≤ hi)
  decide (r.id < 64) && within r.pollNs 20000 10000000 && within r.rateCount 1 (if r.cls = 0 then 64 else 65535) &&
  within r.rateUs 1 10000000 && within r.deadline 1 4000000000 && within r.ringSlots 1 65536 && r.ringBase % 256 == 0 &&
  within r.resultBytes 64 16777216 && r.resultBytes % 64 == 0 && decide (r.specDepth ≤ 8) && decide (r.bundleCount ≤ 1024)

/-- Range of a bundle reference. -/
def bundleOk (r : BundleRef) : Bool :=
  r.home % 4096 == 0 && inTier r.home r.plainSize &&
  (if r.atStart || r.onDemand then decide (r.window < 64) else r.window == 0xFF)

/-- Range of the envelope (Table 2-7, R67). -/
def envelopeOk (e : Envelope) : Bool :=
  decide (400 ≤ e.inputMin) && decide (e.inputMin ≤ 600) && decide (e.powerCap ≤ 1250) && decide (150 ≤ e.flowMin) &&
  decide (e.flowMin ≤ 400) && decide (150 ≤ e.inletMax) && decide (e.inletMax ≤ 450)

/-- Check 0x0B. -/
def rangesOk (b : List Byte) : Bool :=
  let t := secTable b
  let ss := (records b t 1).map parseStruct
  let st := (records b t 2).map parseStream
  let ids := st.map (·.id)
  (t.all fun e => (secShape e.type).isSome) && ss.all (structOk ids) && decide ((ss.map (·.logical)).Nodup) && st.all streamOk &&
  decide (ids.Nodup) && decide ((st.filter fun r => r.cls == 0).length ≤ 32) && ((records b t 9).map parseBundle).all bundleOk &&
  ((records b t 10).map parseEnvelope).all envelopeOk

/-! ### Tables (9.3) -/

/-- A finite FP32 pattern. -/
def finite32 (w : Nat) : Bool := fld w 30 23 != 255

/-- A table record is well formed (R183, R178). -/
def tableRecOk (r : List Byte) : Bool :=
  if rd r 0 1 = 0xFE then decide (rd r 1 1 < 2) && allZero (r.drop 2)
  else
    let k := rd r 1 1
    let f := rd r 2 1
    let q := sext 8 (rd r 8 1)
    let lo := rd r 4 4
    decide (rd r 0 1 < 16) && decide (4 ≤ k) && decide (k ≤ 8) && f % 4 != 3 && fld f 3 2 != 3 && fld f 5 4 != 3 && decide (f < 128) &&
    rd r 3 1 == 0 && finite32 lo && (fld f 5 4 == 0 || decide (lo < 2 ^ 31)) && decide (-64 ≤ q) && decide (q ≤ 64) &&
    allZero (slice r 9 0x37) && ((List.range (2 * 2 ^ k)).all fun i => finite32 (rd r (0x40 + 4 * i) 4)) &&
    allZero (r.drop (0x40 + 8 * 2 ^ k))

/-- A table record's slot and table. -/
def parseTable (r : List Byte) : Nat × TblRec :=
  let f := rd r 2 1
  (rd r 0 1, { segLog2 := rd r 1 1, below := f % 4, above := fld f 3 2, symmetry := fld f 5 4, postMul := bit f 6,
               lo := BitVec.ofNat 32 (rd r 4 4), q := sext 8 (rd r 8 1),
               coef := (List.range (2 ^ rd r 1 1)).map fun k =>
                 (BitVec.ofNat 32 (rd r (0x40 + 8 * k) 4), BitVec.ofNat 32 (rd r (0x44 + 8 * k) 4)) })

/-- A set of table records is valid. -/
def tableSetOk (rs : List (List Byte)) : Bool := rs.all tableRecOk && decide ((rs.map fun r => rd r 0 1).Nodup)

/-- The slot records of a set. -/
def slotRecs (rs : List (List Byte)) : List (Nat × TblRec) := (rs.filter fun r => rd r 0 1 != 0xFE).map parseTable

/-- The mode record of a set. -/
def modeRec (rs : List (List Byte)) : Option Bool := (rs.find? fun r => rd r 0 1 == 0xFE).map fun r => bit (rd r 1 1) 0

/-- Table slots that some SF.EVAL of code names (R171). -/
def namedSlots (code : List Byte) : List Nat :=
  ((List.range (code.length / 8)).filterMap fun i =>
    let w := rd code (8 * i) 8
    let fn := fld w 39 32
    if w % 256 = 0xA0 ∧ 0x20 ≤ fn ∧ fn < 0x30 then some (fn - 0x20) else none).eraseDups

/-! ### Windows (11.4) -/

/-- A window record (Table 11-1). -/
def parseWindow (r : List Byte) : WinRec :=
  let f := rd r 1 1
  { window := rd r 0 1, persistence := f % 4, slocal := bit f 2, deadFault := bit f 3, ways := rd r 2 1, quota0 := rd r 4 4,
    quota1 := rd r 8 4, firstSlice := rd r 0xC 2, sliceCount := rd r 0xE 2, base := rd r 0x10 8, size := rd r 0x18 8 }

/-- Halves that home lines of a range: those of the channels behind it. -/
def homesIn (a n h : Nat) : Bool :=
  let one := fun (x : Nat) => match place x with
    | .bonded c _ => halfOfCh c == h
    | .lpddr c _ => halfOfCh c == h
    | _ => false
  decide (n ≠ 0) && (one a || one (a + n - 1)) || (List.range (min 64 (n / 4096 + 1))).any fun i => decide (i * 4096 < n) && one (a + 4096 * i)

/-- Table 11-1 and R226 for one record. -/
def windowOk (r : List Byte) : Bool :=
  let w := parseWindow r
  decide (w.window < 64) && decide (rd r 1 1 < 16) && rd r 3 1 == 0 && w.size % 256 == 0 && inTier w.base w.size &&
  !hitsReserved w.base w.size &&
  if w.slocal then
    w.persistence == 1 && decide (1 ≤ w.ways) && decide (w.ways ≤ 12) && w.quota0 == 0 && w.quota1 == 0 &&
    decide (1 ≤ w.sliceCount) && decide (w.firstSlice + w.sliceCount ≤ 128) && w.base % mib == 0 &&
    w.size == w.sliceCount * w.ways * mib
  else
    w.ways == 0 && w.firstSlice == 0 && w.sliceCount == 0 && w.base % 256 == 0 &&
    !(w.persistence == 1 && ((w.quota0 == 0 && homesIn w.base w.size 0) || (w.quota1 == 0 && homesIn w.base w.size 1)))

/-- No two ranges of a list share a byte. -/
def disjoint : List (Nat × Nat) → Bool
  | [] => true
  | r :: t => (t.all fun q => !overlaps r.1 r.2 q.1 q.2) && disjoint t

/-- Two slice-local windows share a slice. -/
def shareSlice (a b : WinRec) : Bool :=
  decide (a.firstSlice < b.firstSlice + b.sliceCount) && decide (b.firstSlice < a.firstSlice + a.sliceCount)

/-- R228: starting ways in ascending window number; none where a window finds none. -/
def assignWays (ws : List WinRec) : Option (List (Nat × Nat)) :=
  let ls := (ws.filter (·.slocal)).mergeSort fun a b => decide (a.window ≤ b.window)
  let step := fun (acc : Option (List (WinRec × Nat))) (w : WinRec) => acc.bind fun l =>
    (least (17 - w.ways) fun w0 => l.all fun p =>
      !(shareSlice p.1 w && decide (p.2 < w0 + w.ways) && decide (w0 < p.2 + p.1.ways))).map fun w0 => l ++ [(w, w0)]
  (ls.foldl step (some [])).map fun l => l.map fun p => (p.1.window, p.2)

/-- R226 for the whole section. -/
def windowsOk (rs : List (List Byte)) : Bool :=
  let ws := rs.map parseWindow
  rs.all windowOk && decide ((ws.map (·.window)).Nodup) && disjoint (ws.map fun w => (w.base, w.size)) &&
  ((List.range 128).all fun n => decide (((ws.filter fun w => w.slocal && decide (w.firstSlice ≤ n) &&
    decide (n < w.firstSlice + w.sliceCount)).map (·.ways)).sum ≤ 12)) && (assignWays ws).isSome

/-! ### Regulation (12.10) -/

/-- Table 12-10 and R259 for one record. -/
def regRecOk (r : List Byte) : Bool :=
  let tgt := rd r 1 1
  let cls := rd r 2 1
  rd r 3 1 == 0 && allZero (slice r 0xC 20) &&
  match rd r 0 1 with
  | 1 => decide (tgt < 7) && decide (cls < 8) && rd r 8 4 == 0 && (cls != 0 || (slice r 4 4).all (· != 0#8))
  | 2 =>
    decide (3 ≤ tgt) && decide (tgt ≤ 5) && decide (cls < 4) && (decide (rd r 4 2 < unitCount tgt) || rd r 4 2 == 0xFFFF) &&
    (tgt == 3 || rd r 7 1 == 0)
  | _ => false

/-- A limit record: 8 × kind + class, and its four limits. -/
def parseLimit (r : List Byte) : Nat × List Nat := (8 * rd r 1 1 + rd r 2 1, (slice r 4 4).map BitVec.toNat)

/-- A reservation record. -/
def parseResv (r : List Byte) : Resv :=
  { unitType := rd r 1 1, unitId := rd r 4 2, cls := rd r 2 1, entries := rd r 6 1, miss := rd r 7 1, bandwidth := rd r 8 4 }

/-- Reserved entries take at most three quarters of each queue (R255, Table 12-8). -/
def resvFits (rs : List Resv) : Bool :=
  let one := fun (ut u c : Nat) => ((rs.find? fun r => r.unitType == ut && r.cls == c && r.unitId == u).orElse fun _ =>
    rs.find? fun r => r.unitType == ut && r.cls == c && r.unitId == 0xFFFF)
  let sum := fun (ut u lo : Nat) (f : Resv → Nat) => ((List.range 4).map fun c =>
    max (if c = 0 then lo else 0) (((one ut u c).map f).getD 0)).sum
  ((List.range 128).all fun u => decide (sum 3 u 8 (·.entries) ≤ 72) && decide (sum 3 u 16 (·.miss) ≤ 96)) &&
  (List.range 16).all fun u => decide (sum 4 u 8 (·.entries) ≤ 48) && decide (sum 5 u 8 (·.entries) ≤ 48)

/-- The regulation section is valid. -/
def regOk (rs : List (List Byte)) : Bool :=
  let ls := (rs.filter fun r => rd r 0 1 == 1).map parseLimit
  rs.all regRecOk && decide ((ls.map (·.1)).Nodup) && resvFits ((rs.filter fun r => rd r 0 1 == 2).map parseResv)

/-! ### Work graphs (8.12) -/

/-- An area of the work-graph section: offset and length. -/
abbrev Area := Nat × Nat

/-- The KV layout at an offset: its length in bytes, and its fields (Tables 10-1 to 10-3). -/
def parseKvLayout (b : List Byte) (o : Nat) : Nat × KvLayout :=
  let np := rd b (o + 6) 1
  let nl := rd b (o + 7) 1
  let pool := fun (i : Nat) =>
    let p := o + 0x20 + 32 * i
    ({ base := rd b p 8, columnBytes := rd b (p + 8) 8, columns := rd b (p + 0x10) 1, pageCode := rd b (p + 0x11) 1,
       unitType := rd b (p + 0x12) 1, window := rd b (p + 0x13) 1, firstUnit := rd b (p + 0x14) 2 } : PoolRec)
  let layer := fun (i : Nat) =>
    let l := o + 0x20 + 32 * (np + i)
    let f := rd b (l + 2) 1
    ({ layer := rd b l 1, pool := rd b (l + 1) 1, fmt := f % 16, byPosition := bit f 4, causal := bit f 5, bias := bit f 6,
       heads := rd b (l + 3) 1, headDim := rd b (l + 4) 2, biasAddr := rd b (l + 8) 8 } : LayerRec)
  (0x20 + 32 * (np + nl),
   { seqMax := rd b (o + 8) 2, maxPositions := rd b (o + 0xC) 4, seqBase := rd b (o + 0x10) 8, ptBase := rd b (o + 0x18) 8,
     pools := (List.range np).map pool, layers := (List.range nl).map layer })

/-- One graph of the section `b` (Tables 8-14 to 8-18): its areas and its parse. `b` starts at the section. -/
def parseGraph (b : List Byte) (i : Nat) : List Area × Graph :=
  let o := 16 + 32 * i
  let steps := rd b (o + 4) 4
  let code := rd b (o + 8) 4
  let kvo := rd b (o + 0x10) 4
  let loss := rd b (o + 0x18) 4
  let pw := rd b (o + 0x1C) 4
  let n := rd b (o + 2) 2
  let codeBytes := rd b (o + 0xC) 4
  let demand := fun (a : Nat) (frame : Nat) =>
    ({ compute := rd b a 8, sram := rd b (a + 8) 8, seam := rd b (a + 0x10) 8, bonded := rd b (a + 0x18) 8,
       lpddr := rd b (a + 0x20) 8, frame := rd b frame 4, kvWrites := rd b (frame + 4) 4 } : Demand)
  let block := fun (a : Nat) =>
    ({ logical := rd b a 1, localCore := rd b (a + 1) 1, base := rd b (a + 2) 1 % 16, n := rd b (a + 2) 1 / 16 + 1,
       barriers := rd b (a + 3) 1, entry := rd b (a + 4) 4, arg := rd b (a + 8) 4 } : BlockRec)
  let step := fun (k : Nat) =>
    let a := steps + 64 * k
    ({ kind := rd b a 1, perItem := rd b (a + 1) 1 == 1,
       blocks := (List.range (rd b (a + 2) 2)).map fun j => block (rd b (a + 4) 4 + 16 * j),
       base := demand (a + 8) (a + 0x30),
       loss := (List.range 5).map fun u => let l := loss + 48 * (5 * k + u); demand l (l + 0x28) } : StepRec)
  let kv := parseKvLayout b kvo
  ([(steps, 64 * n), (code, codeBytes), (loss, 240 * n), (pw, 32)] ++ (if kvo = 0 then [] else [(kvo, kv.1)]) ++
     (List.range n).filterMap (fun k =>
       let c := rd b (steps + 64 * k + 2) 2
       if c = 0 then none else some (rd b (steps + 64 * k + 4) 4, 16 * c)),
   { steps := (List.range n).map step, code := slice b code codeBytes, kv := if kvo = 0 then none else some kv.2,
     maxInput := rd b (o + 0x14) 4, power := (List.range 6).map fun k => rd b (pw + 4 * k) 4 })

/-- Two block records of one step meet on a core (R132). -/
def blocksMeet (x y : BlockRec) : Bool :=
  x.logical == y.logical && x.localCore == y.localCore &&
  ((decide (x.base < y.base + y.n) && decide (y.base < x.base + x.n)) || x.barriers &&& y.barriers != 0)

/-- No two block records of a step meet. -/
def blocksApart : List BlockRec → Bool
  | [] => true
  | x :: t => (t.all fun y => !blocksMeet x y) && blocksApart t

/-- The raw fields of a step record are as Tables 8-15 and 8-16 state; block_offset lies in the section, whatever
block_count is (R175). -/
def stepRawOk (b : List Byte) (len a : Nat) : Bool :=
  let n := rd b (a + 2) 2
  let bo := rd b (a + 4) 4
  decide (1 ≤ rd b a 1) && decide (rd b a 1 ≤ 5) && decide (rd b (a + 1) 1 ≤ 1) && decide (n ≤ 272) && bo % 64 == 0 && decide (bo < len) &&
  allZero (slice b (a + 0x38) 8) &&
  (List.range n).all fun j => let k := bo + 16 * j; allZero (slice b (k + 0xC) 4)

/-- A block record keeps R132 and its clusters are those of each stream that runs the graph (R175). -/
def blockOk (owns : Nat → Bool) (codeBytes : Nat) (x : BlockRec) : Bool :=
  decide (x.localCore < 4) && decide (x.base + x.n ≤ 16) && x.entry % 8 == 0 && decide (x.entry < codeBytes) &&
  decide (x.logical < 64) && owns x.logical

/-- One graph is valid (R175). -/
def graphOk (b : List Byte) (len i : Nat) (owns : Nat → Bool) : Bool :=
  let o := 16 + 32 * i
  let steps := rd b (o + 4) 4
  let n := rd b (o + 2) 2
  let code := rd b (o + 0xC) 4
  rd b o 2 == i && decide (1 ≤ n) && decide (n ≤ 4096) && decide (8 ≤ code) && decide (code ≤ 262144) && code % 8 == 0 &&
  decide (1 ≤ rd b (o + 0x14) 4) &&
  let g := parseGraph b i
  (g.1.all fun a => a.1 % 64 == 0 && decide (a.1 + a.2 ≤ len)) && ((List.range n).all fun k => stepRawOk b len (steps + 64 * k)) &&
  allZero (slice b (rd b (o + 0x1C) 4 + 0x18) 8) &&
  g.2.steps.all fun st => st.blocks.all (blockOk owns code) && blocksApart st.blocks

/-- Bodies of different graphs do not overlap. -/
def bodiesApart : List (List Area) → Bool
  | [] => true
  | x :: t => (t.all fun y => x.all fun a => y.all fun c => !overlaps a.1 a.2 c.1 c.2) && bodiesApart t

/-! ### KV layouts (10.1) -/

/-- The raw fields of a KV layout are as Tables 10-1 to 10-3 state. -/
def kvRawOk (b : List Byte) (o : Nat) : Bool :=
  let np := rd b (o + 6) 1
  let nl := rd b (o + 7) 1
  rd b o 4 == 0x594C564B && rd b (o + 4) 2 == 1 && decide (1 ≤ np) && decide (np ≤ 8) && decide (1 ≤ nl) && rd b (o + 0xA) 2 == 0 &&
  ((List.range np).all fun i => allZero (slice b (o + 0x20 + 32 * i + 0x16) 10)) &&
  (List.range nl).all fun i =>
    let l := o + 0x20 + 32 * (np + i)
    decide (rd b (l + 2) 1 < 128) && rd b (l + 6) 2 == 0 && allZero (slice b (l + 0x10) 16)

/-- Column u of a pool lies in its unit (Table 10-2). -/
def columnOk (ws : List WinRec) (ways : List (Nat × Nat)) (p : PoolRec) (u : Nat) : Bool :=
  let a := p.base + u * p.columnBytes
  let n := p.columnBytes
  let id := p.firstUnit + u
  match p.unitType with
  | 3 =>
    match ws.find? fun w => w.window == p.window && w.slocal with
    | none => false
    | some w =>
      let w0 := ((ways.find? fun x => x.1 == w.window).map (·.2)).getD 0
      let lo := 0x8000000000 + id * 0x1000000 + w0 * mib
      decide (w.firstSlice ≤ id) && decide (id < w.firstSlice + w.sliceCount) && decide (lo ≤ a) &&
      decide (a + n ≤ lo + w.ways * mib)
  | 4 => decide (0x0400000000 + id * 0x40000000 ≤ a) && decide (a + n ≤ 0x0400000000 + (id + 1) * 0x40000000)
  | _ => decide (0x3000000000 + id * 0x180000000 ≤ a) && decide (a + n ≤ 0x3000000000 + (id + 1) * 0x180000000)

/-- A pool record is valid. -/
def poolOk (ws : List WinRec) (ways : List (Nat × Nat)) (p : PoolRec) : Bool :=
  decide (1 ≤ p.columns) && decide (p.columns ≤ 128) && decide (p.pageCode ≤ 7) && decide (3 ≤ p.unitType) && decide (p.unitType ≤ 5) &&
  p.base % p.pageBytes == 0 && p.columnBytes % p.pageBytes == 0 && decide (0 < p.columnBytes) &&
  decide (p.firstUnit + p.columns ≤ unitCount p.unitType) && (p.unitType == 3 || p.window == 0xFF) &&
  ((List.range p.columns).all (columnOk ws ways p)) && !hitsReserved p.base (p.columns * p.columnBytes)

/-- Layer numbers rise. -/
def layersRise : List LayerRec → Bool
  | a :: c :: t => decide (a.layer < c.layer) && layersRise (c :: t)
  | _ => true

/-- A KV layout is valid (R199). -/
def kvOk (ws : List WinRec) (ways : List (Nat × Nat)) (k : KvLayout) : Bool :=
  decide (1 ≤ k.seqMax) && decide (k.seqMax ≤ 256) && decide (1 ≤ k.maxPositions) && decide (k.maxPositions ≤ 65536) &&
  (k.pools.all (poolOk ws ways)) && layersRise k.layers && (k.layers.all fun l =>
    decide (l.layer ≤ 254) && decide (l.pool < k.pools.length) && (l.fmt == 1 || l.fmt == 3 || l.fmt == 4) && decide (1 ≤ l.heads) &&
    decide (l.heads ≤ 64) && decide (32 ≤ l.headDim) && decide (l.headDim ≤ 256) && l.headDim % 32 == 0 &&
    (if l.bias then l.biasAddr % 16384 == 0 && decide (l.biasAddr < 2 ^ 40) else l.biasAddr == 0) &&
    decide (l.slab ≤ (k.poolOf l).pageBytes)) &&
  k.seqBase % 64 == 0 && k.ptBase % 64 == 0 && inBonded k.seqBase (64 * k.seqMax) && inBonded k.ptBase (k.seqMax * k.ptStride) &&
  !hitsReserved k.seqBase (64 * k.seqMax) && !hitsReserved k.ptBase (k.seqMax * k.ptStride)

/-- Byte ranges of a pool's columns. -/
def poolRanges (p : PoolRec) : List (Nat × Nat) := (List.range p.columns).map fun u => (p.base + u * p.columnBytes, p.columnBytes)

/-! ### Host windows (13.2) -/

/-- A host window record (Table 13-3). -/
def parseHostWin (r : List Byte) : HostWin :=
  { kind := rd r 0 1, window := rd r 1 1, hostRead := bit (rd r 2 1) 0, hostWrite := bit (rd r 2 1) 1, cls := rd r 3 1,
    hdmOffset := rd r 8 8, size := rd r 0x10 8, devBase := rd r 0x18 8 }

/-- Table 13-3 for one record (R355 refuses every other kind). -/
def hostWinOk (r : List Byte) : Bool :=
  let w := parseHostWin r
  let two := 0x200000
  decide (w.window < 16) && decide (rd r 2 1 < 4) && rd r 4 4 == 0 &&
  match w.kind with
  | 1 =>
    decide (4 ≤ w.cls) && decide (w.cls ≤ 7) && w.hdmOffset % two == 0 && w.size % two == 0 && w.devBase % two == 0 &&
    decide (w.hdmOffset + w.size ≤ 2 ^ 36) && inTier w.devBase w.size && !hitsReserved w.devBase w.size
  | 2 => rd r 2 1 == 0 && w.cls == 0 && w.hdmOffset == 0 && w.devBase == 0 && w.size % 4096 == 0 && decide (w.size ≤ 2 ^ 48)
  | _ => false

/-- An HDM range lies in one device window that passes a test. -/
def inOneWindow (ds : List HostWin) (off n : Nat) (p : HostWin → Bool) : Bool :=
  ds.any fun w => p w && decide (w.hdmOffset ≤ off) && decide (off + n ≤ w.hdmOffset + w.size)

/-- R266 and R355. -/
def hostWinsOk (rs : List (List Byte)) (ws : List WinRec) (gs : List Graph) (ss : List StreamRec) : Bool :=
  let hw := rs.map parseHostWin
  let ds := hw.filter fun w => w.kind == 1
  let pools := gs.flatMap fun g => match g.kv with
    | some k => k.pools.flatMap poolRanges
    | none => []
  rs.all hostWinOk && decide ((hw.map fun w => (w.kind, w.window)).Nodup) && disjoint (ds.map fun w => (w.hdmOffset, w.size)) &&
  disjoint (ds.map fun w => (w.devBase, w.size)) && decide ((ds.map (·.size)).sum ≤ 2 ^ 36) &&
  (ds.all fun d => (ws.all fun w => !w.slocal || !overlaps d.devBase d.size w.base w.size) &&
    pools.all fun p => !overlaps d.devBase d.size p.1 p.2) &&
  ss.all fun r => inOneWindow ds r.ringBase (r.ringSlots * 256) (fun w => w.hostRead && w.hostWrite) &&
    inOneWindow ds r.resultBase (r.ringSlots * r.resultBytes) fun w => w.hostRead

/-! ### Check 0x0C and the parse -/

/-- The image parsed, once its sections hold. -/
def parseImage (b : List Byte) (digest : List Byte) : Image :=
  let t := secTable b
  let wg := match secOf t 3 with
    | some e => slice b e.off e.len
    | none => []
  let regs := records b t 6
  let tabs := records b t 4
  let st := (records b t 2).map parseStream
  { digest := digest, signer := slice b 0x38 8, security := rd b 0x18 4, structs := (records b t 1).map parseStruct, streams := st,
    graphs := (List.range (rd wg 4 4)).map fun i => (parseGraph wg i).2, tables := slotRecs tabs, compat := modeRec tabs,
    windows := (records b t 5).map parseWindow, limits := (regs.filter fun r => rd r 0 1 == 1).map parseLimit,
    resv := (regs.filter fun r => rd r 0 1 == 2).map parseResv,
    shed := match records b t 7 with
      | r :: _ => (r.take st.length).map BitVec.toNat
      | [] => []
    hostWins := (records b t 8).map parseHostWin, bundles := (records b t 9).map parseBundle,
    envelope := match records b t 10 with
      | r :: _ => parseEnvelope r
      | [] => {} }

/-- A logical cluster belongs to every stream that runs graph `i`, and some stream runs it. -/
def ownsFor (im : Image) (i l : Nat) : Bool :=
  let rs := im.streams.filter fun r => r.graph == i
  !rs.isEmpty && rs.all fun r => im.structs.any fun x => x.logical == l && x.stream == r.id

/-- Check 0x0C. -/
def contentsOk (b : List Byte) (im : Image) : Bool :=
  let t := secTable b
  match secOf t 3 with
  | none => false
  | some e =>
    let wg := slice b e.off e.len
    let n := rd wg 4 4
    let raw := (List.range n).all fun i => graphOk wg e.len i (ownsFor im i)
    let ways := (assignWays im.windows).getD []
    let kvs := im.graphs.filterMap (·.kv)
    raw && bodiesApart ((List.range n).map fun i => (parseGraph wg i).1) && (im.streams.all fun r => decide (r.graph < n)) &&
    tableSetOk (records b t 4) && windowsOk (records b t 5) && regOk (records b t 6) &&
    ((List.range n).all fun i => let o := rd wg (16 + 32 * i + 0x10) 4; o == 0 || kvRawOk wg o) && kvs.all (kvOk im.windows ways) &&
    disjoint (kvs.flatMap fun k => k.pools.flatMap poolRanges) &&
    ((List.range n).all fun i => ((im.graphs[i]?).bind (·.kv)).isNone ||
      decide ((im.streams.filter fun r => r.graph == i).length ≤ 1)) &&
    (im.bundles.all fun r => !hitsReserved r.home r.plainSize) && hostWinsOk (records b t 8) im.windows im.graphs im.streams &&
    (im.graphs.flatMap fun g => namedSlots g.code).all fun k => im.tables.any fun x => x.1 == k

/-- The load checks of Table 2-8 on the bytes delivered: the first that fails, or the image (R29). -/
def loadImage (v : LoadEnv) (b : List Byte) : Except Nat Image :=
  let size := rd b 8 4
  let head := rd b 0 4 == 0x4B564B41 && rd b 4 2 == 1 && rd b 6 2 == 0x40 && rd b 0x30 4 == 0x40
  if !head then .error 1
  else if rd b 0x10 2 ≠ 0x0760 ∨ rd b 0x12 1 ≠ 0xB0 then .error 2
  else if 0x3800000 < size ∨ size < 64 ∨ rd b 0x34 4 ≠ size - 64 ∨ size ≠ b.length then .error 3
  else match signerOf v b with
    | none => .error 4
    | some g =>
      if !signatureOk g b then .error 5
      else if rd b 0x18 4 < g.floor then .error 6
      else if v.fwVersion < rd b 0x14 4 then .error 7
      else if !tableOk b then .error 8
      else if (secTable b).any fun e => crc32c (slice b e.off e.len) != e.crc then .error 9
      else if !reservedOk b then .error 0xA
      else if !rangesOk b then .error 0xB
      else
        let im := parseImage b (sha256 b)
        if contentsOk b im then .ok im else .error 0xC

/-- What the module checks an image against. -/
def loadEnv (s : State) : LoadEnv :=
  { signers := (List.range 8).map fun i => tget {} s.sec.op.signers i, fwVersion := s.boot.cur.fwVersion }

end Sys2Proof.Machine
end

