-- ==== Sys2Proof/Machine/Intake.lean ====
section
/-! DEFINITION. Intake and the end of a request (3.5, 13.4): polls, the form check of R276, the tests of R56, host
reads of bodies (R277, R287) and the completion write (R58, R60, R61, R383). -/

namespace Sys2Proof.Machine

/-! ### What a slot says (Table 13-4) -/

/-- The fields of a slot that its answer needs. -/
structure SlotReq where
  items : Nat
  inline_ : Bool
  input : Nat
  body : Nat
  bodyBytes : Nat
  commit : Nat
  /-- A reserved field is non-zero. -/
  resv : Bool
deriving DecidableEq, Repr

/-- A reserved bit of a link address is set (R265). -/
def linkReserved (a : Nat) : Bool :=
  if bit a 63 then fld a 62 60 != 0 || fld a 55 48 != 0 else fld a 62 36 != 0

/-- Read the first 64 bytes of a slot. -/
def parseSlot (b : List Byte) : SlotReq :=
  let f := rd b 0xA 2
  { items := rd b 8 2, inline_ := bit f 0, input := rd b 0xC 4, body := rd b 0x10 8, bodyBytes := rd b 0x18 4,
    commit := rd b 0x28 8, resv := f / 2 != 0 || rd b 0x1C 4 != 0 || rd b 0x38 8 != 0 || linkReserved (rd b 0x10 8) }

/-- The body lies in host memory. -/
def SlotReq.host (q : SlotReq) : Bool := !q.inline_ && bit q.body 63

/-- The host-memory window record of a number (Table 13-3). -/
def hostWindow (s : State) (w : Nat) : Option HostWin :=
  match s.img.running with
  | some im => im.hostWins.find? fun h => h.kind == 2 && h.window == w
  | none => none

/-- The body lies wholly in one window the image declares (reason 0x41). -/
def bodyDeclared (s : State) (q : SlotReq) : Bool :=
  if q.host then
    match hostWindow s (fld q.body 59 56) with
    | some w => decide (fld q.body 47 0 + q.bodyBytes ≤ w.size)
    | none => false
  else (hdmFind s q.body q.bodyBytes).isSome

/-- The form check of R276, in the order of Table 13-7. -/
def formReason (s : State) (r : StreamRec) (q : SlotReq) : Nat :=
  let maxIn := ((s.graphOf r.id).map (·.maxInput)).getD 0
  if q.resv then 0x40
  else if r.cls ≠ 0 ∧ !q.inline_ ∧ !bodyDeclared s q then 0x41
  else if q.inline_ ∧ (192 < q.bodyBytes ∨ q.body ≠ 0) then 0x42
  else if q.items = 0 ∨ q.input = 0 ∨ q.bodyBytes = 0 ∨ maxIn < q.input then 0x43
  else 0

/-- A class-0 body is inline or in a device window the host may write (R268). -/
def class0Body (s : State) (q : SlotReq) : Bool :=
  q.inline_ || (!q.host && match hdmFind s q.body q.bodyBytes with
    | some w => w.1.hostWrite
    | none => false)

/-- Test 5 cannot reach the body, as the state already shows (R277): it is larger than the result buffer, its window
is unbound or bound too small for it, the link is down, or IDE is required and not established. -/
def hostUnreachable (s : State) (r : StreamRec) (q : SlotReq) : Bool :=
  decide (r.resultBytes < q.bodyBytes) || !s.hlk.up || ideBlocked s ||
  match tget none s.hlk.binds (fld q.body 59 56) with
  | some b => decide (b.2 < fld q.body 47 0 + q.bodyBytes)
  | none => true

/-- Acceptances of a stream that still count at tick `t` (R56). -/
def liveTicks (st : Stream) (r : StreamRec) (t : Nat) : List Nat :=
  st.ticks.filter fun a => decide (t < a + r.rateUs * 1000)

/-- The rate test fails at tick `t`. -/
def rateFull (st : Stream) (r : StreamRec) (t : Nat) : Bool := decide (r.rateCount ≤ (liveTicks st r t).length)

/-- What is decided of a slot at its poll. -/
inductive SlotWord where
  /-- Not accepted, with this reason. -/
  | refuse (reason : Nat)
  /-- Test 5 reads the host; the rate test follows. -/
  | ask
  /-- Accepted. -/
  | accept
deriving DecidableEq, Repr

/-- R276 and tests 1 to 6 of R56 at tick `t`. -/
def judgeSlot (s : State) (r : StreamRec) (q : SlotReq) (t : Nat) : SlotWord :=
  let st := s.stream r.id
  let form := formReason s r q
  if form ≠ 0 then .refuse form
  else if st.state = 3 then .refuse 3
  else if st.state = 2 then .refuse 2
  else if r.maxItems < q.items then .refuse 4
  else if r.cls = 0 ∧ !class0Body s q then .refuse 5
  else if q.host then if hostUnreachable s r q then .refuse 6 else .ask
  else if rateFull st r t then .refuse 1
  else .accept

/-- Write a slot not-accepted (a final state: end_stamp first, R278). -/
def refuseSlot (s : State) (n slot commit reason : Nat) : State :=
  let s := devWrite s (s.streamClass n) (slotAddr s n slot + 0x30) (leBytes 8 s.now)
  let s := writeStatus s n slot 7 reason 0 commit
  s.updStream n fun st =>
    { st with notAccepted := satInc 16 st.notAccepted
              malformed := if 0x40 ≤ reason then satInc 16 st.malformed else st.malformed }

/-- Accept a slot at tick `t` (R56, R58). -/
def acceptSlot (s : State) (r : StreamRec) (slot : Nat) (q : SlotReq) (t : Nat) : State :=
  let n := r.id
  let s := writeStatus s n slot 2 0 0 q.commit
  s.updStream n fun st =>
    { st with ticks := liveTicks st r t ++ [t], accepted := (st.accepted + 1) % 2 ^ 32
              reqs := st.reqs ++ [{ slot := slot, commit := q.commit, promise := st.promise, items := 0, started := false,
                                    copying := if q.host then
                                      some { since := s.now, window := fld q.body 59 56, bytes := q.bodyBytes } else none
                                    step := none, cause := 0,
                                    failing := none }] }

/-- The scan pointer moves on. -/
def advanceScan (s : State) (r : StreamRec) : State :=
  s.updStream r.id fun st => { st with scan := (st.scan + 1) % r.ringSlots }

/-- What reading the pointed slot comes to. -/
inductive SlotRead where
  /-- Its first 64 bytes. -/
  | bytes (b : List Byte)
  /-- The host has its line and is asked for it first (R270), or a Cuff or a limit holds the read (R258, R314). -/
  | waits
  /-- It cannot be read. -/
  | lost
deriving DecidableEq, Repr

/-- Read the first 64 bytes of the pointed slot, after any back-invalidation (R270, R275). -/
def readSlot (s : State) (r : StreamRec) (slot : Nat) : SlotRead × State :=
  let a := slotAddr s r.id slot
  let m := mayAccess s 3 r.cls a 64 false
  let sn := snoopRead m.2 r.cls a 64
  if !m.1 then (.waits, m.2)
  else if !sn.1 then (.waits, sn.2)
  else
    let v := devRead sn.2 false r.cls a 64
    match v.1 with
    | .ok b => (.bytes b, v.2)
    | .error _ => (.lost, v.2)

/-- A poll made at tick `t` works from the scan pointer, with so many slots left of its 64 (R275). -/
def pollFrom (r : StreamRec) (t : Nat) : Nat → State → State
  | 0, s => s
  | k + 1, s => if s.img.switch.isSome || stopped s then s else
    let slot := (s.stream r.id).scan
    let b := readSlot s r slot
    match b.1 with
    | .lost => b.2
    | .waits => b.2.updStream r.id fun st => { st with scanWait := some (t, k + 1) }
    | .bytes bytes =>
      let s := b.2
      if rd bytes 0 8 ≠ 1 then s
      else
        let q := parseSlot bytes
        match judgeSlot s r q t with
        | .refuse reason => pollFrom r t k (advanceScan (refuseSlot s r.id slot q.commit reason) r)
        | .accept => pollFrom r t k (advanceScan (acceptSlot s r slot q t) r)
        | .ask => s.updStream r.id fun st => { st with test5 := some { slot := slot, bytes := bytes, since := t, left := k } }

/-- A stream's ring may be polled: an image runs, and nothing has stopped intake. -/
def mayPoll (s : State) (n : Nat) : Bool :=
  !stopped s && s.img.switch.isNone && (1 ≤ (s.stream n).state && (s.stream n).state ≤ 3)

/-- A stream's ring is polled: no earlier poll waits for its test 5 or for the host's answer. -/
def polled (s : State) (n : Nat) : Bool :=
  mayPoll s n && (s.stream n).test5.isNone && (s.stream n).scanWait.isNone

/-- INTAKE_POLL (R275). -/
def execIntakePoll (stream : Fin 64) (s : State) : Host.Outcome State Fault Refusal :=
  let n := stream.val
  match s.streamRec n with
  | none => .next s
  | some r =>
    if polled s n then
      .next (pollFrom r s.now 64 (s.updStream n fun st => { st with polls := (st.polls + 1) % 2 ^ 16 }))
    else .next s

/-- The tests of a slot are made again at the tick of its poll, for what has changed meanwhile, with how its host read ended
(R277; log 60). -/
def answerTest5 (s : State) (r : StreamRec) (t5 : Test5) (reached : Bool) : State :=
  let n := r.id
  let q := parseSlot t5.bytes
  match judgeSlot s r q t5.since with
  | .refuse reason => refuseSlot s n t5.slot q.commit reason
  | _ =>
    if !reached then refuseSlot s n t5.slot q.commit 6
    else if rateFull (s.stream n) r t5.since then refuseSlot s n t5.slot q.commit 1
    else acceptSlot s r t5.slot q t5.since

/-- Test 5 ends: the slot is read again, answered, and the poll goes on (R275, R277). A slot the host has withdrawn is no longer
the one that was read, so the poll ends there; so it does where intake has stopped (R360). -/
def endTest5 (s : State) (n : Nat) (reached : Bool) : State :=
  match s.streamRec n, (s.stream n).test5 with
  | some r, some t5 =>
    let s := s.updStream n fun st => { st with test5 := none }
    if stopped s then s
    else
      let b := readSlot s r t5.slot
      match b.1 with
      | .lost => b.2
      | .waits => b.2.updStream n fun st => { st with test5 := some { t5 with ended := some reached } }
      | .bytes bytes =>
        if bytes ≠ t5.bytes then b.2
        else
          let s := answerTest5 b.2 r t5 reached
          let s := match s.img.switch with
            | some w => if w.abort then failWhere s n 7 fun q => q.slot == t5.slot else s
            | none => s
          pollFrom r t5.since t5.left (advanceScan s r)
  | _, _ => s

/-- A poll that waited for its slot reads it now (R275), and so does one whose test 5 has ended. -/
def resumePoll (s : State) (n : Nat) : State :=
  match s.streamRec n, (s.stream n).scanWait, (s.stream n).test5 with
  | some r, some w, _ =>
    let s := s.updStream n fun st => { st with scanWait := none }
    if mayPoll s n then pollFrom r w.1 w.2 s else s
  | _, none, some t5 =>
    match t5.ended with
    | some reached => endTest5 s n reached
    | none => s
  | _, _, _ => s

/-- Polls that waited go on; one whose slot still cannot be read waits again. -/
def resumePolls (s : State) : State := s.streamIds.foldl resumePoll s

/-- What a Cuff or a limit held of the host's accesses and of the polls goes on. -/
def goOn (s : State) : State := resumePolls (hostGo s)

/-- TEST5_READ_COMPLETE: the body's first 64 bytes come back, or poison or an error does (R277). A completion after
1500 ticks is discarded. -/
def execTest5ReadComplete (stream : Fin 64) (data : Option (List Byte)) (s : State) : Host.Outcome State Fault Refusal :=
  match (s.stream stream).test5.filter fun t5 => t5.ended.isNone with
  | some t5 => if s.now ≤ t5.since + 1500 then .next (abortGoesOn (endTest5 s stream data.isSome)) else .next s
  | none => .next s

/-- TEST5_READ_TIMEOUT: no completion within 1500 ticks of the poll (R277, R287). -/
def execTest5ReadTimeout (stream : Fin 64) (s : State) : Host.Outcome State Fault Refusal :=
  match (s.stream stream).test5.filter fun t5 => t5.ended.isNone with
  | some t5 => if t5.since + 1500 ≤ s.now then .next (abortGoesOn (endTest5 s stream false)) else .next s
  | none => .next s

/-! ### Body copies (R277, R287) -/

/-- The oldest request of a stream whose body is being copied, and the copy. -/
def copyingReq (s : State) (n : Nat) : Option (ReqSt × BodyCopy) :=
  (s.stream n).reqs.findSome? fun r => r.copying.map fun c => (r, c)

/-- A body copy fails: its request ends failed with reason 0x44. -/
def failCopy (s : State) (n : Nat) (r : ReqSt) : State := failRequest s n r.slot 0x44

/-- The window of a copy is bound and the host reached over it (R268, R286). -/
def copyReached (s : State) (c : BodyCopy) : Bool :=
  s.hlk.up && !ideBlocked s && (tget none s.hlk.binds c.window).isSome

/-- BODY_COPY_COMPLETE: the body lies at the start of the slot's result buffer, or the copy has failed: the host returned
poison or an error, or is no longer reached (R277). -/
def execBodyCopyComplete (stream : Fin 64) (data : Option (List Byte)) (s : State) : Host.Outcome State Fault Refusal :=
  let n := stream.val
  match copyingReq s n with
  | none => .next s
  | some (r, c) =>
    match data with
    | none => .next (failCopy s n r)
    | some bs =>
      if !copyReached s c then .next (failCopy s n r)
      else
        let s := devWrite s (s.streamClass n) (resultAddr s n r.slot) (slice bs 0 c.bytes)
        .next (updReq s n r.slot fun q => { q with copying := none })

/-- BODY_COPY_TIMEOUT: a read of the copy has had no completion for 50,000 ticks (R287). -/
def execBodyCopyTimeout (stream : Fin 64) (s : State) : Host.Outcome State Fault Refusal :=
  match copyingReq s stream with
  | some (r, c) => if c.since + 50000 ≤ s.now then .next (failCopy s stream r) else .next s
  | none => .next s

/-! ### Completion -/

/-- The reason of a completion after the promise (R60, R61, R383): the fault's, for a commit before the end of its
active period; else the throttling met; else 0x0D. -/
def lateReason (s : State) (r : ReqSt) : Nat :=
  if s.fit.faultActive then s.fit.faultReason
  else if r.commit < s.fit.faultEnd then s.fit.faultEndReason
  else if r.cause ≠ 0 then r.cause
  else 0x0D

/-- COMPLETION_WRITE: the oldest request of the stream, its steps done, ends complete; a class-0 one after its promise
late-by-fault (R58, R60, R61, R383). -/
def execCompletionWrite (stream : Fin 64) (s : State) : Host.Outcome State Fault Refusal :=
  let n := stream.val
  match (s.stream n).reqs with
  | [] => .next s
  | r :: _ =>
    if !r.started ∨ r.step.isSome ∨ r.failing.isSome then .next s
    else if s.isClass0 n ∧ r.promise < s.now - r.commit then
      let why := lateReason s r
      let s := endRequest s n r.slot 6 why
      .next (if why = 0x0D then notice s 8 0x0D n else s)
    else .next (endRequest s n r.slot 5 0)

end Sys2Proof.Machine
end

