-- ==== Sys2Proof/Machine/Power.lean ====
section
/-! DEFINITION. Power and thermal management (16): trips, converter and phase losses, switching regions on,
diode and thermistor readings with the throttling of R334 to R336, and the power cap. -/

namespace Sys2Proof.Machine

/-! ### Outputs -/

/-- Temperatures of Table 16-7 in 1/16 °C. -/
def degC (t : Nat) : Int := 16 * t

/-- The condition under which ALERT_N is low (R336). -/
def alerting (s : State) : Bool :=
  s.fit.atRisk || (s.thm.diodes.any fun d => !d.2.failed && decide (degC 95 ≤ d.2.temp)) ||
  s.pwr.envPower || s.pwr.envInput || s.pwr.envInlet || s.pwr.inletLost

/-- ALERT_N is driven: through a warm reset it holds its level, from step 1 of Table 15-2 until the first thermal sample of
the new boot (R321). -/
def alertDriven (s : State) : Bool := decide (s.rst.phase = .none) && (!s.boot.warm || s.thm.sampled)

/-- Drive ALERT_N (R336). -/
def setAlert (s : State) : State :=
  if alertDriven s then { s with pins := { s.pins with alertN := !alerting s } } else s

/-- PWR_STATUS.phase_lost (16.7). -/
def phaseLost (s : State) : State :=
  { s with pwr := { s.pwr with phaseLost := true, phaseSets := satInc 8 s.pwr.phaseSets } }

/-- The health of a regulator changes: cached verdicts cease to be current, and the running image is
re-checked (R35, R62). -/
def regulatorChange (s : State) : State :=
  let s := staleVerdicts s
  if s.img.running.isSome then
    { s with fit := { s.fit with recheckDue := some (s.fit.recheckDue.getD s.now) } } else s

/-- A trip (R339): FAULT_N low, every rail but VAON off, PWR_GOOD low, the cause recorded, both optical ports dark (R378,
R379). -/
def trip (s : State) (cause : Nat) : State :=
  if s.pwr.off then s
  else { s with pins := { s.pins with faultN := false, pwrGood := false },
                pwr := { s.pwr with off := true, tripCause := cause }
                hlk := { s.hlk with up := false, width := 0, rate := 0, mgmtUp := false, mgmtLit := false } }

/-- The 50 V input of a tripped module goes, and VAON with it: FAULT_N and ALERT_N float high, and PWR_STATUS is lost
(R339, R371, R375). -/
def loseInput (s : State) : State :=
  { s with pins := { faultN := true, alertN := true, pwrGood := false }, pwr := { off := true, inputGone := true } }

/-- INPUT_UNDERVOLTAGE (R325, R339): a trip, for which the input has gone already; a module that is off loses its input
(log 74). -/
def execInputUndervoltage (s : State) : Host.Outcome State Fault Refusal :=
  if s.pwr.off then .next (loseInput s)
  else .next { trip s 2 with pwr := { (trip s 2).pwr with inputGone := true } }

/-- INPUT_OVERVOLTAGE (R325, R339). -/
def execInputOvervoltage (s : State) : Host.Outcome State Fault Refusal := .next (trip s 3)

/-! ### Throttle levels -/

/-- Set a cluster's throttle level. -/
def setLevel (s : State) (c l : Nat) : State := { s with thm := { s.thm with level := tput 0 s.thm.level c l } }

/-- Guarantee void (R60): FIT_STATUS.void, an event, and the cause of the class-0 requests that run on the
partition. -/
def raiseVoid (s : State) (p : Nat) : State :=
  let s := { s with fit := { s.fit with void := true, voidSets := satInc 8 s.fit.voidSets } }
  let s := logEvent s { cls := 0, source := 8, stream := 0xFF, detail := p }
  s.streamIds.foldl (fun s n =>
    if s.isClass0 n && (s.clustersOfStream n).any fun c => partOfCluster c == p then
      s.updStream n fun st => { st with reqs := st.reqs.map fun r =>
        if r.started && r.cause == 0 then { r with cause := 0x0C } else r }
    else s) s

/-- Set the levels of clusters of a partition, raising void where a class-0 cluster leaves level 0. -/
def applyLevels (s : State) (p : Nat) (ls : List (Nat × Nat)) : State :=
  let before := partThrottled s p
  let s := ls.foldl (fun s e => setLevel s e.1 e.2) s
  if !before && partThrottled s p then raiseVoid s p else s

/-- Clusters of classes 1–7 of a partition. -/
def lowClusters (s : State) (p : Nat) : List Nat := clustersByClass s p (· != 0)
/-- Class-0 clusters of a partition. -/
def highClusters (s : State) (p : Nat) : List Nat := clustersByClass s p (· == 0)

/-- Clusters of classes 1–7 of the module. -/
def allLow (s : State) : List Nat := (List.range 4).flatMap (lowClusters s)

/-- One step up. -/
def upOne (l : Nat) : Nat := min 4 (l + 1)

/-! ### Sensor readings -/

/-- Diodes that serve a partition (Table 16-6). -/
def servingDiodes (p : Nat) : List Nat :=
  [3 * p, 3 * p + 1, 3 * p + 2, 12 + 2 * p, 13 + 2 * p] ++ (if p < 2 then [20, 21] else [22, 23])

/-- Partitions a diode serves. -/
def servedBy (d : Nat) : List Nat := (List.range 4).filter fun p => (servingDiodes p).contains d

/-- A diode. -/
def State.diode (s : State) (d : Nat) : Diode := tget {} s.thm.diodes d

/-- Every diode that serves a partition has failed (R333). -/
def partBlind (s : State) (p : Nat) : Bool := (servingDiodes p).all fun d => (s.diode d).failed

/-- A partition's sensor reading in 1/16 °C: the highest of its diodes, or its soft limit − 3 °C when all have
failed. -/
def partTemp (s : State) (p : Nat) : Int :=
  let ts := ((servingDiodes p).filter fun d => !(s.diode d).failed).map fun d => (s.diode d).temp
  match ts with
  | [] => degC 92
  | t :: ts => ts.foldl max t

/-- Interval code of a reading (R332). -/
def intervalOf (t : Int) : Nat := if degC 92 ≤ t then 2 else if degC 87 ≤ t then 1 else 0

/-- Guarantee at risk of a partition (R336): its level is looked at as it stood before the reading. -/
def newRisk (s : State) (p : Nat) : Bool :=
  let t := partTemp s p
  let r := tget false s.thm.risk p
  if (highClusters s p).isEmpty then false
  else if degC 92 ≤ t ∧ (lowClusters s p).all (fun c => s.level c == 4) then true
  else if t < degC 90 then false else r

/-- The last measured power is no more than 95 % of the image's power_cap, so that the power rule asks no cluster of classes
1–7 to hold its level (R337; log 57). -/
def powerLetsDown (s : State) : Bool :=
  match s.img.running with
  | some im => decide (100 * s.pwr.watts ≤ 95 * im.envelope.powerCap)
  | none => true

/-- The power rule asks for class-0 clusters to step up: every cluster of classes 1–7 is at level 4, and input power has
stayed above power_cap for 1 ms (R337). -/
def powerAsksHigh (s : State) : Bool :=
  (allLow s).all (fun c => s.level c == 4) && s.pwr.capSince.any fun t => decide (t + 1000000 ≤ s.now)

/-- New levels of a partition at a reading: R334 and R335 from the levels before it, the hard limit above
both and over every cluster of the partition. No level steps down while the power rule asks for a higher one (R337;
log 57). -/
def stepLevels (s : State) (p : Nat) : List (Nat × Nat) :=
  let t := partTemp s p
  let low := lowClusters s p
  let high := highClusters s p
  let lowFull := low.all fun c => s.level c == 4
  let highUp := high.any fun c => decide (0 < s.level c)
  if degC 100 ≤ t then (clustersOf p).map fun c => (c, 4)
  else
    (low.map fun c =>
      let l := s.level c
      (c, if partBlind s p then 4 else if degC 90 ≤ t then upOne l else if t ≤ degC 87 ∧ !highUp ∧ powerLetsDown s then l - 1
          else l)) ++
    (high.map fun c =>
      let l := s.level c
      (c, if degC 95 ≤ t ∧ lowFull then upOne l else if t ≤ degC 92 ∧ !powerAsksHigh s then l - 1 else l))

/-- A reading of a partition (R334 to R336). -/
def partReading (s : State) (p : Nat) : State :=
  let risk := newRisk s p
  let at4 := (clustersOf p).filter fun c => s.level c == 4
  let s := applyLevels s p (stepLevels s p)
  let s := { s with thm := { s.thm with
      risk := tput false s.thm.risk p risk
      level4 := at4.foldl (fun t c => tupd 0 t c (satInc 16)) s.thm.level4 } }
  { s with fit := { s.fit with atRisk := (List.range 4).any fun q => tget false s.thm.risk q } }

/-- A value read as signed 1/16 °C. -/
def sensorValue (r : Option (BitVec 16)) : Option Int := r.map fun b => sext 16 b.toNat

/-- The bonded channels of a stack refresh at twice the rate above 85 °C (R245). -/
def stackHot (s : State) (d : Nat) (t : Int) : State :=
  if 20 ≤ d then
    (List.range 4).foldl (fun s k => s.updMc false (4 * (d - 20) + k) fun m => { m with hot := decide (degC 85 < t) }) s
  else s

/-- THERMAL_SAMPLE: one diode is read (R332 to R336, R339). -/
def execThermalSample (d : Fin 24) (reading : Option (BitVec 16)) (s : State) : Host.Outcome State Fault Refusal :=
  if !s.pins.pwrGood then .next s
  else
    let old := s.diode d
    let good := match sensorValue reading with
      | some t => if -(degC 40) ≤ t ∧ t ≤ degC 150 then some t else none
      | none => none
    let s := match good with
      | none =>
        let s := { s with thm := { s.thm with diodes := tput {} s.thm.diodes d { old with failed := true } } }
        if old.failed then s else correction s 0x0C 0 0 0 d
      | some t =>
        stackHot { s with thm := { s.thm with
          diodes := tput {} s.thm.diodes d { failed := false, interval := intervalOf t, temp := t } } } d t
    let s := { s with thm := { s.thm with sampled := s.thm.sampled || decide (s.rst.phase = .none) } }
    let s := setAlert ((servedBy d).foldl partReading s)
    .next (match good with
      | some t => if degC 105 ≤ t then trip s 1 else s
      | none => s)

/-- THERMISTOR_SAMPLE: a thermistor is read, the operand being the temperature that R331's curve gives (log 92); NTC0 is
compared with inlet_max (R333, R338). -/
def execThermistorSample (j : Fin 4) (reading : Option (BitVec 16)) (s : State) : Host.Outcome State Fault Refusal :=
  if !s.pins.pwrGood then .next s
  else
    let old : Diode := tget {} s.thm.ntcs j
    let good := match sensorValue reading with
      | some t => if -(degC 30) ≤ t ∧ t ≤ degC 150 then some t else none
      | none => none
    let v : Diode := match good with
      | some t => { failed := false, temp := t }
      | none => { old with failed := true }
    let s := { s with thm := { s.thm with ntcs := tput {} s.thm.ntcs j v } }
    if j.val ≠ 0 then .next s
    else
      let s := if v.failed && !s.pwr.inletLost then correction s 0x0C 0 0 0 24 else s
      let s := { s with pwr := { s.pwr with inletLost := v.failed } }
      let s := match good, s.img.running with
        | some t, some im =>
          if 16 * (im.envelope.inletMax : Int) < 10 * t then
            let s := if s.pwr.envInlet then s else logEvent s { cls := 0, source := 0x0C, stream := 0xFF }
            { s with pwr := { s.pwr with envInlet := true } }
          else s
        | _, _ => s
      .next (setAlert s)

/-! ### Input power (R337, R338) -/

/-- The power rule moves the levels of one partition: up above the cap, down at 95 % of it where R334 lets a level step
down too (R337; log 57). -/
def powerLevels (s : State) (p : Nat) (over_ under class0Up : Bool) : List (Nat × Nat) :=
  let highUp := (highClusters s p).any fun c => decide (0 < s.level c)
  let cool := decide (partTemp s p ≤ degC 87)
  ((lowClusters s p).map fun c =>
    let l := s.level c
    (c, if over_ then upOne l else if under && cool && !highUp then l - 1 else l)) ++
  (if class0Up then (highClusters s p).map fun c => (c, upOne (s.level c)) else [])

/-- POWER_SAMPLE: input power and voltage averaged over 100 µs (R337, R338). -/
def execPowerSample (watts volts : BitVec 16) (s : State) : Host.Outcome State Fault Refusal :=
  if !s.pins.pwrGood then .next s
  else
    let s := { s with pwr := { s.pwr with watts := watts.toNat, volts := volts.toNat } }
    match s.img.running with
    | none => .next s
    | some im =>
      let cap := im.envelope.powerCap
      let over_ := decide (cap < watts.toNat)
      let under := decide (100 * watts.toNat ≤ 95 * cap)
      let s := { s with pwr := { s.pwr with capSince := if over_ then some (s.pwr.capSince.getD s.now) else none } }
      let c0 := powerAsksHigh s
      let s := { s with pwr := { s.pwr with envPower := s.pwr.envPower || c0 } }
      let s := (List.range 4).foldl (fun s p => applyLevels s p (powerLevels s p over_ under c0)) s
      let s := if volts.toNat < 10 * im.envelope.inputMin then
          let s := if s.pwr.envInput then s else logEvent s { cls := 0, source := 0x0C, stream := 0xFF, detail := 1 }
          { s with pwr := { s.pwr with envInput := true } }
        else s
      .next (setAlert s)

/-! ### Converters and phases (R323, R324, R327) -/

/-- A regulator loss as a fault under 3.7 (Table 18-2). -/
def regulatorFault (s : State) (detail : Nat) : State :=
  faultEvent s { cls := 3, source := 0x0B, stream := 0xFF, reason := 0x0A, detail := detail }

/-- BUS_CONVERTER_FAIL (R324): classes 1–7 to level 4, the available current cut, a fault. -/
def execBusConverterFail (k : Fin 2) (s : State) : Host.Outcome State Fault Refusal :=
  if !bit s.pwr.bcvOk k || s.pwr.off then .next s
  else
    let s := phaseLost { s with pwr := { s.pwr with bcvOk := clrBit s.pwr.bcvOk k } }
    let s := (allLow s).foldl (fun s c => setLevel s c 4) s
    .next (regulatorChange (regulatorFault s k))

/-- STAGE_TWO_PHASE_LOSS (R323): the available current of the rail follows its healthy phases; a converter
phase's loss is a fault (3.7). -/
def execStageTwoPhaseLoss (vcache : Bool) (s : State) : Host.Outcome State Fault Refusal :=
  let left := if vcache then s.pwr.vcachePhases else s.pwr.vcmpPhases
  if left = 0 ∨ s.pwr.off then .next s
  else
    let s := phaseLost { s with pwr := if vcache then { s.pwr with vcachePhases := left - 1 }
                                       else { s.pwr with vcmpPhases := left - 1 } }
    .next (regulatorChange (regulatorFault s 0))

/-- ON_DIE_PHASE_LOSS (R327): the first loss halves the cluster's clock, the second fences the cluster. -/
def execOnDiePhaseLoss (c : Fin 68) (phase : Fin 4) (s : State) : Host.Outcome State Fault Refusal :=
  let r := s.region c
  if !bit r.phasesOk phase || s.pwr.off then .next s
  else
    let s := phaseLost (s.setRegion c { r with phasesOk := clrBit r.phasesOk phase })
    if r.phasesOk = 0xF then .next (regulatorChange (floorChange s 1 c 1 4 phase))
    else
      let s := s.setRegion c { s.region c with gated := true, waiting := false, closing := false }
      .next (regulatorChange (fenceCluster s c 4 phase))

/-! ### Regions (R326, R328) -/

/-- A region asks to be switched on. -/
def requestOn (s : State) (c : Nat) : State :=
  let r := s.region c
  if r.gated && !r.waiting && s.inService 1 c then s.setRegion c { r with waiting := true, since := s.now } else s

/-- A region is gated. -/
def gateRegion (s : State) (c : Nat) : State :=
  s.setRegion c { s.region c with gated := true, waiting := false, closing := false, forced := false }

/-- Regions follow the running image's binding: bound clusters in service are switched on, the others gated
(R326). -/
def followBinding (s : State) : State :=
  (List.range 68).foldl (fun s c =>
    if (s.ownerOf c).isSome && s.inService 1 c then requestOn s c else gateRegion s c) s

/-- The waiting region that is next: the lowest, while no admitted region's stages are closing. -/
def nextRegion (s : State) : Option Nat :=
  if (List.range 68).any fun c => (s.region c).closing then none
  else (List.range 68).find? fun c => (s.region c).waiting

/-- Admit a region: its header stages close for 24 µs; its trim below VCMP is a free value of at most
100 mV. -/
def admitRegion (s : State) (c : Nat) (forced : Bool) : State :=
  let d := s.drawWord
  d.2.setRegion c { s.region c with waiting := false, gated := false, closing := true, forced := forced,
                                    trim := d.1.toNat % 101 }

/-- REGION_SWITCH_ON: admission when headroom covers the in-rush estimate of 8 A, headroom being the available
current less the measured one less 5 % (R328). -/
def execRegionSwitchOn (c : Fin 68) (measured : Nat) (s : State) : Host.Outcome State Fault Refusal :=
  let av := (availAmps s).1
  if nextRegion s = some c.val ∧ 100 * (measured + 8) ≤ 95 * av then .next (admitRegion s c false) else .next s

/-- SWITCH_ON_FORCED: a region that has waited 150 µs is admitted whatever the headroom (R328). -/
def execSwitchOnForced (c : Fin 68) (s : State) : Host.Outcome State Fault Refusal :=
  if nextRegion s = some c.val ∧ (s.region c).since + 150000 ≤ s.now then .next (admitRegion s c true) else .next s

/-- REGION_SWITCH_ON_END: the 64 stages of a region have ended (R328). -/
def execRegionSwitchOnEnd (c : Fin 68) (s : State) : Host.Outcome State Fault Refusal :=
  let r := s.region c
  if r.closing then .next (s.setRegion c { r with closing := false, forced := false }) else .next s

/-! ### The random source -/

/-- RNG_HEALTH_FAIL (R352): rng_ok is cleared, and no new SPDM session starts. -/
def execRngHealthFail (s : State) : Host.Outcome State Fault Refusal :=
  if s.sec.rngOk then
    .next (logEvent { s with sec := { s.sec with rngOk := false } } { cls := 3, source := 0x0D, stream := 0xFF })
  else .next s

end Sys2Proof.Machine
end

