-- ==== Sys2Proof/Machine/SpecialFn.lean ====
section
/-! DEFINITION. Special functions and row statistics as functions of values (chapter 09): segment evaluation,
built-in and loadable tables in native and Exzia 410 compatibility mode, and ROWSTAT. -/

namespace Sys2Proof.Machine

/-- log2 e rounded (Table 9-2). -/
def kL2E : Word := 0x3FB8AA3B
/-- 1.702 rounded (Table 9-2). -/
def k1702 : Word := 0x3FD9DB23
/-- 1. -/
def one32 : Word := 0x3F800000

/-- A coefficient of the ROM: every coefficient of a built-in table is finite (R178), so an infinity or NaN of the
free value counts as the word with that exponent's lowest bit clear. -/
def finCoef (w : Word) : Word := if isFin32 w then w else w &&& 0xFF7FFFFF

/-- Coefficients of a ROM table: c0[0] of the native tables is fixed by R181, the rest are the ROM's. -/
def romCoef (compat : Bool) (fn k : Nat) : Word × Word :=
  let r := (finCoef (Config.rom compat fn k).1, finCoef (Config.rom compat fn k).2)
  if compat || k != 0 then r
  else match fn with
    | 0 => (one32, r.2)
    | 1 => (0, r.2)
    | 2 => (one32, r.2)
    | 3 => (one32, r.2)
    | 8 => (one32, r.2)
    | _ => r

/-- The value of a lookup at offset t of a segment (R179): P exact in native mode, Q of two roundings in
compatibility mode, each an infinity of its sign beyond the range (R180). -/
def lookup (compat : Bool) (c : Word × Word) (t : Dy) : Val :=
  if compat then val32 (fadd32 (round32 ((dy32 c.2).mul t)) c.1)
  else ((dy32 c.1).add ((dy32 c.2).mul t)).val

/-- Read a ROM table at a coordinate. -/
def romAt (compat : Bool) (fn : Nat) (u : Dy) : Val :=
  let k := u.floor
  lookup compat (romCoef compat fn k.toNat) (u.sub (Dy.ofInt k))

/-- Exponent and mantissa m in [1, 2) of a positive finite value. -/
def normParts (m : Nat) (e : Int) : Int × Dy :=
  let k := Nat.log2 m
  (e + k, ⟨m, -(k : Int)⟩)

/-- Coordinate 16(m − 1) of a mantissa. -/
def coord16 (m : Dy) : Dy := (m.sub (Dy.ofInt 1)).scale 4

/-- exp2 (fn 0x00). -/
def fnExp2 (compat : Bool) (x : Word) : Word :=
  match val32 x with
  | .nan => nan32
  | .inf n => if n then 0 else inf32 false
  | .fin n m e =>
    if m = 0 then one32
    else
      let d := (Val.fin n m e).dy
      let k := d.floor
      if 128 ≤ k then inf32 false
      else (romAt compat 0 ((d.sub (Dy.ofInt k)).scale 4)).through inf32 fun y => round32 (y.scale k)

/-- log2 (fn 0x01). -/
def fnLog2 (compat : Bool) (x : Word) : Word :=
  match val32 x with
  | .nan => nan32
  | .inf n => if n then nan32 else inf32 false
  | .fin n m e =>
    if m = 0 then inf32 true
    else if n then nan32
    else
      let p := normParts m e
      (romAt compat 1 (coord16 p.2)).through inf32 fun y => round32 ((Dy.ofInt p.1).add y)

/-- reciprocal (fn 0x02). -/
def fnRecip (compat : Bool) (x : Word) : Word :=
  match val32 x with
  | .nan => nan32
  | .inf n => if n then 0x80000000 else 0
  | .fin n m e =>
    if m = 0 then inf32 n
    else
      let p := normParts m e
      (romAt compat 2 (coord16 p.2)).through (fun m => inf32 (m != n)) fun q =>
        let y := q.scale (-p.1)
        round32 (if n then y.neg else y) n

/-- Even exponent and mantissa in [1, 4) of a positive finite value. -/
def evenParts (m : Nat) (e : Int) : Int × Dy :=
  let p := normParts m e
  if p.1 % 2 = 0 then p else (p.1 - 1, p.2.scale 1)

/-- Coordinate of the square-root tables: native 32 segments, compatibility 16 (Tables 9-1, 9-6). -/
def coordRoot (compat : Bool) (m : Dy) : Dy :=
  let s : Int := if compat then 3 else 4
  if m.lt (Dy.ofInt 2) then (m.sub (Dy.ofInt 1)).scale s
  else (Dy.ofInt (2 ^ s.toNat)).add ((m.sub (Dy.ofInt 2)).scale (s - 1))

/-- reciprocal square root (fn 0x03). -/
def fnRsqrt (compat : Bool) (x : Word) : Word :=
  match val32 x with
  | .nan => nan32
  | .inf n => if n then nan32 else 0
  | .fin n m e =>
    if m = 0 then inf32 n
    else if n then nan32
    else
      let p := evenParts m e
      (romAt compat 3 (coordRoot compat p.2)).through inf32 fun y => round32 (y.scale (-(p.1 / 2)))

/-- square root (fn 0x08): native in either mode (R192). -/
def fnSqrt (x : Word) : Word :=
  match val32 x with
  | .nan => nan32
  | .inf n => if n then nan32 else inf32 false
  | .fin n m e =>
    if m = 0 then x
    else if n then nan32
    else
      let p := evenParts m e
      (romAt false 8 (coordRoot false p.2)).through inf32 fun y => round32 (y.scale (p.1 / 2))

/-- |x|. -/
def abs32 (x : Word) : Word := x &&& 0x7FFFFFFF

/-- The end of segment 15 of a compatibility table: offset 1. -/
def romHold (fn : Nat) : Val := lookup true (romCoef true fn 15) (Dy.ofInt 1)

/-- A direct compatibility table on |x| at scale 2^s, held beyond 16 segments (Table 9-6). -/
def romDirect (fn : Nat) (x : Word) (s : Int) : Val :=
  let u := (dy32 (abs32 x)).scale s
  if u.lt (Dy.ofInt 16) then romAt true fn u else romHold fn

/-- sigmoid (fn 0x04): exactly 1 from 18 in native mode (Table 9-1, R181). -/
def fnSigmoid (compat : Bool) (x : Word) : Word :=
  match val32 x with
  | .nan => nan32
  | .inf n => if n then 0 else one32
  | .fin n m _ =>
    if m = 0 then 0x3F000000
    else if compat then
      (romDirect 4 x 1).through (fun m => inf32 (m != n)) fun q =>
        if n then round32 ((Dy.ofInt 1).sub q) else round32 q
    else if !n && !(dy32 x).lt (Dy.ofInt 18) then one32
    else
      let sv := fmul32 (fneg32 x) kL2E
      fnRecip false (fadd32 one32 (fnExp2 false sv))

/-- tanh (fn 0x05): exactly ±1 from magnitude 9 in native mode (Table 9-1, R181). -/
def fnTanh (compat : Bool) (x : Word) : Word :=
  match val32 x with
  | .nan => nan32
  | .inf n => if n then 0xBF800000 else one32
  | .fin n m _ =>
    if m = 0 then x
    else if compat then
      let q := (romDirect 5 x 2).through inf32 fun y => round32 y
      if n then fneg32 q else q
    else
      let a := abs32 x
      if flt32 a 0x3D800000 then x
      else if !(dy32 a).lt (Dy.ofInt 9) then (if n then 0xBF800000 else one32)
      else
        let e := fnExp2 false (round32 ((dy32 a).scale 1 |>.neg |>.mul (dy32 kL2E)))
        let y := fmul32 (fsub32 one32 e) (fnRecip false (fadd32 one32 e))
        if n then fneg32 y else y

/-- erf rectifier, exact form (fn 0x06). -/
def fnErf (compat : Bool) (x : Word) : Word :=
  match val32 x with
  | .nan => nan32
  | .inf n => if n then 0x80000000 else inf32 false
  | .fin n m _ =>
    if m = 0 then x
    else
      let a := dy32 (abs32 x)
      if a.lt (Dy.ofInt 4) then
        (romAt compat 6 (a.scale 2)).through inf32 fun p =>
          if !n then round32 ((dy32 x).mul p)
          else if compat then fmul32 x (round32 ((Dy.ofInt 1).sub p))
          else round32 ((dy32 x).mul ((Dy.ofInt 1).sub p)) true
      else if n then 0x80000000 else x

/-- erf rectifier, approximation (fn 0x07). -/
def fnErfApprox (compat : Bool) (x : Word) : Word :=
  match val32 x with
  | .nan => nan32
  | .inf n => if n then 0x80000000 else inf32 false
  | .fin _ m _ => if m = 0 then x else fmul32 x (fnSigmoid compat (fmul32 x k1702))

/-- ra ÷ rb (fn 0x09). -/
def fnDiv (compat : Bool) (a b : Word) : Word := fmul32 a (fnRecip compat b)

/-- A built-in function and the flags it sets (R182): a pole sets nothing. -/
def builtin (compat : Bool) (fn : Nat) (a b : Word) : Word × Nat :=
  let y := match fn with
    | 0 => fnExp2 compat a
    | 1 => fnLog2 compat a
    | 2 => fnRecip compat a
    | 3 => fnRsqrt compat a
    | 4 => fnSigmoid compat a
    | 5 => fnTanh compat a
    | 6 => fnErf compat a
    | 7 => fnErfApprox compat a
    | 8 => fnSqrt a
    | _ => fnDiv compat a b
  let two := fn == 9
  let nanArg := isNan32 a || (two && isNan32 b)
  let zero := fun w => feq32 w 0
  let pole := ((fn == 2 || fn == 3) && zero a) || (two && (zero a || zero b))
  let finArgs := isFin32 a && (!two || isFin32 b)
  (y, (if nanArg then flNanIn else 0) ||| (if isNan32 y && !nanArg then flNv else 0) |||
      (if isInf32 y && finArgs && !pole then flOf else 0))

/-- A loadable table at an argument (R184) with the flags of R182. -/
def loadable (compat : Bool) (t : TblRec) (x : Word) : Word × Nat :=
  if isNan32 x then (nan32, flNanIn)
  else
    let sSeg : Nat := 2 ^ t.segLog2
    let a := if t.symmetry = 0 then x else abs32 x
    let d := fsub32 a t.lo
    let coef := fun k => t.coef.getD k (0, 0)
    let flip := t.symmetry == 2 && neg32 x
    -- the result from an exact value v
    let fin := fun (v : Dy) =>
      let v := if flip then v.neg else v
      if t.postMul then
        match val32 x with
        | .inf n => if v.m = 0 then nan32 else inf32 (n != decide (v.m < 0))
        | _ => round32 ((dy32 x).mul v) (neg32 x != flip)
      else round32 v flip
    let finInf := fun (n : Bool) =>
      let n := n != flip
      if t.postMul then (if feq32 x 0 then nan32 else inf32 (n != neg32 x)) else inf32 n
    let at_ := fun (k : Nat) (o : Dy) => (lookup compat (coef k) o).through finInf fin
    let edge := fun (rule k : Nat) (hold : Dy) (off : Val) =>
      match rule with
      | 0 => at_ k hold
      | 1 =>
        match off with
        | .inf n => if feq32 (coef k).2 0 then nan32 else finInf (n != neg32 (coef k).2)
        | v => at_ k v.dy
      | _ => nan32
    let u : Val := match val32 d with
      | .fin n m e => if m ≠ 0 ∧ 128 ≤ ilog m 1 (e + t.q) then .inf n else .fin n m (e + t.q)
      | v => v
    let y := match u with
      | .nan => nan32
      | .inf n =>
        if n then edge t.below 0 (Dy.ofInt 0) u
        else edge t.above (sSeg - 1) (Dy.ofInt 1) u
      | .fin .. =>
        let ud := u.dy
        if ud.m < 0 then edge t.below 0 (Dy.ofInt 0) u
        else if ud.lt (Dy.ofInt sSeg) then
          let k := ud.floor
          at_ k.toNat (ud.sub (Dy.ofInt k))
        else edge t.above (sSeg - 1) (Dy.ofInt 1) (val32 (round32 (ud.sub (Dy.ofInt (sSeg - 1)))))
    (y, (if isNan32 y then flNv else 0) ||| (if isInf32 y && isFin32 x then flOf else 0))

/-! ### Row statistics (9.6) -/

/-- Round Σ ÷ n once; a zero result is +0. -/
def roundMean (d : Dy) (n : Nat) : Word :=
  if d.m = 0 then 0
  else
    let w := round32q (decide (d.m < 0)) d.m.natAbs n d.e
    if feq32 w 0 then 0 else w

/-- Round an exact sum; a zero result is +0. -/
def roundSum (d : Dy) : Word := let w := round32 d; if feq32 w 0 then 0 else w

/-- The maximum under −∞ < … < −0 < +0 < … < +∞; a zero is written +0. -/
def rowMaximum (xs : List Word) : Word :=
  let m := xs.foldl (fun m x => fminmax32 true m x) (xs.headD 0)
  if feq32 m 0 then 0 else m

/-- ROWSTAT of a row (R194 to R197): the two results and the flags. `eps` is rd + 1 at issue. -/
def rowStat (op : Nat) (xs : List Word) (eps : Word) : Word × Word × Nat :=
  if xs.any isNan32 then (nan32, nan32, flNanIn)
  else
    let n := xs.length
    let pos := xs.any fun x => isInf32 x && !neg32 x
    let neg := xs.any fun x => isInf32 x && neg32 x
    let sum : Dy := xs.foldl (fun (s : Dy) x => s.add (dy32 x)) (⟨0, 0⟩ : Dy)
    let ofIf := fun (w : Word) => if isInf32 w then flOf else 0
    let sumLike := fun (w : Word) =>
      if pos && neg then (nan32, flNv)
      else if pos then (inf32 false, 0)
      else if neg then (inf32 true, 0)
      else (w, ofIf w)
    let mean := sumLike (roundMean sum n)
    let var : Word × Nat :=
      if pos || neg then (nan32, flNv)
      else
        let m := dy32 mean.1
        let q : Dy := xs.foldl (fun (s : Dy) x => s.add ((dy32 x).mul (dy32 x))) (⟨0, 0⟩ : Dy)
        let d : Dy := (q.sub ((m.mul sum).scale 1)).add ((m.mul m).mul (Dy.ofInt n))
        let w := roundMean d n
        (w, ofIf w)
    let mx := rowMaximum xs
    match op with
    | 0 => (mx, 0, 0)
    | 1 => let r := sumLike (roundSum sum); (r.1, 0, r.2)
    | 2 => (mean.1, 0, mean.2)
    | 3 => (mean.1, var.1, mean.2 ||| var.2)
    | 4 =>
      let mt := xs.foldl (fun m x => fminmax32 true m x) (xs.headD 0)
      if isInf32 mt && neg32 mt then (mt, 0, 0)
      else
        let term := fun x =>
          if feq32 x mt then Dy.ofInt 1
          else if isInf32 mt || isInf32 x then Dy.ofInt 0
          else dy32 (fnExp2 false (round32 (((dy32 x).sub (dy32 mt)).mul (dy32 kL2E))))
        let w := roundSum (xs.foldl (fun (s : Dy) x => s.add (term x)) (⟨0, 0⟩ : Dy))
        (mx, w, ofIf w)
    | _ =>
      if isNan32 var.1 then (mean.1, nan32, mean.2 ||| flNv)
      else if isNan32 eps then (mean.1, nan32, mean.2 ||| flNanIn)
      else
        let v := fadd32 var.1 eps
        let r := fnRsqrt false v
        (mean.1, if feq32 r 0 then 0 else r,
          mean.2 ||| var.2 ||| (if isNan32 r then flNv else 0))

end Sys2Proof.Machine
end

