-- ==== Sys2Proof/Machine/Regs.lean ====
section
/-! DEFINITION. What a read of control space returns: every register of the spec's register tables, by block
(0.5, 1.2). An offset no table lists reads zero (R9); reserved fields read zero (R7), WO fields read zero. -/

namespace Sys2Proof.Machine

/-- A field placed at its low bit. -/
def fAt (v lo : Nat) : Nat := v * 2 ^ lo
/-- A flag placed at its bit. -/
def bAt (b : Bool) (lo : Nat) : Nat := b2n b * 2 ^ lo
/-- The word at a byte offset of a structure. -/
def wordOf (bs : List Byte) (off : Nat) : Nat := rd bs (off / 4 * 4) 4
/-- Bits gathered from a test. -/
def gather (n : Nat) (p : Nat → Bool) : Nat := ((List.range n).map fun i => bAt (p i) i).sum
/-- Two-bit fields gathered. -/
def gather2 (n : Nat) (f : Nat → Nat) : Nat := ((List.range n).map fun i => fAt (f i % 4) (2 * i)).sum

/-! ### Floor plan (1.7) -/

/-- Bytes 0x00 to 0xFB of the floor plan record (Table 1-8). -/
def planBody (f delivered : FloorPlan) : List Byte :=
  let same := f.cluster == delivered.cluster && f.core == delivered.core && f.slice == delivered.slice &&
    f.bc == delivered.bc && f.lp == delivered.lp
  leBytes 4 0x4E504C46 ++ leBytes 2 1 ++ leBytes 2 0x100 ++ leBytes 4 f.generation ++ leBytes 4 (b2n same) ++
  leBytes 1 (f.enabled 1).length ++ leBytes 1 (f.enabled 3).length ++ leBytes 2 (f.enabled 2).length ++
  leBytes 1 (f.enabled 4).length ++ leBytes 1 (f.enabled 5).length ++ leBytes 2 0 ++
  leBytes 17 (gather2 68 (f.get 1)) ++ leBytes 7 0 ++ leBytes 34 (gather 272 fun i => f.get 2 i != 3) ++ leBytes 6 0 ++
  leBytes 32 (gather2 128 (f.get 3)) ++ leBytes 4 (gather2 16 (f.get 4)) ++ leBytes 4 (gather2 16 (f.get 5)) ++
  leBytes 4 f.seamSpared ++ leBytes 2 f.dramSpared ++ leBytes 2 0 ++ leBytes 8 f.changedAt ++ leBytes 16 f.sliceSet ++
  leBytes 2 f.bcSet ++ leBytes 90 0

/-- The 256 bytes of the floor plan record. -/
def planBytes (f delivered : FloorPlan) : List Byte :=
  let b := planBody f delivered
  b ++ leBytes 4 (crc32c b)

/-- A floor plan delta (Table 1-9). -/
def deltaBytes (d : Delta) : List Byte :=
  leBytes 4 d.generation ++ leBytes 1 d.unitType ++ leBytes 1 0 ++ leBytes 2 d.unitId ++
  leBytes 1 (d.old % 4 + 4 * (d.new % 4)) ++ leBytes 1 d.reason ++ leBytes 2 d.detail ++ leBytes 4 d.stamp

/-- FLP_STATUS.below_delivery (Table 1-7). -/
def belowDelivery (f : FloorPlan) : Bool :=
  decide ((f.enabled 1).length < 64) || decide ((f.enabled 2).length < 256) || decide ((f.enabled 3).length < 124) ||
  decide ((f.enabled 4).length < 16) || decide ((f.enabled 5).length < 16)

/-! ### Boot (14.2, 14.9) -/

/-- Bit of a unit in the progress field (Table 14-3). -/
def unitBit : UnitRef → Nat
  | .core c => c
  | .slice s => 272 + s
  | .palm s => 272 + s
  | .bonded c => 400 + c
  | .lpddr c => 416 + c
  | .cluster c => 432 + c
  | .partition _ => 511

/-- Bits of a list of units. -/
def unitBits (us : List UnitRef) : Nat := us.foldl (fun m u => if unitBit u < 500 then setBit m (unitBit u) else m) 0

/-- A boot record (Table 14-3). -/
def bootBytes (r : BootRec) : List Byte :=
  leBytes 4 0x474C5342 ++ leBytes 2 r.number ++ leBytes 1 r.cause ++ leBytes 1 (b2n r.fwB) ++ leBytes 8 r.startStamp ++
  leBytes 4 r.fwVersion ++ leBytes 1 r.incomplete ++ leBytes 1 r.wdStep ++ leBytes 1 r.terminalStep ++ leBytes 9 0 ++
  leBytes 64 (unitBits r.progress) ++ (List.range 14).flatMap fun k =>
    let x : BootStep := tget {} r.steps (k + 1)
    leBytes 1 x.outcome ++ leBytes 1 x.alt ++ leBytes 2 x.fenced ++ leBytes 4 0 ++ leBytes 4 x.start ++ leBytes 4 x.stop

/-- The Lining holds boot records only once a boot has written them. -/
def bootRecBytes (r : BootRec) : List Byte := if r = {} then leBytes 320 0 else bootBytes r

/-- The BOOT_ALT layout. -/
def bootAlt (b : Boot) : Nat := fAt b.slotSkip 8 + bAt b.imageSkip 3 + bAt b.fwAlt 2 + b.linkLimit

/-- Registers of the Crown and mailbox block. -/
def crownReg (s : State) (o : Nat) : Nat :=
  let b := s.boot
  if 0x2000 ≤ o ∧ o < 0x2100 then wordOf (planBytes s.flp.cur s.flp.delivered) (o - 0x2000)
  else if o = 0x2100 then
    fAt s.flp.changedSets 24 + fAt s.flp.next 8 + bAt (belowDelivery s.flp.cur) 1 + b2n s.flp.changed
  else if 0x2200 ≤ o ∧ o < 0x2600 then
    let i := (o - 0x2200) / 16
    wordOf (deltaBytes (tget {} s.flp.deltas i)) (o % 16)
  else if o = 0x3000 then
    fAt b.step 28 + fAt b.cur.incomplete 16 + fAt (sat 8 b.cur.number) 8 + bAt b.cur.fwB 2 + bAt b.terminal 1 + b2n b.ready
  else if o = 0x3004 then bootAlt b
  else if 0x3100 ≤ o ∧ o < 0x3240 then wordOf (bootRecBytes b.cur) (o - 0x3100)
  else if 0x3240 ≤ o ∧ o < 0x3380 then wordOf (bootRecBytes b.prev) (o - 0x3240)
  else if o = 0x3400 then fAt (sat 8 b.fwdFenced) 24 + fAt (b.fwdRounds % 4) 20 + fAt (b.fwdReceivers % 1024) 10
  else if o = 0x3500 then
    fAt (sat 8 b.ftsPasses) 24 + fAt (b.ftsNext % 256) 16 + fAt (sat 8 b.ftsOut) 8 + b2n b.ftsRepaired
  else if o = 0x3504 then fAt b.ftsType 24 + fAt b.ftsUnit 8 + b.ftsGroup
  else if o = 0x3508 then fAt (sat 16 b.rowsRepaired) 16 + sat 16 b.rowsUnrepaired
  else 0

/-! ### Events (18.6) -/

/-- Registers of the Events and errors block. -/
def evtReg (s : State) (o : Nat) : Nat :=
  let e := s.evt
  if o = 0 then fAt e.sets 24 + e.bits % 16
  else if o = 4 then e.head
  else if o = 8 then e.seq
  else if 0x10 ≤ o ∧ o < 0x24 then tget 0 e.counts ((o - 0x10) / 4)
  else if o = 0x30 then bAt e.lockstep 24 + fAt e.fatalSource 16 + e.fatalCode
  else if o = 0x40 then
    fAt s.ep.epoch 16 + fAt (sat 8 s.ep.rollbacks) 8 + bAt s.ep.rolledBack 1 + b2n s.ep.change.isSome
  else if o = 0x44 then acksAwaited s
  else if 0x10000 ≤ o ∧ o < 0x30000 then
    let i := (o - 0x10000) / 32
    wordOf (evBytes (tget {} e.ring i)) (o % 32)
  else 0

/-! ### Reset and the Lining (15.6, 15.7) -/

/-- A step of a boot record. -/
def bootStepAt (r : BootRec) (k : Nat) : BootStep := tget {} r.steps k

/-- The tick by which the Crown firmware's own words in the Lining are what they are: now while it runs, from the end of
boot step 2, and the last tick it ran otherwise; none since cold reset (log 33). -/
def crownTick (s : State) : Option Nat :=
  if !s.resetting && decide (2 ≤ (bootStepAt s.boot.cur 2).outcome) && (bootStepAt s.boot.cur 2).outcome != 7 then some s.now
  else s.rst.crownAt

/-- A word of Crown firmware's own: zero from cold reset until it runs (15.6). -/
def crownWord (s : State) (o : Nat) : Nat := ((crownTick s).map fun t => (Config.crownState t o).toNat).getD 0

/-- A correction record of the Lining (Table 15-7): zero where there is none; the layout is not given (log 33). -/
def correctionWord (s : State) (o : Nat) : Nat :=
  match s.rst.corrections[o / 16]? with
  | some (c, kind, row) => leNat ((List.range 4).map fun i => Config.correctionByte c kind row (o % 16 + i))
  | none => 0

/-- The digest of a shadow entry and its recorded write count (Table 15-7). -/
def shadowRecBytes (s : State) (n : Nat) : List Byte :=
  leBytes 4 (tget 0 s.rst.shadowWrites n) ++ leBytes 4 0 ++ slice (s.shadow n).digest 0 32 ++ leBytes 8 0

/-- The word of the Lining SRAM at an offset (Table 15-7). The floor plan record, the home tables and the shadow
record are as the Crown holds them (log 34); the Crown's own state has no content the spec defines (log 33). -/
def liningWord (s : State) (o : Nat) : Nat :=
  if o < 0x100 then wordOf (planBytes s.flp.cur s.flp.delivered) o
  else if o < 0x500 then wordOf (deltaBytes (tget {} s.flp.deltas ((o - 0x100) / 16))) (o % 16)
  else if o < 0x700 then
    let i := o - 0x500
    (List.range 4).map (fun k => fAt (homeEntry s ((i + k) / 256) ((i + k) % 256)) (8 * k)) |>.sum
  else if o < 0x840 then wordOf (bootRecBytes s.boot.cur) (o - 0x700)
  else if o < 0x980 then wordOf (bootRecBytes s.boot.prev) (o - 0x840)
  else if o < 0xB00 then wordOf (shadowRecBytes s ((o - 0x980) / 48)) ((o - 0x980) % 48)
  else if o < 0xF00 then correctionWord s (o - 0xB00)
  else if o < 0x1000 then 0
  else if o < 0x8000 then
    let n := (o - 0x1000) / 32
    wordOf (evBytes (tget {} s.evt.tail ((s.evt.head + 4096 - tailSize + n) % 4096))) (o % 32)
  else crownWord s o

/-- Backup registers 4 to 11 belong to Crown firmware (log 33). -/
def backupReg (s : State) (i : Nat) : Nat :=
  if 4 ≤ i ∧ i < 12 then
    crownWord s (0x100 + 8 * i) + 2 ^ 32 * crownWord s (0x104 + 8 * i)
  else (tget (0 : DWord) s.rst.backup i).toNat

/-- Registers of the Reset and Cuffs block. -/
def rstReg (s : State) (o : Nat) : Nat :=
  let r := s.rst
  let pend := match r.phase with
    | .none => false
    | .held => false
    | _ => true
  let pulse := match r.phase with
    | .pulseWait => true
    | _ => false
  if o = 0 then fAt r.warmCount 24 + fAt r.lastCause 16 + bAt pulse 2 + bAt pend 1 + b2n (!r.partials.isEmpty)
  else if o = 4 then fAt r.unit 24 + fAt r.unitId 8 + fAt r.outcome 4 + r.trigger
  else if o = 8 then fAt r.absorbSets 24 + b2n r.absorbed
  else if 0x100 ≤ o ∧ o < 0x180 then
    let v := backupReg s ((o - 0x100) / 8)
    if o % 8 = 0 then v % 2 ^ 32 else v / 2 ^ 32
  else if 0x10000 ≤ o ∧ o < 0x20000 then liningWord s (o - 0x10000)
  else 0

/-! ### Power and thermal (16.7) -/

/-- VCMP's set point in millivolts (Table 3-8, R68): that of the fastest cluster clock in force, 0.60 V where no cluster has
one (Table 16-2; log 32). -/
def vcmpVolts (s : State) : Nat :=
  let fast := (List.range 4).foldl (fun m p => min m (tget 0xFF s.fit.clocks p)) 0xFF
  if (allLow s).any fun c => s.inService 1 c then floorQ (1000 * setPoint 0)
  else if fast = 0xFF then 600
  else floorQ (1000 * setPoint fast)

/-- Set point of a rail in millivolts (Tables 3-8, 16-1, 16-2). -/
def railVolts (s : State) (i : Nat) : Nat :=
  if i = 7 then 750
  else if !s.pins.pwrGood then 0
  else match i with
    | 0 => vcmpVolts s
    | 1 => Config.vcacheMillivolts.toNat
    | 2 => 1100
    | 3 => 1050
    | 4 => 500
    | _ => 1800

/-- Registers of the power controller and the thermal sampler. -/
def pwrReg (s : State) (o : Nat) : Nat :=
  let p := s.pwr
  if o = 0 then
    fAt p.phaseSets 24 + fAt p.tripCause 20 + fAt p.bcvOk 14 + bAt p.inletLost 5 + bAt p.envPower 4 + bAt p.envInput 3 +
    bAt p.envInlet 2 + bAt s.pins.pwrGood 1 + b2n p.phaseLost
  else if o = 4 then fAt p.watts 16 + p.volts
  else if o = 8 then let a := availAmps s; fAt (sat 16 a.2) 16 + sat 16 a.1
  else if o = 0xC then fAt p.vcachePhases 16 + p.vcmpPhases
  else if 0x100 ≤ o ∧ o < 0x120 then
    let i := (o - 0x100) / 4
    fAt (if s.pins.pwrGood || i == 7 then (Config.railCurrent i s.now).toNat else 0) 16 + railVolts s i
  else if 0x200 ≤ o ∧ o < 0x200 + 4 * 68 then
    let r := s.region ((o - 0x200) / 4)
    fAt r.trim 8 + bAt r.waiting 5 + bAt r.gated 4 + r.phasesOk
  else if 0x1100 ≤ o ∧ o < 0x1160 then
    let d : Diode := s.diode ((o - 0x1100) / 4)
    bAt d.failed 31 + fAt d.interval 16 + unsext 16 d.temp
  else if 0x1200 ≤ o ∧ o < 0x1210 then
    let d : Diode := tget {} s.thm.ntcs ((o - 0x1200) / 4)
    bAt d.failed 31 + unsext 16 d.temp
  else if 0x1280 ≤ o ∧ o < 0x1290 then
    let q := (o - 0x1280) / 4
    bAt (partThrottled s q) 18 + bAt (tget false s.thm.risk q) 17 + bAt (partBlind s q) 16 + unsext 16 (partTemp s q)
  else if 0x1300 ≤ o ∧ o < 0x1300 + 4 * 68 then
    let c := (o - 0x1300) / 4
    fAt (tget 0 s.thm.level4 c) 16 + bAt ((s.ownerOf c).any fun r => r.cls == 0) 3 + s.level c
  else 0

/-! ### Images, the Fitting, streams and KV (2.8, 3.9, 10.8) -/

/-- KV registers of a stream; all but err_sets read their reset values where it has no layout (R216). -/
def kvReg (s : State) (n o : Nat) : Nat :=
  let v := s.kv n
  match s.kvLayout n with
  | none => if o = 0x1C then fAt v.errSets 24 else 0
  | some k =>
    let live := v.seqs.filter fun e => e.2.state == 1
    if o = 0x10 then fAt v.last 24 + fAt live.length 12 + fAt v.lost 1
    else if o = 0x14 then (live.map fun e => e.2.held).sum
    else if o = 0x18 then ((List.range k.pools.length).map fun i =>
      v.unreserved (k.pools.getD i ⟨0, 0, 0, 0, 0, 0, 0⟩) i).sum
    else if o = 0x1C then fAt v.errSets 24 + fAt v.errResult 16 + fAt v.errOp 8 + b2n v.err
    else 0

/-- Registers of a stream (STRM_). -/
def strmReg (t : Stream) (o : Nat) : Nat :=
  match o with
  | 0 => fAt t.margin 22 + fAt t.cls 8 + t.state
  | 4 => t.promise
  | 8 => fAt t.late 16 + t.notAccepted
  | 0xC => t.accepted
  | _ => 0

/-- Registers of the Fitting and streams block. -/
def fitReg (s : State) (o : Nat) : Nat :=
  let i := s.img
  let f := s.fit
  if o = 0 then
    fAt i.loadSets 24 + fAt i.loadError 16 + fAt i.sourceSlot 8 + bAt i.switch.isSome 2 + bAt s.shownDigest.isNone 1 +
    b2n i.loadFailed
  else if 0x20 ≤ o ∧ o < 0x40 then wordOf s.imageDigest (o - 0x20)
  else if o = 0x40 then
    fAt (gather2 8 fun n => (s.fslot n).state) 16 + fAt (gather 8 fun n => (s.shadow n).current && (s.shadow n).verdict == 1) 8 +
    bAt i.cmdEn 7 + fAt i.psel 4 + i.active
  else if o = 0x100 then s.now % 2 ^ 32
  else if o = 0x104 then f.hiLatch
  else if o = 0x108 then
    fAt f.refusedSets 24 + fAt f.shedSets 16 + fAt f.voidSets 8 + bAt f.fitting 5 + bAt f.faultActive 4 + bAt f.atRisk 3 +
    bAt f.void 2 + bAt f.shed 1 + b2n f.refused
  else if o = 0x10C then ((List.range 4).map fun p => fAt (tget 0xFF f.clocks p) (8 * p)).sum
  else if o = 0x110 then fAt f.rechecks 16 + sat 16 f.lastDuration
  else if 0x140 ≤ o ∧ o < 0x180 then wordOf f.refusal (o - 0x140)
  else if 0x1000 ≤ o ∧ o < 0x1400 then strmReg (s.stream ((o - 0x1000) / 16)) (o % 16)
  else if 0x2000 ≤ o ∧ o < 0x2800 then kvReg s ((o - 0x2000) / 32) (o % 32)
  else 0

/-! ### Regulation (12.11) -/

/-- Registers of the Regulation block. -/
def regReg (s : State) (o : Nat) : Nat :=
  let r := s.reg
  if o = 0 then fAt r.overSets 24 + bAt r.stale 1 + b2n r.overB
  else if o = 4 then r.overCount
  else if 0x100 ≤ o ∧ o < 0x120 then tget 0 r.held ((o - 0x100) / 4)
  else if 0x400 ≤ o ∧ o < 0x4E0 then
    let l := limitsOf s ((o - 0x400) / 32) (o % 32 / 4)
    ((List.range 4).map fun j => fAt (l.getD j 0 % 256) (8 * j)).sum
  else 0

/-- A memory controller's registers. -/
def ctlReg (s : State) (lpddr : Bool) (n o : Nat) : Nat :=
  let m := s.mc lpddr n
  if o = 0 then
    fAt (s.unitState (if lpddr then 5 else 4) n) 30 + fAt m.q.length 16 +
    (if lpddr then fAt m.merge.length 8 + fAt (s.sec.codeT % 16) 4 else b2n m.hot)
  else if o = 4 then
    b2n (s.rst.partials.any fun p => match p.unit with
      | .bonded c => !lpddr && c.val == n
      | .lpddr c => lpddr && c.val == n
      | _ => false)
  else if o = 8 then fAt m.corrected 16 + m.aux
  else if o = 0xC then fAt m.errSets 24 + fAt m.errCause 16 + fAt m.errCls 8 + b2n m.err
  else if o = 0x10 then m.errLine % 2 ^ 32
  else if o = 0x14 then m.codes % 2 ^ 16
  else if 0x100 ≤ o ∧ o < 0x120 then tget 0 m.served ((o - 0x100) / 4)
  else 0

/-! ### Host link (13.8) -/

/-- The session count of a port. -/
def sessionsOn (s : State) (p : Port) : Nat := (s.sec.sessions.filter fun x => x.port == p).length

/-- Registers of the Host link block. -/
def hlkReg (s : State) (o : Nat) : Nat :=
  let h := s.hlk
  if o = 0 then
    fAt h.upCount 24 + fAt h.rate 20 + fAt h.width 15 + bAt (h.up && h.rate == 6) 14 + fAt h.ide 8 +
    bAt s.sec.hotPolicy 1 + b2n h.up
  else if o = 4 then fAt h.evtSets 24 + h.events % 64
  else if o = 8 then fAt h.fwReads 16 + h.fwWrites
  else if o = 0xC then fAt h.dropSlot 16 + h.dropCtl
  else if o = 0x10 then fAt h.dir.length 13 + h.biTimeouts
  else if o = 0x14 then fAt h.mgmtDropped 16 + fAt (sessionsOn s .mgmt) 4 + b2n h.mgmtUp
  else if 0x100 ≤ o ∧ o < 0x200 then
    match tget none h.binds ((o - 0x100) / 16) with
    | none => 0
    | some b => if o % 16 = 0 then fld b.1 31 12 * 4096 + 1 else if o % 16 = 4 then fld b.1 51 32 else 0
  else if 0x1000 ≤ o ∧ o < 0x1400 then
    let t := s.stream ((o - 0x1000) / 16)
    if o % 16 = 0 then fAt t.scan 16 + t.polls else if o % 16 = 4 then fAt t.malformed 16 + t.dropped else 0
  else 0

/-! ### Security and the Visor (17.8, 7.9) -/

/-- The firmware copy that is not running has been written and verified since the last boot: measurement 3 reads staged
(R300, R349). -/
def stagedFw (i : Img) : Bool :=
  let other := if i.fwRunB then i.fwA else i.fwB
  other.state == 2 && other.staged

/-- Registers of the Security block. -/
def secReg (s : State) (o : Nat) : Nat :=
  let c := s.sec
  if o = 0 then
    fAt c.authSets 24 + fAt (gather 8 fun i => (tget {} c.op.signers i).valid) 16 + bAt c.authFail 4 +
    bAt (c.op.state == 2) 3 + bAt (stagedFw s.img) 2 + bAt c.rngOk 1 + b2n (c.op.state != 0)
  else if o = 8 then rd deviceId 0 4
  else if o = 0xC then rd deviceId 4 4
  else if o = 0x10 then rd bindingId 0 4
  else if o = 0x14 then rd bindingId 4 4
  else if o = 0x18 then c.op.authCounter % 2 ^ 32
  else if o = 0x1C then c.op.authCounter / 2 ^ 32
  else if o = 0x20 then fAt c.errOpcode 16 + c.errStatus
  else if o = 0x24 then c.op.fwFloor
  else if 0x40 ≤ o ∧ o < 0x60 then
    let g : Signer := tget {} c.op.signers ((o - 0x40) / 4)
    if g.valid then g.floor else 0
  else 0

/-- CORE_GSTATE.state of a group. -/
def gstateCode (g : Group) : Nat :=
  match g.st with
  | .idle => 0
  | .running => if g.stall = .none then 1 else 2
  | .halted => 3
  | .trapped => 4
  | .draining => 5

/-- The Visor's registers. -/
def visReg (s : State) (o : Nat) : Nat :=
  let v := s.vis
  let co := s.core v.core
  let g := co.grp v.group
  if o = 0 then
    let left := match v.until_ with
      | some t => cdiv (t - s.now) 1000000000
      | none => 0
    fAt left 8 + bAt v.altered 1 + b2n v.until_.isSome
  else if o = 4 then s.sec.op.debugEpoch
  else if o = 0x1000 then fAt v.group 16 + v.core
  else if o = 0x1008 then
    let waiting : Bool := match g.st, g.stall with
      | .halted, .none => false
      | .halted, _ => true
      | _, _ => false
    fAt v.cmdStatus 28 + fAt g.haltCause 8 + bAt waiting 5 + bAt g.stepDone 4 + gstateCode g
  else if o = 0x100C then v.access.toNat
  else if o = 0x1010 then v.dataLo.toNat
  else if o = 0x1014 then v.dataHi.toNat
  else if 0x1020 ≤ o ∧ o < 0x1040 then
    let b : BreakP := tget {} co.bps ((o - 0x1020) / 8)
    if o % 8 = 0 then bAt b.enable 31 + b.addr % 2 ^ 20 else b.groups % 2 ^ 16
  else if o = 0x1040 then b2n co.hold
  else 0

/-! ### Cores (5.10, 7.9, 9.7) -/

/-- Segments of a ROM table; 0 for a composite function or one without a table of its own (Tables 9-1, 9-6). -/
def romSegments (compat : Bool) (fn : Nat) : Nat :=
  if compat then (if fn ≤ 6 then 16 else 0)
  else if fn ≤ 2 ∨ fn = 6 then 16 else if fn = 3 ∨ fn = 8 then 32 else 0

/-- The entry SFU_RD_SEL selects. -/
def sfuEntry (f : Sfu) : Word × Word :=
  let sel := f.rdSel.toNat
  let src := fld sel 31 30
  let hdr := bit sel 29
  let tb := fld sel 15 8
  let k := fld sel 7 0
  if src < 2 then
    let segs := if tb < 10 then romSegments (src == 1) tb else 0
    if k < segs then romCoef (src == 1) tb k else (0, 0)
  else if 0x20 ≤ tb ∧ tb < 0x30 then
    match tget none (if src = 2 then f.bank0 else f.bank1) (tb - 0x20) with
    | none => (0, 0)
    | some t =>
      if hdr then
        (t.lo, BitVec.ofNat 32 (t.segLog2 + 2 ^ 8 * (t.below + 4 * t.above + 16 * t.symmetry + 64 * b2n t.postMul) +
          2 ^ 16 * unsext 8 t.q))
      else t.coef.getD k (0, 0)
  else (0, 0)

/-- Registers of a core. -/
def coreReg (s : State) (c o : Nat) : Nat :=
  let co := s.core c
  let f := co.sfu
  if o = 0 then fAt (partOfCore c) 23 + fAt (clusterOf c) 16 + fAt (c % 4) 9 + c
  else if o = 4 then
    let busy := co.mxRun.foldl (fun m r => m ||| (parseMx r.ent.bytes).mask) 0
    let busy := if (List.range 2).any fun j => !(co.bankAt j).flight.isEmpty then busy ||| 1 else busy
    fAt co.dq.length 24 + fAt co.mq.length 16 + fAt (gather 2 fun j => (co.bankAt j).owner.isSome) 8 + fAt co.mode 4 + busy % 16
  else if o = 8 then co.codeBase
  else if o = 0xC then fAt co.descSets 24 + fAt co.descGrp 16 + fAt co.descCause 8 + b2n co.descErr
  else if o = 0x10 then fAt co.flagSets 24 + co.numFlags % 16
  else if o = 0x20 then co.perfDesc
  else if o = 0x24 then co.perfBusy
  else if o = 0x28 then fAt co.lmCorrected 16
  else if o = 0x30 then
    b2n (s.coreHeld c)
  else if o = 0x40 then fAt co.trapSets 24 + co.trapped
  else if 0x60 ≤ o ∧ o < 0x80 then
    let b := co.bar ((o - 0x60) / 4)
    fAt (if b.owned then barCount co b (co.blockSize b.base) else 0) 16 + fAt b.base 12 + bAt b.phase 8 + b2n b.owned
  else if 0x100 ≤ o ∧ o < 0x140 then
    let g := co.grp ((o - 0x100) / 4)
    ((List.range 8).map fun t => fAt (g.token t).count (4 * t)).sum
  else if 0x200 ≤ o ∧ o < 0x300 then
    let g := co.grp ((o - 0x200) / 16)
    if o % 16 = 0 then fAt g.stack.length 20 + fAt g.base 16 + fAt (g.size - 1) 12 + gstateCode g
    else if o % 16 = 4 then g.pc.toNat % 2 ^ 20
    else if o % 16 = 8 then fAt g.trapDetail 24 + fAt g.trapLane 16 + g.trapCode
    else 0
  else if o = 0x400 then
    fAt f.epoch 16 + bAt f.loading 3 + bAt f.shadow.isSome 2 + bAt f.compat 1 + b2n f.bank
  else if o = 0x404 then
    fAt (gather 16 fun k => (tget none f.bank1 k).isSome) 16 + gather 16 fun k => (tget none f.bank0 k).isSome
  else if o = 0x408 then f.evals
  else if o = 0x40C then f.rows
  else if o = 0x410 then fAt f.corrected 16 + f.refetched
  else if o = 0x414 then f.rdSel.toNat
  else if o = 0x418 then (sfuEntry f).1.toNat
  else if o = 0x41C then (sfuEntry f).2.toNat
  else 0

/-! ### Slices, engines and cache halves (11.8, 6.8) -/

/-- A window's staging or eviction holds an engine (R118). -/
def stagingHolds (s : State) (n : Nat) : Bool := s.img.stagings.any fun t => (engineList s t.1).contains n

/-- Registers of a Palm engine. -/
def palmReg (s : State) (n o : Nat) : Nat :=
  let e := s.engine n
  if o = 0 then
    bAt (decide (2 ≤ s.unitState 3 n)) 31 + fAt e.q0.length 24 + fAt e.q1.length 20 + bAt e.run0.isSome 15 +
    bAt e.run1.isSome 14 + bAt (e.restaging || stagingHolds s n) 13 + e.shares.length
  else if o = 4 then
    b2n (s.rst.partials.any fun p => match p.unit with
      | .palm k => k.val == n
      | _ => false)
  else if o = 8 then fAt e.errSets 24 + fAt e.cause 16 + fAt e.errCore 7 + b2n e.err
  else if o = 0xC then fAt e.flagSets 24 + e.flags % 16
  else if o = 0x10 then e.launches
  else if o = 0x14 then e.readCycles
  else if o = 0x18 then fAt e.refetches 16 + e.replays
  else 0

/-- Registers of a slice. -/
def sliceReg (s : State) (n o : Nat) : Nat :=
  let sl := s.slice n
  if 0x8000 ≤ o then palmReg s n (o - 0x8000)
  else if o = 0 then
    fAt (s.unitState 3 n) 30 + fAt sl.miss.length 16 + (sl.lines.filter fun e => e.2.present && e.2.poison).length
  else if o = 4 then
    b2n (s.rst.partials.any fun p => match p.unit with
      | .slice k => k.val == n
      | _ => false)
  else if o = 8 then fAt sl.deadSets 24 + fAt sl.filter.length 11 + fAt sl.deadReads 1 + b2n sl.deadBit
  else if o = 0xC then sl.deadLine % 2 ^ 32
  else if o = 0x10 then
    fAt (sl.lines.filter fun e => e.2.present && e.2.valid != 0).length 15 + sl.demoted
  else if o = 0x14 then sl.overflows
  else if o = 0x18 then fAt sl.corrected 16 + fAt sl.refetched 8 + sl.poisonSets
  else if o = 0x20 then sl.codes % 2 ^ 16
  else if 0x100 ≤ o ∧ o < 0x180 then
    let c := (o - 0x100) / 16
    match o % 16 with
    | 0 => tget 0 sl.hits c
    | 4 => tget 0 sl.misses c
    | 8 => tget 0 sl.merges c
    | _ => tget 0 sl.mcasts c
  else if 0x200 ≤ o ∧ o < 0x300 then winLines sl ((o - 0x200) / 4)
  else 0

/-- Registers of a cache half. -/
def cacheReg (s : State) (h o : Nat) : Nat :=
  if o = 0 then persistentCap s.flp.cur h
  else if o = 4 then if s.img.running.isNone then 0 else if h = 0 then s.fit.persist0 else s.fit.persist1
  else if 0x100 ≤ o ∧ o < 0x200 then
    let i := (o - 0x100) / 4
    ((List.range 4).map fun k => fAt (homeEntry s h (4 * i + k)) (8 * k)).sum
  else if 0x400 ≤ o ∧ o < 0x800 then
    let w := (o - 0x400) / 16
    if o % 16 = 0 then
      match windowNo s w with
      | none => 0
      | some r => 2 ^ 31 + fAt (if r.slocal then firstWay s w else 0) 16 + fAt r.ways 8 + bAt r.deadFault 3 + bAt r.slocal 2 +
          r.persistence
    else if o % 16 = 4 then winLinesHalf s h w
    else 0
  else 0

/-! ### Control space -/

/-- The word at a control-space offset, by block (Table 1-2 and 0.5). -/
def readReg (s : State) (off : Nat) : Nat :=
  let o := off / 4 * 4
  if o < 0x100000 then crownReg s o
  else if o < 0x200000 then rstReg s (o - 0x100000)
  else if o < 0x300000 then pwrReg s (o - 0x200000)
  else if o < 0x400000 then fitReg s (o - 0x300000)
  else if o < 0x500000 then regReg s (o - 0x400000)
  else if o < 0x600000 then hlkReg s (o - 0x500000)
  else if o < 0x700000 then secReg s (o - 0x600000)
  else if o < 0x800000 then evtReg s (o - 0x700000)
  else if o < 0x900000 then visReg s (o - 0x800000)
  else if o < 0x1000000 then 0
  else if o < 0x2000000 then
    let r := o - 0x1000000
    let p := r / 0x400000
    let cl := r % 0x400000 / 0x10000
    if cl < 17 then coreReg s (4 * (17 * p + cl) + r % 0x10000 / 0x4000) (r % 0x4000) else 0
  else if o < 0x2800000 then sliceReg s ((o - 0x2000000) / 0x10000) (o % 0x10000)
  else if 0x2F00000 ≤ o ∧ o < 0x2F20000 then cacheReg s ((o - 0x2F00000) / 0x10000) (o % 0x10000)
  else if 0x3000000 ≤ o ∧ o < 0x3010000 then ctlReg s false ((o - 0x3000000) / 0x1000) (o % 0x1000)
  else if 0x3100000 ≤ o ∧ o < 0x3110000 then ctlReg s true ((o - 0x3100000) / 0x1000) (o % 0x1000)
  else 0

/-- `n` bytes of control space from an offset. -/
def readCtl (s : State) (off n : Nat) : List Byte :=
  let w0 := off / 4
  let ws := (List.range ((off + n + 3) / 4 - w0)).flatMap fun i => leBytes 4 (readReg s (4 * (w0 + i)))
  slice ws (off % 4) n

/-! ### Writes (Table 0-3, R366) -/

/-- A bit after a write of `m` to its W1C field. -/
def keep (b : Bool) (m i : Nat) : Bool := b && !bit m i

/-- Bits of a field after a write of `m`, among the low `n`. -/
def keepBits (v m n : Nat) : Nat := gather n fun i => keep (bit v i) m i

/-- The core and register offset of a control-space offset in the core blocks. -/
def coreAt (o : Nat) : Option (Nat × Nat) :=
  if 0x1000000 ≤ o ∧ o < 0x2000000 ∧ o % 0x400000 / 0x10000 < 17 then
    let r := o - 0x1000000
    some (4 * (17 * (r / 0x400000) + r % 0x400000 / 0x10000) + r % 0x10000 / 0x4000, r % 0x4000)
  else none

/-- W1C of a core's registers. -/
def coreW1c (co : Core) (o m : Nat) : Option Core :=
  match o with
  | 0xC => some { co with descErr := keep co.descErr m 0 }
  | 0x10 => some { co with numFlags := keepBits co.numFlags m 4 }
  | 0x40 => some { co with trapped := keepBits co.trapped m 16 }
  | _ => none

/-- W1C of the slice blocks. -/
def sliceW1c (s : State) (n o m : Nat) : Option State :=
  match o with
  | 8 => some (s.updSlice n fun sl => { sl with deadBit := keep sl.deadBit m 0 })
  | 0x8008 => some (s.updEngine n fun e => { e with err := keep e.err m 0 })
  | 0x800C => some (s.updEngine n fun e => { e with flags := keepBits e.flags m 4 })
  | _ => none

/-- W1C of the Fitting and streams block. -/
def fitW1c (s : State) (o m : Nat) : Option State :=
  if o = 0 then some { s with img := { s.img with loadFailed := keep s.img.loadFailed m 0 } }
  else if o = 0x108 then
    some { s with fit := { s.fit with void := keep s.fit.void m 2, shed := keep s.fit.shed m 1
                                      refused := keep s.fit.refused m 0 } }
  else if 0x2000 ≤ o ∧ o < 0x2800 ∧ o % 32 = 0x1C then
    let n := (o - 0x2000) / 32
    some (s.setKv n { s.kv n with err := keep (s.kv n).err m 0 })
  else none

/-- W1C of the single-register blocks: floor plan, self-test, reset, power, regulation, host link, security,
events, and the memory controllers. -/
def blockW1c (s : State) (o m : Nat) : Option State :=
  match o with
  | 0x2100 => some { s with flp := { s.flp with changed := keep s.flp.changed m 0 } }
  | 0x3500 => some { s with boot := { s.boot with ftsRepaired := keep s.boot.ftsRepaired m 0 } }
  | 0x100008 => some { s with rst := { s.rst with absorbed := keep s.rst.absorbed m 0 } }
  | 0x200000 =>
    some (setAlert { s with pwr := { s.pwr with
      envPower := keep s.pwr.envPower m 4, envInput := keep s.pwr.envInput m 3, envInlet := keep s.pwr.envInlet m 2
      phaseLost := keep s.pwr.phaseLost m 0 } })
  | 0x400000 => some { s with reg := { s.reg with stale := keep s.reg.stale m 1, overB := keep s.reg.overB m 0 } }
  | 0x500004 => some { s with hlk := { s.hlk with events := keepBits s.hlk.events m 6 } }
  | 0x600000 => some { s with sec := { s.sec with authFail := keep s.sec.authFail m 4 } }
  | 0x700000 => some { s with evt := { s.evt with bits := keepBits s.evt.bits m 4 } }
  | 0x700040 => some { s with ep := { s.ep with rolledBack := keep s.ep.rolledBack m 1 } }
  | _ =>
    if 0x300000 ≤ o ∧ o < 0x400000 then fitW1c s (o - 0x300000) m
    else if 0x2000000 ≤ o ∧ o < 0x2800000 then sliceW1c s ((o - 0x2000000) / 0x10000) (o % 0x10000) m
    else if 0x3000000 ≤ o ∧ o < 0x3010000 ∧ o % 0x1000 = 0xC then
      some (s.updMc false ((o - 0x3000000) / 0x1000) fun c => { c with err := keep c.err m 0 })
    else if 0x3100000 ≤ o ∧ o < 0x3110000 ∧ o % 0x1000 = 0xC then
      some (s.updMc true ((o - 0x3100000) / 0x1000) fun c => { c with err := keep c.err m 0 })
    else none

/-- Write `m` to the W1C fields of the register at an offset; none where it has no W1C field. The set counts do
not move (R366). -/
def w1cWrite (s : State) (off m : Nat) : Option State :=
  let o := off / 4 * 4
  match coreAt o with
  | some (c, r) => (coreW1c (s.core c) r m).map (s.setCore c)
  | none => blockW1c s o m

/-- A read of FIT_COUNT_LO latches the high half of the intake counter (R43). -/
def latchCount (s : State) : State := { s with fit := { s.fit with hiLatch := s.now / 2 ^ 32 % 2 ^ 32 } }

/-- The reads of a range, with what they latch. -/
def loadCtl (s : State) (off n : Nat) : List Byte × State :=
  let s := if off < 0x300104 ∧ 0x300100 < off + n then latchCount s else s
  (readCtl s off n, s)

/-- A group's store of one word to a register: W1C fields clear, and SFU_RD_SEL of a core takes the value; any
other register ignores it (Table 0-3; log 35). -/
def storeCtlWord (s : State) (off v : Nat) : State :=
  match w1cWrite s off v with
  | some t => t
  | none =>
    match coreAt (off / 4 * 4) with
    | some (c, 0x414) =>
      let sel := BitVec.ofNat 32 (fld v 31 29 * 2 ^ 29 + v % 2 ^ 16)
      s.updCore c fun co => { co with sfu := { co.sfu with rdSel := sel } }
    | _ => s

/-- A group's store of bytes to control space: word by word, bytes outside the store written as zero. -/
def storeCtl (s : State) (off : Nat) (bs : List Byte) : State :=
  let w0 := off / 4
  let all := List.replicate (off % 4) 0#8 ++ bs
  (List.range (cdiv all.length 4)).foldl (fun s i => storeCtlWord s (4 * (w0 + i)) (rd all (4 * i) 4)) s

end Sys2Proof.Machine
end

