-- ==== Sys2Proof/Machine/LdSt.lean ====
section
/-! DEFINITION. The memory family: loads, stores, atomics, FENCE.D and CACHE.RETIRE (7.3, 7.4, R164, R165), and
the replies that come back from home slices. -/

namespace Sys2Proof.Machine

/-! ### Addresses and checks -/

/-- Bytes of an access. -/
def accBytes (w : Nat) : Nat := 2 ^ fCond w

/-- The lanes an access acts for: lane 0 once with a u destination (R160), else the active lanes. -/
def accLanes (g : Group) (w : Nat) : List Nat :=
  if (operands w).any fun o => o.dst && selU o.sel then [0] else lanes g.mask

/-- Effective local address (R164). -/
def eaLocal (g : Group) (w lane : Nat) : Nat :=
  (g.rdN (fRa w) lane 1 + unsext 32 (sext 16 (fld w 63 48))) % 2 ^ 32

/-- The address pair of a device access. -/
def eaPair (g : Group) (w lane : Nat) : Nat := g.rdN (fRa w) lane 2

/-- Effective device address (R164). -/
def eaDevice (g : Group) (w lane : Nat) : Nat := (eaPair g w lane + unsext 40 (sext 16 (fld w 63 48))) % 2 ^ 40

/-- The trap of a local access of one lane, if any (7.3). -/
def localFault (co : Core) (g : Group) (w : Nat) (write : Bool) (lane : Nat) : Option Nat :=
  let a := eaLocal g w lane
  if 0x100000 ≤ a ∨ a % accBytes w ≠ 0 then some 6
  else if write && decide (4096 * co.codeBase ≤ a) then some 7
  else none

/-- The first lane a check fails for: code, detail and lane. -/
def firstFault (ls : List Nat) (f : Nat → Option (Nat × Nat)) : Option (Nat × Nat × Nat) :=
  ls.findSome? fun l => (f l).map fun t => (t.1, t.2, l)

/-- A lane of the access meets an uncorrectable local-memory error. -/
def lmBad (ls : List Nat) : Ecc → Option Nat
  | .lmUncorrectable l => if ls.contains l.val then some l.val else none
  | _ => none

/-- A local access once its addresses have been checked: the trap to take, or go on in this state. -/
def localChecks (s : State) (c g w : Nat) (write : Bool) (ecc : Ecc) : Except State State :=
  let x := s.grp c g
  let ls := accLanes x w
  match firstFault ls fun l => (localFault (s.core c) x w write l).map fun t => (t, 0) with
  | some (code, d, l) => .error (takeTrap s c g code d l 0)
  | none =>
    match lmBad ls ecc with
    | some l => .error (takeTrap s c g 0x0D 0 l 0)
    | none => .ok (lmEcc s c ecc)

/-- The trap of a device access of one lane, if any: misaligned (0x06), or in no range or at a fenced unit
(0x08). CACHE.RETIRE reaches bonded DRAM and LPDDR6 only (R165). -/
def deviceFault (s : State) (g : Group) (w : Nat) (retire : Bool) (lane : Nat) : Option (Nat × Nat) :=
  let a := eaDevice g w lane
  let aperture : Bool := match place a with
    | .aperture .. => true
    | _ => false
  if a % accBytes w ≠ 0 then some (6, 0)
  else if decide (2 ^ 40 ≤ eaPair g w lane) || (retire && (aperture || isControl a)) then some (8, 3)
  else if isControl a then none
  else match resolve s false a with
    | .error e => some (8, e)
    | .ok _ => none

/-! ### Device accesses -/

/-- What the parts of an access that lie in control space do at once: the values loads read, and how many KV
commands wait for their agent. -/
structure CtlPart where
  got : List (Nat × Nat)
  waits : Nat
  st : State

/-- The request under way that a group's block serves: stream, slot and tick of its commit. -/
def servedReq (s : State) : Src → Option (Nat × Nat × Nat)
  | .group c g _ _ => (liveReq s (s.grp c g)).bind fun r => (findReq s r.1 r.2).map fun q => (r.1, r.2, q.commit)
  | _ => none

/-- A store to KV_CMD(n) (R202): queued for the agent where it is 16 bytes from a cluster of the stream,
else KV_ERR with result 0x01. A store of another size has no op of its own (a free value). Without a layout it
has no effect (R216). -/
def storeKv (s : State) (n c : Nat) (src : Src) (size : Nat) (bs : List Byte) : Bool × State :=
  match s.kvLayout n with
  | none => (false, s)
  | some _ =>
    let v := s.kv n
    if size ≠ 16 then
      let d := s.drawWord
      (false, d.2.setKv n (v.fail 1 (d.1.toNat % 256)))
    else if ((s.ownerOf (clusterOf c)).map (·.id)) ≠ some n then (false, s.setKv n (v.fail 1 (rd bs 0 1)))
    else (true, s.setKv n { v with queue := v.queue ++ [(src, servedReq s src, bs)] })

/-- One lane's part of an access in control space. Atomics return the register and write nothing (log 35). -/
def ctlAccess (c g id size : Nat) (p : CtlPart) (t : Nat × Nat × ReqKind) : CtlPart :=
  let off := t.2.1 - 0xF000000000
  match t.2.2 with
  | .read =>
    let r := loadCtl p.st off size
    { p with got := p.got ++ [(t.1, leNat r.1)], st := r.2 }
  | .write bs =>
    match kvCmdStream t.2.1 with
    | some n =>
      let r := storeKv p.st n c (.group c g id t.1) size bs
      { p with waits := p.waits + (if r.1 then 1 else 0), st := r.2 }
    | none => { p with st := storeCtl p.st off bs }
  | .atomic _ ls =>
    let r := loadCtl p.st off size
    { p with got := p.got ++ ls.map (fun l => (l.1, leNat r.1)), st := r.2 }
  | .retire => p

/-- The control-space parts of an access; of several lanes that store to one KV_CMD address the highest one's
bytes stand (R139, R202). -/
def ctlParts (s : State) (c g id size : Nat) (ts : List (Nat × Nat × ReqKind)) : CtlPart :=
  let isKvStore := fun (t : Nat × Nat × ReqKind) => (kvCmdStream t.2.1).isSome && (match t.2.2 with
    | .write _ => true
    | _ => false)
  let live := ts.filter fun t => !(isKvStore t && ts.any fun u => u.2.1 == t.2.1 && decide (t.1 < u.1))
  live.foldl (ctlAccess c g id size) ⟨[], 0, s⟩

/-- A request of a cluster's core can go to its slice: its limit lets it, and the slice has room or holds it. The Bool
beside it says that the limit is what stops it. -/
def mayIssueTo (s : State) (c n cls : Nat) : Bool × Bool :=
  let within := withinLimit s (clusterOf c) cls n
  (within && (sliceHeld s n || sliceRoom s n cls 1), !within)

/-- Send requests in order while they can go: those left, whether a limit stopped the first of them, and the state. -/
def sendReqs (c cls : Nat) : List (Nat × Req) → State → List (Nat × Req) × Bool × State
  | [], s => ([], false, s)
  | r :: rs, s =>
    let m := mayIssueTo s c r.1 cls
    if m.1 then sendReqs c cls rs (deliver s r.1 r.2) else (r :: rs, m.2, s)

/-- Send what is left of an access; the instruction goes on when all of it has gone, and waits otherwise (R258, 7.2). -/
def sendRest (s : State) (c g id : Nat) (rs : List (Nat × Req)) : State :=
  let cls := s.coreClass c
  let q := sendReqs c cls rs s
  let s := q.2.2.updGrp c g fun x => { x with outst := x.outst.map fun a => if a.id = id then { a with unsent := q.1 } else a }
  if q.1.isEmpty then s.updGrp c g Group.next
  else stallRetry (if q.2.1 then countHeld s cls else s) c g

/-- Begin an access: its part in control space takes effect at once, its requests go to their home slices, and it is noted
while it is not over. Each request comes with its home slice; `ctl` is the access's part in control space. -/
def sendAccess (s : State) (c g : Nat) (rs : List (Nat × Req)) (ctl : List (Nat × Nat × ReqKind)) (a : DevAcc) :
    State :=
  let p := ctlParts s c g a.id a.size ctl
  let left := rs.length + p.waits
  let s := p.st.updGrp c g fun x =>
    { x with outst := if left = 0 ∧ (a.regs = 0 ∨ p.got.isEmpty) then x.outst
                      else x.outst ++ [{ a with left := left, got := if a.regs = 0 then [] else p.got, unsent := rs }]
             nextAcc := x.nextAcc + 1 }
  sendRest s c g a.id rs

/-- The home of a checked address. -/
def homeOf (s : State) (a : Nat) : Home :=
  match resolve s false a with
  | .ok h => h
  | .error _ => ⟨0, 0, 0, none⟩

/-- The record of an access about to be sent. -/
def newAcc (x : Group) (w : Nat) (load : Bool) (regs : Nat) : DevAcc :=
  { id := x.nextAcc, pc := x.pc, rd := fRd w, regs := regs, size := accBytes w, sext := fImmBit w, load := load,
    left := 0, got := [], err := none, unsent := [] }

/-- The access whose requests the instruction at the PC is still sending. -/
def Group.sending (x : Group) : Option DevAcc := x.outst.find? fun a => a.pc == x.pc && !a.unsent.isEmpty

/-- A device access: checks, then one request for each lane (or address) that `mk` gives; one begun before goes on. -/
def deviceAccess (s : State) (c g w : Nat) (retire load : Bool) (regs : Nat)
    (mk : Group → List Nat → List (Nat × Nat × ReqKind)) : State :=
  let x := s.grp c g
  let ls := accLanes x w
  match x.sending with
  | some a => sendRest s c g a.id a.unsent
  | none =>
  match firstFault ls (deviceFault s x w retire) with
  | some (code, d, l) => takeTrap s c g code d l 0
  | none =>
    let all := mk x ls
    let rs := (all.filter fun t => !isControl t.2.1).map fun t =>
      let h := homeOf s t.2.1
      (h.slice, ({ src := .group c g x.nextAcc t.1, kind := t.2.2, addr := h.backing, len := accBytes w,
                   cls := s.coreClass c } : Req))
    sendAccess s c g rs (all.filter fun t => isControl t.2.1) (newAcc x w load regs)

/-! ### Loads and stores -/

/-- A loaded value as it enters its registers: 1 and 2 bytes extended to 32 bits (Table 8-5). -/
def loadValue (size : Nat) (sx : Bool) (v : Nat) : Nat :=
  if size < 4 ∧ sx then unsext 32 (sext (8 * size) v) else v

/-- The effect of LD. -/
def bodyLd : Body := fun s c g w ecc =>
  let n := dataRegs (fCond w)
  if fWide w then
    deviceAccess s c g w false true n fun x ls => ls.map fun l => (l, eaDevice x w l, .read)
  else match localChecks s c g w false ecc with
    | .error t => t
    | .ok s =>
      let co := s.core c
      s.updGrp c g fun x => (x.wrDst (fRd w) n fun l =>
        loadValue (accBytes w) (fImmBit w) (leNat (mread co.lm (eaLocal x w l) (accBytes w)))).next

/-- The bytes a lane stores. -/
def storeBytes (x : Group) (w lane : Nat) : List Byte := leBytes (accBytes w) (x.rdN (fRb w) lane (dataRegs (fCond w)))

/-- The effect of ST: lanes store in ascending order, so the highest lane's byte stays (R139). -/
def bodySt : Body := fun s c g w ecc =>
  if fWide w then
    deviceAccess s c g w false false 0 fun x ls => ls.map fun l => (l, eaDevice x w l, .write (storeBytes x w l))
  else match localChecks s c g w true ecc with
    | .error t => t
    | .ok s =>
      let x := s.grp c g
      (s.storeLm c (byteWrites ((lanes x.mask).map fun l => (eaLocal x w l, storeBytes x w l)))).updGrp c g Group.next

/-- Issue LD. -/
def execLd (c : Fin 272) (g : Fin 16) (ecc : Ecc) (s : State) : Host.Outcome State Fault Refusal :=
  .next (issueAs 0x40 c g ecc s bodyLd)

/-- Issue ST. -/
def execSt (c : Fin 272) (g : Fin 16) (ecc : Ecc) (s : State) : Host.Outcome State Fault Refusal :=
  .next (issueAs 0x41 c g ecc s bodySt)

/-! ### Atomics (7.4) -/

/-- Lane, operand and compare value of each lane of an atomic. -/
def atomArgs (x : Group) (w : Nat) (ls : List Nat) : List (Nat × Nat × Nat) :=
  let n := dataRegs (fCond w)
  ls.map fun l => (l, x.rdN (fRb w) l n, x.rdN (fRc w) l n)

/-- The lanes of an atomic grouped by address, each address once at its lowest lane. -/
def atomGroups (ea : Nat → Nat) (args : List (Nat × Nat × Nat)) : List (Nat × List (Nat × Nat × Nat)) :=
  ((args.map fun t => ea t.1).eraseDups).map fun a => (a, args.filter fun t => ea t.1 == a)

/-- The effect of an atomic. -/
def atomBody (op : AtomOp) : Body := fun s c g w ecc =>
  let k := dataRegs (fCond w)
  let n := 8 * accBytes w
  let regs := if fNoRet w then 0 else k
  if fWide w then
    deviceAccess s c g w false false regs fun x ls =>
      (atomGroups (eaDevice x w) (atomArgs x w ls)).map fun t =>
        ((t.2.head?.map (·.1)).getD 0, t.1, .atomic op t.2)
  else match localChecks s c g w true ecc with
    | .error t => t
    | .ok s =>
      let x := s.grp c g
      let rs := (atomGroups (eaLocal x w) (atomArgs x w (accLanes x w))).map fun t =>
        (t.1, atomLanes op n (leNat (mread (s.core c).lm t.1 (accBytes w))) t.2)
      let s := s.storeLm c (byteWrites (rs.map fun r => (r.1, leBytes (accBytes w) r.2.1)))
      let got := rs.flatMap (·.2.2)
      s.updGrp c g fun x =>
        (if fNoRet w then x else x.wrDst (fRd w) k fun l => tget 0 got l).next

/-- Issue ATOM.ADD. -/
def execAtomAdd (c : Fin 272) (g : Fin 16) (ecc : Ecc) (s : State) : Host.Outcome State Fault Refusal :=
  .next (issueAs 0x42 c g ecc s (atomBody .add))

/-- Issue ATOM.MIN.S. -/
def execAtomMinS (c : Fin 272) (g : Fin 16) (ecc : Ecc) (s : State) : Host.Outcome State Fault Refusal :=
  .next (issueAs 0x43 c g ecc s (atomBody .minS))

/-- Issue ATOM.MAX.S. -/
def execAtomMaxS (c : Fin 272) (g : Fin 16) (ecc : Ecc) (s : State) : Host.Outcome State Fault Refusal :=
  .next (issueAs 0x44 c g ecc s (atomBody .maxS))

/-- Issue ATOM.MIN.U. -/
def execAtomMinU (c : Fin 272) (g : Fin 16) (ecc : Ecc) (s : State) : Host.Outcome State Fault Refusal :=
  .next (issueAs 0x45 c g ecc s (atomBody .minU))

/-- Issue ATOM.MAX.U. -/
def execAtomMaxU (c : Fin 272) (g : Fin 16) (ecc : Ecc) (s : State) : Host.Outcome State Fault Refusal :=
  .next (issueAs 0x46 c g ecc s (atomBody .maxU))

/-- Issue ATOM.AND. -/
def execAtomAnd (c : Fin 272) (g : Fin 16) (ecc : Ecc) (s : State) : Host.Outcome State Fault Refusal :=
  .next (issueAs 0x47 c g ecc s (atomBody .and))

/-- Issue ATOM.OR. -/
def execAtomOr (c : Fin 272) (g : Fin 16) (ecc : Ecc) (s : State) : Host.Outcome State Fault Refusal :=
  .next (issueAs 0x48 c g ecc s (atomBody .or))

/-- Issue ATOM.XOR. -/
def execAtomXor (c : Fin 272) (g : Fin 16) (ecc : Ecc) (s : State) : Host.Outcome State Fault Refusal :=
  .next (issueAs 0x49 c g ecc s (atomBody .xor))

/-- Issue ATOM.XCHG. -/
def execAtomXchg (c : Fin 272) (g : Fin 16) (ecc : Ecc) (s : State) : Host.Outcome State Fault Refusal :=
  .next (issueAs 0x4A c g ecc s (atomBody .xchg))

/-- Issue ATOM.CAS. -/
def execAtomCas (c : Fin 272) (g : Fin 16) (ecc : Ecc) (s : State) : Host.Outcome State Fault Refusal :=
  .next (issueAs 0x4B c g ecc s (atomBody .cas))

/-- Issue ATOM.FADD. -/
def execAtomFadd (c : Fin 272) (g : Fin 16) (ecc : Ecc) (s : State) : Host.Outcome State Fault Refusal :=
  .next (issueAs 0x4C c g ecc s (atomBody .fadd))

/-! ### FENCE.D and CACHE.RETIRE -/

/-- The effect of FENCE.D: it waits until every earlier device store, atomic and retire of the group has been
accepted at its home (R141, R165). -/
def bodyFenceD : Body := fun s c g _ _ =>
  if (s.grp c g).outst.any fun a => !a.load && a.left != 0 then stallRetry s c g
  else s.updGrp c g Group.next

/-- Issue FENCE.D. -/
def execFenceD (c : Fin 272) (g : Fin 16) (ecc : Ecc) (s : State) : Host.Outcome State Fault Refusal :=
  .next (issueAs 0x4E c g ecc s bodyFenceD)

/-- The effect of CACHE.RETIRE: one retire for each distinct line (R165). -/
def bodyCacheRetire : Body := fun s c g w _ =>
  deviceAccess s c g w true false 0 fun x ls =>
    ((ls.map fun l => eaDevice x w l / 256).eraseDups).map fun L =>
      ((ls.find? fun l => eaDevice x w l / 256 == L).getD 0, 256 * L, .retire)

/-- Issue CACHE.RETIRE. -/
def execCacheRetire (c : Fin 272) (g : Fin 16) (ecc : Ecc) (s : State) : Host.Outcome State Fault Refusal :=
  .next (issueAs 0x4F c g ecc s bodyCacheRetire)

/-! ### Replies -/

/-- DEVICE_ACCESS_REPLY: the oldest access that has been answered whole writes its destination registers, or
its bus error makes the group take trap 0x08 with the PC on the access (7.3; log 20). -/
def execDeviceAccessReply (c : Fin 272) (g : Fin 16) (s : State) : Host.Outcome State Fault Refusal :=
  let x := s.grp c g
  if x.st ≠ .running ∧ x.st ≠ .halted then .next s
  else match x.outst.find? fun a => a.left == 0 with
  | none => .next s
  | some a =>
    let y := { x with outst := x.outst.filter fun b => b.id != a.id }
    match a.err with
    | some (lane, d) => .next (takeTrap (s.setGrp c g { y with pc := a.pc }) c g 8 d lane 0)
    | none =>
      .next (s.setGrp c g (a.got.foldl (fun y v => y.wrN a.rd v.1 a.regs (loadValue a.size a.sext v.2)) y))

end Sys2Proof.Machine
end

