-- ==== Sys2Proof/Machine/Slice.lean ====
section
/-! DEFINITION. The slice family: requests served at their home (11.2), misses and fills (11.3), retires (11.5),
SRAM errors (11.6) and the fencing of a slice (11.7). -/

namespace Sys2Proof.Machine

/-! ### SRAM errors (11.6) -/

/-- Poisoned lines of a slice. -/
def poisoned (sl : Slice) : Nat := (sl.lines.filter fun e => e.2.poison).length

/-- An uncorrectable SRAM error of a line, a fault where it serves class-0 work (R234). -/
def sramEvent (s : State) (k cls a : Nat) : State :=
  faultIf s (cls == 0) { cls := 3, source := 2, stream := 0xFF, unitType := 3, unitId := k,
                         reason := if cls = 0 then 9 else 0, detail := a }

/-- A corrected error of a slice. -/
def sliceCorrection (s : State) (k : Nat) : State :=
  correction (s.updSlice k fun sl => { sl with corrected := satInc 16 sl.corrected }) 2 3 k

/-- A correction in a row of a slice's SRAM, counted since boot; at the fourth the row waits for repair (R306). -/
def noteSliceRow (s : State) (k row : Nat) : State :=
  let n := satInc 3 (tget 0 (s.slice k).rowCorr row)
  s.updSlice k fun sl => { sl with
    rowCorr := tput 0 sl.rowCorr row n
    rowsDue := if n = 4 ∧ !sl.rowsDue.contains row then sl.rowsDue ++ [row] else sl.rowsDue }

/-- The 256th poisoned line of a slice fences it (R234). -/
def fenceIfPoisoned (s : State) (k : Nat) : State := if 256 ≤ poisoned (s.slice k) then startSliceFence s k 6 0 else s

/-- Aperture address of a line of a slice-local window. -/
def apertureOf (k set way : Nat) : Nat := 0x8000000000 + 0x1000000 * k + way * mib + 256 * set

/-- A line is poisoned (R234); the 256th of a slice fences it. -/
def poisonLine (s : State) (k set way cls : Nat) : State :=
  let l := (s.slice k).line set way
  let s := s.updSlice k fun sl =>
    { sl.setLine set way { l with poison := true } with poisonSets := satInc 8 sl.poisonSets }
  fenceIfPoisoned (sramEvent s k cls (256 * l.no)) k

/-- What SRAM delivers, applied before a request to a line is served (R234, R235): a clean hashed line will be read again, a
line of source-0 weights is by its engine (R129), another slice-local one or a dirty one is poisoned. The engine's reading runs
in class 0, so that no host holds it up (the model's choice), and weights whose home cannot be read are poisoned (log 29). -/
def sramApply (s : State) (k : Nat) (h : Home) (cls : Nat) (ev : SramEv) : State :=
  match ev with
  | .ok => s
  | .corrected row => noteSliceRow (sliceCorrection s k) k row
  | .crcReplay => scheduleTest (sliceCorrection s k) k
  | .tagFatal => fatal s 2 0 3 k
  | .uncorrectable =>
    match findWay (s.slice k) h with
    | none => s
    | some way =>
      let l := (s.slice k).line h.set way
      let A := apertureOf k h.set way
      if l.poison then s
      else if h.way.isSome && !(lineSources (s.engine k) A).isEmpty then
        let r := refetchLine s k A 0
        if r.1 then r.2 else poisonLine r.2 k h.set way cls
      else if l.dirty || h.way.isSome then poisonLine s k h.set way cls
      else
        let s := s.updSlice k fun sl =>
          { sl.setLine h.set way { l with valid := 0, data := [] } with refetched := satInc 8 sl.refetched }
        sramEvent s k cls (256 * l.no)

/-! ### Choosing and serving a request -/

/-- A request takes a miss register. -/
def needsMiss (s : State) (k : Nat) (h : Home) (r : Req) : Bool :=
  match r.kind with
  | .retire => false
  | .write _ => false
  | _ => (sendsLines s k h r).contains (r.addr / 256)

/-- A request can be served now (R224, R255): it joins a waiter list with room, hits, or finds a miss register
and room in the channels' queues. -/
def servable (s : State) (k : Nat) (r : Req) : Bool :=
  match (s.slice k).miss.find? fun m => m.line == r.addr / 256 with
  | some m => decide (m.waiters.length < 32)
  | none =>
    match resolve s true r.addr with
    | .error _ => true
    | .ok h => (!needsMiss s k h r || missRoom s k r.cls) && linesRoom s (sendsLines s k h r) r.cls

/-- The slice's own limits let it send what a request needs (R258, kind 0x5). -/
def sliceAllows (s : State) (k : Nat) (r : Req) : Bool :=
  (s.slice k).missing (r.addr / 256) ||
  match resolve s true r.addr with
  | .error _ => true
  | .ok h => linesAllowed s k (sendsLines s k h r) r.cls

/-- Serve one request that has left the input queue. -/
def serve (s : State) (k : Nat) (ev : SramEv) (r : Req) : State :=
  let s := chargeSlice s k r.cls r.len
  if (s.slice k).missing (r.addr / 256) then
    joinMiss (countMerge s k r.cls) k r
  else match resolve s true r.addr with
  | .error e => answer s r (.error e)
  | .ok h => serveHere (sramApply s k h r.cls ev) k h r

/-- The next request of a slice among those a test admits (R221, R256). -/
def pickReq (s : State) (k : Nat) (can : Req → Bool) : Option (Nat × Req) :=
  let q := (s.slice k).inq
  (pickIdx (fun r => r.addr / 256) (fun r => rankOf (sliceBudget s k r.len) (sliceTurn s k) r.cls) can q).bind fun i =>
    (q[i]?).map fun r => (i, r)

/-- The next request of a slice (R256), where it is of the kind a command serves. -/
def nextReqAt (s : State) (k : Nat) (kind : ReqKind → Bool) : Option (Nat × Req) :=
  if !s.inService 3 k || sliceStopped s k then none
  else (pickReq s k fun r => servable s k r && sliceAllows s k r).filter fun p => kind p.2.kind

/-- A slice with no request it may serve counts the one its limits hold (REG_CLS_HELD). -/
def countSliceHold (s : State) (k : Nat) : State :=
  if !s.inService 3 k || sliceStopped s k then s
  else match pickReq s k (servable s k) with
    | some (_, r) => if sliceAllows s k r then s else countHeld s r.cls
    | none => s

/-- Serve the next request of a slice where it is of a kind; a read or an atomic of classes 1–7 first recalls the host's
copies and goes back to its source (R270, R283). The entry it leaves is free for one that waits at its source (R255). -/
def serveNext (s : State) (k : Nat) (kind : ReqKind → Bool) (ev : SramEv) : State :=
  match nextReqAt s k kind with
  | none => countSliceHold s k
  | some (i, r) =>
    let s := s.updSlice k fun sl => { sl with inq := sl.inq.eraseIdx i }
    let sn := snoopReq s r
    release (if sn.1 then serve sn.2 k ev r else sendBack sn.2 k r) k

/-- SLICE_READ: the next request is a read. -/
def execSliceRead (slice : Fin 128) (ev : SramEv) (s : State) : Host.Outcome State Fault Refusal :=
  .next (serveNext s slice (fun k => match k with
    | .read => true
    | _ => false) ev)

/-- SLICE_WRITE: the next request is a write or an atomic. -/
def execSliceWrite (slice : Fin 128) (ev : SramEv) (s : State) : Host.Outcome State Fault Refusal :=
  .next (serveNext s slice (fun k => match k with
    | .write _ => true
    | .atomic .. => true
    | _ => false) ev)

/-- LINE_RETIRE: the next request is a retire. It reads no data, so only its tag or its Seam transfer can err. -/
def execLineRetire (slice : Fin 128 × SramEv) (s : State) : Host.Outcome State Fault Refusal :=
  .next (serveNext s slice.1 (fun k => match k with
    | .retire => true
    | _ => false) (if slice.2 = .uncorrectable then .ok else slice.2))

/-! ### Fills (R224, R225) -/

/-- FILL_ARRIVAL: the oldest returned fill fills its line's invalid bytes and serves its waiter list in order; a CRC
mismatch on the Seam is replayed (R304). -/
def execFillArrival (slice : Fin 128 × Bool) (s : State) : Host.Outcome State Fault Refusal :=
  let k := slice.1.val
  match (s.slice k).rets with
  | [] => .next s
  | (L, bytes) :: rest =>
    if sliceStopped s k then .next s
    else
      let s := s.updSlice k fun sl => { sl with rets := rest }
      let s := if slice.2 then scheduleTest (sliceCorrection s k) k else s
      .next (fillLine s k L bytes none).2

/-! ### Fencing (11.7) -/

/-- Deal the buckets of a fenced slice to the survivors of its half in rank order, from the rank after it. -/
def dealBuckets (s : State) (n : Nat) : State :=
  let h := halfOfSlice n
  let live := ((List.range 64).map (64 * h + ·)).filter fun k => k != n && s.inService 3 k
  if live.isEmpty then s
  else
    let start := (live.filter fun k => decide (k < n)).length
    let mine := (List.range 256).filter fun b => homeEntry s h b == n
    { s with homes := ((List.range mine.length).zip mine).foldl (fun t p =>
        setHome t h p.2 (live.getD ((start + p.1) % live.length) n)) s.homes }

/-- The way of a set that a poisoned line takes and the window it enters under: a way it would be allocated under its
window's rules; else, under no window, the oldest way that is not protected, or one that only a persistent window protects
(R227, R229, R236; the model's choice where the set or the quota has no room; log 28). -/
def poisonWay (s : State) (k : Nat) (h : Home) : Option (Nat × Option WinRec) :=
  let sl := s.slice k
  let w := windowAt s h.backing
  match chooseWay s k h w with
  | .at_ way => some (way, w)
  | .bypass =>
    let all := List.range 16
    ((all.find? fun i => !(sl.line h.set i).present).orElse fun _ =>
      (oldestOf sl h.set (all.filter fun i => !protectedLine sl (sl.line h.set i))).orElse fun _ =>
      oldestOf sl h.set (all.filter fun i =>
        let l := sl.line h.set i
        !l.poison && !sl.missing l.no && !((windowAt s (256 * l.no)).any (·.slocal)))).map fun i => (i, none)

/-- Re-create a poisoned line at its new home (R236). -/
def movePoisoned (s : State) (l : Line) : State :=
  match resolve s true (256 * l.no) with
  | .error _ => s
  | .ok h =>
    match poisonWay s h.slice h with
    | none => s
    | some (way, w) =>
      let dem := demotes (s.slice h.slice) h.set w
      let s := evict writeBack s h.slice h.set way 0
      let e := enterLine (s.slice h.slice) h w dem l.cls
      let sl := if dem then { e.2 with demoted := sat 15 (e.2.demoted + 1) } else e.2
      fenceIfPoisoned (s.setSlice h.slice (sl.setLine h.set way
        { e.1 with valid := l.valid, data := l.data, dirty := true, poison := true })) h.slice

/-- A request of a fenced slice goes on to its new home, or gets a bus error where 11.4 gives it none. -/
def rehome (s : State) (r : Req) : State :=
  match resolve s true r.addr with
  | .ok h => deliver s h.slice r
  | .error e => answer s r (.error e)

/-- A slice is fenced (Table 11-3): the isolated slice hands over its dirty and poisoned lines and its filter, in class 0
(Table 12-7, kind 0x4), its buckets are dealt, the floor plan changes, and the requests held at it go to their new homes in
their order. -/
def fenceSlice (s : State) (n reason detail : Nat) : State :=
  let sl := s.slice n
  let ls := sl.lines.map (·.2)
  let hashed := ls.filter fun l => l.present && ((windowAt s (256 * l.no)).map (·.slocal)).getD false == false
  let s := (hashed.filter fun l => l.dirty && !l.poison).foldl (fun s l =>
    writeBack s n l.no 0 (maskedBytes l.data l.valid 256)) s
  let s := s.setSlice n { sl with lines := [], miss := [], inq := [], held := [], rets := [], filter := [], fencing := none }
  let mine := fun (r : MemReq) => !(r.slice == n && r.write.isNone)
  let drop := fun (m : Ctlr) => { m with q := m.q.filter mine, held := m.held.filter mine }
  let s := (List.range 16).foldl (fun s c => (s.updMc false c drop).updMc true c drop) s
  let s := dealBuckets s n
  let s := floorChange s 3 n 3 reason detail
  let s := (hashed.filter (·.poison)).foldl movePoisoned s
  let s := sl.filter.foldl (fun s e =>
    match resolve s true (256 * e.1) with
    | .ok h => s.updSlice h.slice fun x => enterFilter x e.1 e.2
    | .error _ => s) s
  sl.waiting.foldl rehome s

/-- SLICE_FENCE (Table 11-3). -/
def execSliceFence (slice : Fin 128) (s : State) : Host.Outcome State Fault Refusal :=
  match (s.slice slice).fencing with
  | some (reason, detail) => if putOff s then .next s else .next (goOn (fenceSlice s slice reason detail))
  | none => .next s

end Sys2Proof.Machine
end

