-- ==== Sys2Proof/Machine/DramCmds.lean ====
section
/-! DEFINITION. The memory controllers' commands (12.2 to 12.4) and traffic regulation (12.8, 12.9). -/

namespace Sys2Proof.Machine

/-! ### Choosing a request (R256) -/

/-- A controller may serve a request: a read that needs a counter entry goes by the controller's limit towards the counter
store (R258, kind 0x6). -/
def ctlAllows (s : State) (r : MemReq) : Bool :=
  r.write.isSome || (ctrNeeded s r.line).all fun x => ctrMayAsk s x.1 x.2 r.cls

/-- The next request of a controller among those a test admits (R221, R256). -/
def pickAtCtl (s : State) (lpddr : Bool) (c : Nat) (can : MemReq → Bool) : Option (Nat × MemReq) :=
  let q := (s.mc lpddr c).q
  if !s.inService (if lpddr then 5 else 4) c || ctlStopped s lpddr c then none
  else (pickIdx (·.line) (fun r => rankOf (ctlBudget s lpddr c) (ctlTurn s lpddr c) r.cls) can q).bind fun i =>
    (q[i]?).map fun r => (i, r)

/-- The next request of a controller, where it is a read or a write as asked. -/
def nextAtCtl (s : State) (lpddr : Bool) (c : Nat) (write : Bool) : Option (Nat × MemReq) :=
  (pickAtCtl s lpddr c (ctlAllows s)).filter fun p => p.2.write.isSome == write

/-- A controller with no request it may serve counts the one its limit holds (REG_CLS_HELD). -/
def countCtlHold (s : State) (lpddr : Bool) (c : Nat) : State :=
  match pickAtCtl s lpddr c (fun _ => true) with
  | some (_, r) => if ctlAllows s r then s else countHeld s r.cls
  | none => s

/-- Take a request out of its queue, where another may enter; charge its class and count it served. -/
def takeAtCtl (s : State) (lpddr : Bool) (c i : Nat) (r : MemReq) : State :=
  chargeCtl (admitCtl (s.updMc lpddr c fun m => { m with q := m.q.eraseIdx i }) lpddr c) lpddr c r.cls

/-- Give a read's bytes (none for a bus error) back to its slice. -/
def giveBack (s : State) (r : MemReq) (b : Option (List Byte)) : State :=
  s.updSlice r.slice fun sl => { sl with rets := sl.rets ++ [(r.line, b)] }

/-! ### Bonded channels -/

/-- BONDED_READ: the next read of a bonded channel (R241 to R244). -/
def execBondedRead (ch : Fin 16) (ev : BcEv) (s : State) : Host.Outcome State Fault Refusal :=
  let c := ch.val
  match nextAtCtl s false c false with
  | none => .next s
  | some (i, r) =>
    let t := bondedTake (takeAtCtl s false c i r) c r.line r.cls ev
    .next (giveBack t.2 r t.1)

/-- A write of a bonded channel is lost: its line enters the lost-write list, or the full list fences the channel (R244). -/
def loseWrite (s : State) (c : Nat) (r : MemReq) : State :=
  let full := decide (16 ≤ (s.bc c).lost.length) && !(s.bc c).lost.contains r.line
  let s := memError s false c 3 r.cls r.line
  if full then floorChange s 4 c 3 6 0
  else s.updMc false c fun m => { m with lost := if m.lost.contains r.line then m.lost else m.lost ++ [r.line] }

/-- BONDED_WRITE: the next write of a bonded channel writes its masked bytes, or is lost (R243, R244). -/
def execBondedWrite (ch : Fin 16) (ev : BcEv) (s : State) : Host.Outcome State Fault Refusal :=
  let c := ch.val
  match nextAtCtl s false c true with
  | none => .next s
  | some (i, r) =>
    let s := bondedEv (takeAtCtl s false c i r) c ev
    let ws := r.write.getD []
    match seamEnd ev, ev with
    | none, _ => .next (loseWrite s c r)
    | _, .dieUncorrectable w =>
      let s := bondedStore s c r.line ws
      let whole := (List.range 16).all fun j => ws.any fun p => p.1 == 16 * w.val + j
      if whole then .next s
      else .next (memError (markBad s c r.line w.val) false c 1 r.cls r.line)
    | some (_, f), _ =>
      .next (bondedStore s c r.line (ws.map fun w => (w.1, w.2 ^^^ ((f.find? fun x => x.1 == w.1).map (·.2)).getD 0)))

/-! ### LPDDR6 channels -/

/-- A read of an LPDDR6 channel gives its line back; bytes of the merge buffer lie over the stored page (R249), which is
read, corrected, checked and decrypted (R246, R251, R252), unless its decoded copy is held (R248). -/
def lpRead (s : State) (c : Nat) (r : MemReq) (noise : LpNoise) : State :=
  let p := (pageOf (256 * r.line)).2.1
  let off := 256 * r.line % 2048
  let es := (s.lp c).merge
  if mergeCovers es p off 256 then
    giveBack s r (some (slice (mergeOver es p (List.replicate 2048 0#8)) off 256))
  else
    match fetchPage s c p r.cls noise with
    | (.ok b, s) => giveBack s r (some (slice (mergeOver es p b) off 256))
    | (.error e, s) => giveBack (pageError s c p e r.cls r.line) r none

/-- LPDDR6_READ: the next read of an LPDDR6 channel. -/
def execLpddr6Read (ch : Fin 16) (noise : LpNoise) (s : State) : Host.Outcome State Fault Refusal :=
  match nextAtCtl s true ch false with
  | none => .next (countCtlHold s true ch)
  | some (i, r) => .next (lpRead (takeAtCtl s true ch i r) ch r noise)

/-- LPDDR6_WRITE: the next write merges into its page's open entry or opens one; with no entry free the oldest
open entry starts to drain and the write waits (R249). -/
def execLpddr6Write (ch : Fin 16) (s : State) : Host.Outcome State Fault Refusal :=
  let c := ch.val
  match nextAtCtl s true c true with
  | none => .next s
  | some (i, r) =>
    let p := (pageOf (256 * r.line)).2.1
    let m := s.lp c
    let opened := m.merge.any fun e => e.page == p && !e.draining
    if !opened && !mergeRoom m r.cls then .next (s.setLp c { m with merge := drainOldest m.merge })
    else
      let s := takeAtCtl s true c i r
      .next (s.updMc true c fun m =>
        { m with merge := mergeWrite m.merge s.now p (256 * r.line % 2048) r.cls (r.write.getD []) })

/-- MERGE_ENTRY_TIMEOUT: entries open for 2 µs start to drain. -/
def execMergeEntryTimeout (ch : Fin 16) (s : State) : Host.Outcome State Fault Refusal :=
  .next (s.updMc true ch fun m =>
    { m with merge := m.merge.map fun e => if e.opened + 2000 ≤ s.now then { e with draining := true } else e })

/-- MERGE_DRAIN_COMPLETE: the oldest draining entry has been written whole (R249, R251, R252), unless the controller's limit
towards the counter store holds it (R258). -/
def execMergeDrainComplete (ch : Fin 16) (noise : LpNoise) (s : State) : Host.Outcome State Fault Refusal :=
  match findIdx? (·.draining) (s.lp ch).merge with
  | some i =>
    let hold := (s.lp ch).merge[i]?.any fun e => !ctrMayAsk s ch e.page e.cls
    .next (if hold then countHeld s (((s.lp ch).merge[i]?.map (·.cls)).getD 7) else drainEntry s ch i noise)
  | none => .next s

/-! ### Level codes and budgets -/

/-- The eight codes of a controller, two bits each, from the highest use of the period, the use now among it. -/
def codesOf (total : Nat) (r n : Nat → Nat) (peak : Tab Nat) : Nat :=
  ((List.range 8).map fun c => levelCode total r c (max (partUse n r c) (tget 0 peak c)) * 4 ^ c).sum

/-- Requester kinds hold a fresh code of a controller. -/
def freshCode (s : State) (k : Nat) : State :=
  { s with reg := { s.reg with staleSet := tkeep s.reg.staleSet fun i => i % 1000 != k
                               codeAt := tput 0 s.reg.codeAt k s.now } }

/-- Number of a controller. -/
def ctlNo : Ctl → Nat
  | .slice k => sliceCtl k
  | .bonded c => memCtl false c
  | .lpddr c => memCtl true c

/-- LEVEL_CODE_PUBLISH: the codes of the period that ends go out (R257), and requests that a limit held at a slice's sources
go on where the new code lets them. State keeps the highest use of each part; the operand, which names the same of each class,
decides nothing. -/
def execLevelCodePublish (ctl : Ctl) (_peaks : List Nat) (s : State) : Host.Outcome State Fault Refusal :=
  let pub := fun (s : State) => freshCode s (ctlNo ctl)
  let mc := fun (lpddr : Bool) (c : Nat) =>
    let rv := ctlResv s lpddr c
    pub (s.updMc lpddr c fun m => { m with codes := codesOf 64 rv m.inUse m.peak, peak := raisePeak m.inUse rv [] })
  match ctl with
  | .slice k =>
    let rv := resvEntries s 3 k
    let t := pub (s.updSlice k fun sl => { sl with codes := codesOf 96 rv sl.inUse sl.peak, peak := raisePeak sl.inUse rv [] })
    .next (goOn (release t k))
  | .bonded c => .next (goOn (mc false c))
  | .lpddr c => .next (goOn (mc true c))

/-- Four periods of 64 cycles of a controller, in ticks (R257, R258). -/
def fourPeriods : Ctl → Nat
  | .slice _ => 160
  | .bonded _ => 171
  | .lpddr _ => 256000000 / Config.lpClockKHz

/-- LEVEL_CODE_STALE: a requester kind has missed a controller's code for four periods (R258). -/
def execLevelCodeStale (kind : Fin 7) (ctl : Ctl) (s : State) : Host.Outcome State Fault Refusal :=
  if s.now < tget 0 s.reg.codeAt (ctlNo ctl) + fourPeriods ctl then .next s
  else .next { s with reg := { s.reg with stale := true
                                          staleSet := tput false s.reg.staleSet (1000 * kind.val + ctlNo ctl) true } }

/-- BUDGET_WINDOW: a controller's class-0 budget is renewed, and its round robin begins anew (R256; log 26). -/
def execBudgetWindow (ctl : Ctl) (s : State) : Host.Outcome State Fault Refusal :=
  match ctl with
  | .slice k => .next (s.updSlice k fun sl => { sl with budgetUsed := 0, turns := [] })
  | .bonded c => .next (s.updMc false c fun m => { m with budgetUsed := 0, turns := [] })
  | .lpddr c => .next (s.updMc true c fun m => { m with budgetUsed := 0, turns := [] })

end Sys2Proof.Machine
end

