-- ==== Sys2Proof/Machine/Distribute.lean ====
section
/-! DEFINITION. Firmware and table distribution in rounds (14.7): the broadcast, the close, the answers of the receivers
and three resend rounds. -/

namespace Sys2Proof.Machine

/-- The receivers in service. -/
def receivers (s : State) : List Receiver :=
  ((List.finRange 272).filter fun (c : Fin 272) => s.coreOn c).map .core ++
  ((List.finRange 128).filter fun (n : Fin 128) => s.engineOn n).map .palm ++
  ((List.finRange 128).filter fun (n : Fin 128) => s.inService 3 n).map .slice ++
  ((List.finRange 16).filter fun (c : Fin 16) => s.inService 4 c).map .bonded ++
  ((List.finRange 16).filter fun (c : Fin 16) => s.inService 5 c).map .lpddr

/-- What a receiver meets in a round, if anything. -/
def lossAt (fwd : List FwdLoss) (r : Receiver) (round : Nat) : Option FwdLoss :=
  fwd.find? fun l => l.receiver == r && l.round.val == round

/-- Chunks of `n` that a receiver lacks after a round that sent it at least the chunks `lack`. A chunk once held with a
good CRC stays held; a receiver that holds every chunk under a digest that does not match starts again (R307). -/
def meetRound (n : Nat) (lack : List Nat) : Option FwdLoss → List Nat
  | none => []
  | some l =>
    let left := lack.filter l.bad.contains
    if left.isEmpty && l.digestBad then List.range n else left

/-- A receiver does not answer the close of a round. -/
def silentAt (fwd : List FwdLoss) (r : Receiver) (round : Nat) : Bool := (lossAt fwd r round).any (·.silent)

/-- One round for the receivers that are not complete, with the chunks they lack: those that lack chunks after it, or
whose missing answer counts as an empty bitmap. -/
def fwdRound (fwd : List FwdLoss) (chunks : Receiver → Nat) (round : Nat) (short : List (Receiver × List Nat)) :
    List (Receiver × List Nat) :=
  (short.map fun e => (e.1, meetRound (chunks e.1) e.2 (lossAt fwd e.1 round))).filter fun e =>
    !e.2.isEmpty || silentAt fwd e.1 round

/-- Before the broadcast a receiver lacks every chunk; one that meets nothing in it is complete after it. -/
def fwdStart (fwd : List FwdLoss) (chunks : Receiver → Nat) (rs : List Receiver) : List (Receiver × List Nat) :=
  (rs.filter fun r => (lossAt fwd r 0).isSome).map fun r => (r, List.range (chunks r))

/-- The rounds after round `r` up to round 3, every missing answer timed out: rounds used and receivers incomplete. -/
def resends (fwd : List FwdLoss) (chunks : Receiver → Nat) : Nat → Nat → List (Receiver × List Nat) → Nat × List Receiver
  | 0, r, short => (r, short.map (·.1))
  | k + 1, r, short =>
    if short.isEmpty then (r, []) else resends fwd chunks k (r + 1) (fwdRound fwd chunks (r + 1) short)

/-- A whole distribution: resend rounds used and receivers still incomplete after round 3 (R307). -/
def distribute (fwd : List FwdLoss) (chunks : Receiver → Nat) (rs : List Receiver) : Nat × List Receiver :=
  resends fwd chunks 3 0 (fwdRound fwd chunks 0 (fwdStart fwd chunks rs))

end Sys2Proof.Machine
end

