-- ==== Sys2Proof/Machine/Palm.lean ====
section
/-! DEFINITION. The Palm family (06): dispatch, checks, start and completion of launches, the two contexts, the
combining of R124 and R125, and restaging after the loss of an engine (R126 to R128). -/

namespace Sys2Proof.Machine

/-- A reserved field is non-zero (R8); fetch_row is zero but for op 0x2. -/
def palmReserved (b : List Byte) : Bool :=
  bit (rd b 1 1) 7 || decide (16 ≤ rd b 3 1) || decide (2 ≤ rd b 7 1) || !allZero (slice b 0x24 28) ||
  (rd b 3 1 % 16 != 2 && rd b 0x20 4 != 0)

/-- Regions of local memory a launch reads. -/
def PalmDesc.reads (d : PalmDesc) (k : Nat) : List Region4 :=
  if d.op = 2 then []
  else
    [(d.x, d.xStr, d.v, rowBytes d.fx k)] ++ (if isMx d.fx then [(d.xSc, k / 32, d.v, k / 32)] else []) ++
    (if d.given then [(d.xRm, 1, d.v, 1)] else [])

/-- Regions of local memory a launch writes. -/
def PalmDesc.writes (d : PalmDesc) (fw n k : Nat) : List Region4 :=
  match d.op with
  | 0 =>
    [(d.out, d.oStr, d.v, rowBytes d.fo (if isMx d.fo then cdiv n 32 * 32 else n))] ++
    (if isMx d.fo then [(d.outSc, cdiv n 32, d.v, cdiv n 32)] else [])
  | 1 => [(d.out, d.oStr, d.v, 8)]
  | _ => [(d.out, 0, 1, rowBytes fw k)] ++ (if isMx fw then [(d.outSc, 0, 1, k / 32)] else [])

/-- Bytes a launch writes to local memory (Bout of R122). -/
def PalmDesc.outBytes (d : PalmDesc) (fw n k : Nat) : Nat := ((d.writes fw n k).map fun r => r.2.2.1 * r.2.2.2).sum

/-- The first of causes 0x01 to 0x07 of Table 6-5 that a launch meets; `code` is the start of the issuing
core's code region. A launch in flight at a loss is judged by the shares it was judged by before (`moved`, R127). -/
def palmCheck (s : State) (b : List Byte) (moved : Bool) (code : Nat) : Option Nat :=
  let d := parsePalm b
  let shs := ((palmShares s d).map (·.2)).filter fun sh => !(moved && sh.extra)
  let m := shs.head?
  let fw := (m.map (·.fmtW)).getD 0
  let k := (m.map (·.kTotal)).getD 0
  let n := (m.map (·.nTotal)).getD 0
  if d.kind ≠ 0x20 then some 1
  else if palmReserved b then some 2
  else if family d.fx = 0 ∨ d.fx = 2 ∨ (m.isSome ∧ family d.fx ≠ family fw) then some 3
  else if d.op ≠ 1 ∧ d.op ≠ 2 ∧ (!(d.fo == 0 || d.fo == 1 || isMx d.fo) ∨
      (isMx d.fo ∧ shs.any fun sh => sh.rows % 32 != 0 || sh.outFirst % 32 != 0 || sh.outStride != 1)) then some 4
  else if 3 ≤ d.op ∨ d.v = 0 ∨ 9 < d.v ∨ (d.op = 2 ∧ d.v ≠ 1) then some 5
  else if m.isNone ∨ (d.op = 2 ∧ ((m.map (·.split)).getD false ∨ n ≤ d.row)) then some 6
  else if ([d.x, d.xSc, d.xRm, d.out, d.outSc, d.xStr, d.oStr].any fun a => a % 8 != 0) ∨
      (d.reads k).any (fun r => decide (0x100000 < regionEnd r)) ∨
      (d.writes fw n k).any (fun r => decide (code < regionEnd r)) then some 7
  else none

/-! ### Dispatch -/

/-- A Palm engine is in partial reset, its own or its slice's (Table 15-6): launches for it stay in their cores
(Table 15-3). -/
def palmResetting (s : State) (n : Nat) : Bool :=
  s.resetting || s.rst.partials.any fun p => match p.unit with
    | .palm e => e.val == n
    | .slice e => e.val == n
    | _ => false

/-- An engine takes a launch of a class into its queue; a class-0 arrival suspends a running context 1 (R121). -/
def Engine.take (e : Engine) (cls id : Nat) : Engine :=
  if cls = 0 then { e with q0 := e.q0 ++ [id], suspended := e.suspended || e.run1.isSome }
  else { e with q1 := e.q1 ++ [id] }

/-- LAUNCH_DISPATCH: the launch at the head of the DMA queue goes to every engine of its window with its vectors,
once each has room for it (R119, R121). -/
def execLaunchDispatch (c : Fin 272) (lmError : Bool) (s : State) : Host.Outcome State Fault Refusal :=
  let co := s.core c
  match co.dq with
  | [] => .next s
  | q :: qs =>
    if !q.palm || !s.coreRuns c then .next s
    else
      let d := parsePalm q.bytes
      let es := engineList s d.window
      let cls := s.coreClass c
      let full := es.any fun n =>
        palmResetting s n || decide (8 ≤ (if cls = 0 then (s.engine n).q0 else (s.engine n).q1).length)
      if full then .next s
      else
        let bad := lmError || q.bad
        let id := s.nextLaunch
        let L : Launch := { core := c, grp := q.grp, cls := cls, bytes := q.bytes, engines := es, started := [],
                            cause := if bad then 0x20 else 0 }
        let s := { s.setCore c { co with dq := qs } with launches := s.launches ++ [(id, L)], nextLaunch := id + 1 }
        let s := es.foldl (fun s n => s.updEngine n fun e => e.take cls id) s
        .next (if bad then descEvent s c q.grp 0x20 else s)

/-! ### Start -/

/-- A launch in flight. -/
def State.launch (s : State) (id : Nat) : Option Launch := (s.launches.find? fun e => e.1 == id).map (·.2)

/-- Change a launch. -/
def updLaunch (s : State) (id : Nat) (f : Launch → Launch) : State :=
  { s with launches := s.launches.map fun e => if e.1 = id then (e.1, f e.2) else e }

/-- PALM_ERR of an engine (6.8). -/
def Engine.fail (e : Engine) (cause core : Nat) : Engine :=
  { e with err := true, errSets := satInc 8 e.errSets, cause := cause, errCore := core }

/-- An engine out of service still holds shares that have not been dealt. -/
def undealt (s : State) (n : Nat) : Bool := !s.engineOn n && !(s.engine n).shares.isEmpty

/-- A window's engines hold it: the shares of an engine it has lost are still to be restaged (R126). -/
def windowHeld (s : State) (w : Nat) : Bool := (List.range 128).any fun j => undealt s j && (s.engine j).windows.contains w

/-- A launch waits at the engines: its window is held, or a staging or eviction of it began before the launch came
(R118). -/
def launchHeld (s : State) (id : Nat) : Bool :=
  match s.launch id with
  | none => false
  | some L =>
    let w := (parsePalm L.bytes).window
    windowHeld s w || s.img.stagings.any fun t => t.1 == w && decide (t.2.2.2.2 ≤ id)

/-- The next launch an engine would start and its context, those that wait under R118 passed over: context 0 in order
of arrival; else, unless context 1 is suspended, the lowest class of context 1, in order of arrival (R121). What an
engine started before in that context has ended its part there (log 29). -/
def Engine.pick (s : State) (e : Engine) : Option (Nat × Bool) :=
  match e.q0.filter fun id => !launchHeld s id with
  | id :: _ => some (id, true)
  | [] =>
    if e.suspended then none
    else
      let key := fun id => ((s.launch id).map (·.cls)).getD 8
      ((e.q1.filter fun id => !launchHeld s id).foldl (fun (b : Option Nat) id =>
        match b with
        | none => some id
        | some x => if key id < key x then some id else some x) none).map fun id => (id, false)

/-- A launch starts in a context of an engine, which no longer queues it. -/
def Engine.start (e : Engine) (id : Nat) (c0 : Bool) : Engine :=
  if c0 then { e with q0 := e.q0.filter (· != id), run0 := some id }
  else { e with q1 := e.q1.filter (· != id), run0 := none, run1 := some id }

/-- A launch leaves an engine's queue without being run. -/
def Engine.drop (e : Engine) (id : Nat) (c0 : Bool) : Engine :=
  if c0 then { e with q0 := e.q0.filter (· != id) } else { e with q1 := e.q1.filter (· != id) }

/-- A line lies in an engine's packed shares of a launch. -/
def inShares (shs : List Share) (A : Nat) : Bool :=
  shs.any fun sh => decide (0 < sh.packed) && decide (sh.wAddr < A + 256) && decide (A < sh.wAddr + sh.packed)

/-- An engine refetches a source-0 line (R129). A home that cannot be read ends the launch under R103 (log 29). -/
def refetch (s : State) (n id A cls : Nat) : State :=
  let r := refetchLine s n A cls
  if r.1 then r.2 else updLaunch r.2 id fun L => { L with cause := 0x21 }

/-- The cause that an engine's checks of a launch find, 0 for none. -/
def startCheck (s : State) (L : Launch) : Nat :=
  match palmCheck s L.bytes L.moved (4096 * (s.core L.core).codeBase) with
  | some x => x
  | none => if L.cause = 0x20 then 0x20 else 0

/-- A launch that passed its checks starts at an engine, which reads its weights: source-1 lines through the channels, with
what they meet (R122, R123), source-0 lines through its own port, an uncorrectable or poisoned one anew from its home (R129).
Lines behind a Cuff or a limit, or with the host, keep it waiting (R258, R270, R314). -/
def startLaunch (s : State) (n id : Nat) (c0 : Bool) (L : Launch) (ev : WeightEv) : State :=
  let d := parsePalm L.bytes
  let shs := (s.engine n).sharesOf d.window d.id
  let ls := sourceLines shs (if d.op = 2 then some d.row else none)
  let worn := (match ev with
    | .sramUncorrectable off => [0x8000000000 + 0x1000000 * n + off.val / 256 * 256].filter (inShares shs)
    | _ => []) ++ poisonedShares s n shs
  let homes := worn.eraseDups.flatMap (lineHomes s n)
  let sn := snoopRanges s L.cls (ls.map (fun l => (256 * l, 256)) ++ homes)
  if ls.any (lineHeld s) || homes.any (fun r => rangeHeld s r.1 r.2) then s
  else if !sourcesAllowed s L.cls ls then countHeld s L.cls
  else if !sn.1 then sn.2
  else
    let s := (updLaunch sn.2 id fun L => { L with started := L.started ++ [n] }).updEngine n fun e => e.start id c0
    let r := readSources s L.cls ls (match ev with
      | .bonded i e => some (i, e)
      | _ => none)
    let s := if r.1 then r.2 else updLaunch r.2 id fun L => { L with cause := 0x21 }
    worn.eraseDups.foldl (fun s A => refetch s n id A L.cls) s

/-- LAUNCH_START: an engine takes its next launch, checks it and starts reading weights (R119, R122). -/
def execLaunchStart (n : Fin 128) (ev : WeightEv) (s : State) : Host.Outcome State Fault Refusal :=
  let e := s.engine n
  if !s.engineOn n || palmResetting s n then .next s
  else
    match e.pick s with
    | none => .next s
    | some (id, c0) =>
      match s.launch id with
      | none => .next s
      | some L =>
        let chk := startCheck s L
        if chk = 0 then .next (startLaunch s n id c0 L ev)
        else .next (updLaunch (s.setEngine n ((e.drop id c0).fail chk L.core)) id fun L =>
          { L with started := L.started ++ [n.val], cause := chk })

/-- CONTEXT1_RESUME: context 1 goes on once context 0 has no launch left (R121). -/
def execContext1Resume (n : Fin 128) (s : State) : Host.Outcome State Fault Refusal :=
  let e := s.engine n
  if e.suspended && e.q0.all (launchHeld s) then .next (s.setEngine n { e with suspended := false, run0 := none }) else .next s

/-! ### Completion -/

/-- Slice cycles in which an engine's weights were delivered for a launch (R122, R123). -/
def engineCycles (d : PalmDesc) (shs : List Share) : Nat :=
  (shs.map fun sh =>
    let w := if d.op = 2 then (if sh.outRows.contains d.row then rowBytes sh.fmtW sh.kTotal +
        (if isMx sh.fmtW then sh.kTotal / 32 else 0) else 0) else sh.weight
    cdiv w (if sh.source then 128 else 384)).sum

/-- A launch leaves its engines: counts, flags and the context it ran in. -/
def leaveEngines (s : State) (id : Nat) (L : Launch) (d : PalmDesc) (ran : Bool) (fl : List (List Nat × Nat)) : State :=
  L.engines.foldl (fun s n => s.updEngine n fun e =>
    let f := (fl.filter fun p => p.1.contains n).foldl (fun a p => a ||| p.2) 0
    let e := { e with run0 := if e.run0 = some id then none else e.run0
                      run1 := if e.run1 = some id then none else e.run1
                      launches := (e.launches + 1) % 2 ^ 32 }
    let e := if ran then { e with readCycles := (e.readCycles + engineCycles d (e.sharesOf d.window d.id)) % 2 ^ 32 } else e
    if f % 16 = 0 then e else { e with flags := e.flags ||| f % 16, flagSets := satInc 8 e.flagSets }) s

/-- A launch of a core is ready to complete: its window is not held, every engine has started it, none is lost, and
none holds it suspended. -/
def launchReady (s : State) (c : Nat) (id : Nat) (L : Launch) : Bool :=
  L.core == c && !windowHeld s (parsePalm L.bytes).window && L.engines.all fun n => L.started.contains n && s.engineOn n &&
    !((s.engine n).suspended && (s.engine n).run1 == some id)

/-- The first source-1 line of a launch that can be read no more. -/
def lostSource (s : State) (L : Launch) : Option Nat :=
  let d := parsePalm L.bytes
  (L.engines.flatMap fun n => sourceLines ((s.engine n).sharesOf d.window d.id) (if d.op = 2 then some d.row else none)).find?
    fun l => !s.inService 4 (channelOf (256 * l)).2 || !readable s l

/-- Lines of a launch's source-0 weights that are poisoned, with their engines. -/
def wornLines (s : State) (L : Launch) : List (Nat × Nat) :=
  let d := parsePalm L.bytes
  L.engines.flatMap fun n => (poisonedShares s n ((s.engine n).sharesOf d.window d.id)).map fun A => (n, A)

/-- The weights of a launch as its engines read them to the end: a poisoned source-0 line anew from its home (R129), and a
source-1 line that fails ends the launch with cause 0x21 (R123). The Bool says that nothing holds the reads. -/
def readWeights (s : State) (id : Nat) (L : Launch) : Bool × State :=
  let worn := wornLines s L
  let homes := worn.flatMap fun x => lineHomes s x.1 x.2
  let sn := snoopRanges s L.cls homes
  if homes.any fun r => rangeHeld s r.1 r.2 then (false, s)
  else if !sn.1 then sn
  else
    let s := worn.foldl (fun s x => refetch s x.1 id x.2 L.cls) sn.2
    match lostSource s L with
    | none => (true, s)
    | some l =>
      let c := (channelOf (256 * l)).2
      let s := updLaunch s id fun L => { L with cause := 0x21 }
      (true, match bondedLine s c l with
        | .error e => memError s false c e L.cls l
        | .ok _ => s)

/-- LAUNCH_COMPLETE: the oldest ready launch of a core completes (R120); with a cause, by the error bit of its
token and with nothing written (R119, R103). -/
def execLaunchComplete (c : Fin 272) (s : State) : Host.Outcome State Fault Refusal :=
  match s.launches.find? fun e => launchReady s c e.1 e.2 with
  | none => .next s
  | some (id, L0) =>
    let w := if L0.cause = 0 then readWeights s id L0 else (true, s)
    if !w.1 then .next w.2 else
    let s := w.2
    let L := (s.launch id).getD L0
    let d := parsePalm L.bytes
    let cause := if L.engines.isEmpty ∧ L.cause = 0 then
        (palmCheck s L.bytes L.moved (4096 * (s.core c).codeBase)).getD 6 else L.cause
    let s := { s with launches := s.launches.filter fun e => e.1 != id }
    let taker := L.grp != 16 && !s.coreHeld c
    if cause ≠ 0 then
      let s := if cause = 0x21 then L.engines.foldl (fun s n => s.updEngine n fun e => e.fail 0x21 c) s else s
      let s := leaveEngines s id L d (cause == 0x21) []
      if !taker then .next s
      else .next (tokenDone s c L.grp d.token 0 true (if cause = 0x20 ∨ cause = 0x21 then 9 else 3))
    else
      let mx := mixMem (L.seen ++ comingMx s c ++ comingDma s c ++ comingLaunches s c (some id)) (s.core c).lm s.freeCtr
      let o := palmRun s d mx.1
      let s := leaveEngines { s with freeCtr := mx.2 } id L d true o.2
      if !taker then .next s
      else
        let fl := o.2.foldl (fun a p => a ||| p.2) 0
        .next (tokenDone (orFlags (landLm s c L.seen o.1) c fl) c L.grp d.token fl false 0)

/-! ### Loss of an engine (R126 to R128) -/

/-- Dealt rows do not fit (R128): the streams that name the window are shed in shedding order, with a refusal
record. -/
def overflowWindow (s : State) (lost w : Nat) (ds : List Dealt) : State :=
  let need := ((ds.map fun d => d.share.packed).sum)
  let quota := match windowNo s w with
    | some r => r.ways * mib * (engineList s w).length
    | none => 0
  let s := writeRefusal s 0x10 s.imageDigest
    { check := 1, resource := 6, unitType := 3, unitId := lost, demand := need,
      limit := quota - ((engineList s w).map fun n => usedBytes s n w).sum }
  let order := match s.img.running with
    | some im => im.shed
    | none => []
  (order.filter (streamsOfWindow s w).contains).foldl shedStream s

/-- Restage one window of a lost engine: the shares dealt, none where they do not fit. -/
def restageWindow (s : State) (lost w : Nat) : List Dealt × State :=
  let ds := dealWindow s lost w
  if dealFits s w ds && !(engineList s w).isEmpty then (ds, applyDeal s ds) else ([], overflowWindow s lost w ds)

/-- Restage windows in order: all shares dealt. -/
def restageWindows (s : State) (lost : Nat) (ws : List Nat) : List Dealt × State :=
  ws.foldl (fun (a : List Dealt × State) w =>
    let r := restageWindow a.2 lost w
    (a.1 ++ r.1, r.2)) ([], s)

/-- The dealt shares that a launch in flight needs of a lost engine: those of its matrix with rows, for a row fetch the one that
holds its row. -/
def heirShares (d : PalmDesc) (ds : List Dealt) : List Dealt :=
  ds.filter fun x => x.share.window == d.window && x.share.matrixId == d.id && decide (0 < x.share.rows) &&
    (d.op != 2 || x.share.outRows.contains d.row)

/-- An engine runs its dealt part of a launch: one that has started the launch reads the dealt source-1 lines now, one that has
not reads them at its start (R123, R127). -/
def replayAt (s : State) (id n : Nat) (L : Launch) (shs : List Share) : State :=
  let d := parsePalm L.bytes
  let s := s.updEngine n fun x => { x with replays := satInc 16 x.replays }
  if !L.started.contains n then s
  else
    let ls := sourceLines shs (if d.op = 2 then some d.row else none)
    let r := readSources (snoopRanges s 0 (ls.map fun l => (256 * l, 256))).2 L.cls ls none
    if r.1 then r.2 else updLaunch r.2 id fun L => { L with cause := 0x21 }

/-- The lost engine's part of every launch in flight runs again on the survivors that hold its rows; a launch that has failed
runs nothing (R103, R127). -/
def replayParts (s : State) (lost : Nat) (ds : List Dealt) : State :=
  s.launches.foldl (fun s e =>
    if e.2.engines.contains lost then
      let s := updLaunch s e.1 fun L =>
        { L with engines := L.engines.filter (· != lost), started := L.started.filter (· != lost), moved := true }
      let mine := if e.2.cause = 0 then heirShares (parsePalm e.2.bytes) ds else []
      let heirs := (mine.map (·.engine)).eraseDups
      let s := heirs.foldl (fun s n => replayAt s e.1 n e.2 ((mine.filter fun x => x.engine == n).map (·.share))) s
      if heirs.isEmpty then s
      else faultEvent s { cls := 3, source := 6, stream := 0xFF, unitType := 3, unitId := lost, reason := 8 }
    else s) s

/-- A Cuff holds a home of the shares a lost engine held, or a slice that is to take them (R314). -/
def restageHeld (s : State) (n : Nat) : Bool :=
  ((s.engine n).shares.any fun sh => sh.homes.any fun r => rangeHeld s r.1 r.2) ||
  ((s.engine n).windows.any fun w => (engineList s w).any (sliceHeld s))

/-- RESTAGE_COMPLETE: the shares of an engine that left service have been dealt and copied, and launches in flight
go on (R126, R127). -/
def execRestageComplete (n : Fin 128) (s : State) : Host.Outcome State Fault Refusal :=
  if s.engineOn n ∨ ((s.engine n).shares.isEmpty ∧ !(s.launches.any fun e => e.2.engines.contains n.val)) ∨
      restageHeld s n then .next s
  else
    let r := restageWindows s n ((s.engine n).windows.mergeSort fun a b => decide (a ≤ b))
    let s := replayParts r.2 n r.1
    let s := s.updEngine n fun e => { e with shares := [], q0 := [], q1 := [], run0 := none, run1 := none, suspended := false,
                                             restaging := false }
    .next ((List.range 128).foldl (fun s k =>
      let e := s.engine k
      if e.restaging && !((List.range 128).any fun j => undealt s j && (s.engine j).windows.any e.windows.contains) then
        s.setEngine k { e with restaging := false } else s) s)

end Sys2Proof.Machine
end

