-- ==== Sys2Proof/Machine/Contract.lean ====
section
/-! DEFINITION. The contract at run time: re-check and shedding (R62 to R64), the full re-fit (R63), shadow re-fits
(R35), the end of a fault (R61), and the maintenance slots with the field self-test (R47, R302 to R306). -/

namespace Sys2Proof.Machine

/-! ### Re-check and re-fit -/

/-- Publish a fit's clocks and promises (R63). -/
def publishFit (s : State) (f : FitOk) : State :=
  let s := { s with fit := { s.fit with clocks := (List.range 4).foldl (fun t p => tput 0xFF t p (f.clocks.getD p 0xFF)) [] } }
  f.streams.foldl (fun s x => s.updStream x.id fun st => { st with promise := x.promise, margin := x.margin }) s

/-- A class-0 stream that is not shed. -/
def class0Left (s : State) : Bool := s.streamIds.any fun n => s.isClass0 n && (s.stream n).state != 3

/-- Re-check, shedding the next stream of the image's order after each failure, until every remaining class-0 stream
passes (R62, R64). -/
def recheckLoop (im : Image) : Nat → State → State
  | 0, s => s
  | k + 1, s =>
    match fit (recheckInput s false) im with
    | .ok f => publishFit s f
    | .error e =>
      if !class0Left s then s
      else
        let s := writeRefusal s 0x10 im.digest e
        match im.shed.find? fun n => (s.stream n).state != 3 with
        | some n => recheckLoop im k (shedStream s n)
        | none => s

/-- The requests of lost sequences end before the re-check (R208). -/
def endLostRequests (s : State) : State :=
  s.streamIds.foldl (fun s n =>
    ((s.stream n).reqs.filter fun r => r.failing == some 8).foldl (fun s r => endLost s n r.slot) s) s

/-- RECHECK: the re-check that a change has made due (R62 to R64). -/
def execRecheck (s : State) : Host.Outcome State Fault Refusal :=
  match s.img.running, s.fit.recheckDue with
  | some im, some since =>
    let s := recheckLoop im 65 (endLostRequests s)
    .next { s with fit := { s.fit with recheckDue := none, refitDue := true, rechecks := satInc 16 s.fit.rechecks
                                       lastDuration := sat 16 ((s.now - since) / 10) } }
  | _, _ => .next s

/-- FULL_REFIT: the whole Fitting on the running image; its promises replace those of the re-check (R63), and a refusal writes the record
(R53). -/
def execFullRefit (s : State) : Host.Outcome State Fault Refusal :=
  match s.img.running with
  | some im =>
    if s.fit.refitDue && s.fit.recheckDue.isNone then
      let s := { s with fit := { s.fit with refitDue := false } }
      match fit (recheckInput s true) im with
      | .ok f =>
        .next { publishFit s f with fit := { (publishFit s f).fit with
          persist0 := persistentLoad s.flp.cur im 0, persist1 := persistentLoad s.flp.cur im 1 } }
      | .error e => .next (refuseFit s 0x10 im.digest e)
    else .next s
  | none => .next s

/-- A load ends with a code of Table 2-8 (IMG_STATUS, 2.8). -/
def recordLoad (s : State) (slot code : Nat) : State :=
  { s with img := { s.img with
      loadError := code, sourceSlot := slot, loadFailed := s.img.loadFailed || code != 0
      loadSets := if code = 0 then s.img.loadSets else satInc 8 s.img.loadSets } }

/-- Fit a shadow copy and record its verdict, or the load error its verification ends with (R29, R33, R35). Every verification
that fails is a load failure that load_sets counts, so one copy counts again at each re-fit and at boot step 14 (the model's
choice: the spec does not say which verifications are loads; log 38). -/
def fitShadow (s : State) (n origin : Nat) : State :=
  let sh := s.shadow n
  let b := s.shadowBytes n
  let s := touchShadow s n
  match loadImage (loadEnv s) b with
  | .error c => recordLoad (s.setShadow n { sh with verdict := 2, current := true, loadError := c }) n c
  | .ok im =>
    match fit (fitInput s) im with
    | .ok _ => s.setShadow n { sh with verdict := 1, current := true }
    | .error e => refuseFit (s.setShadow n { sh with verdict := 2, current := true }) origin im.digest e

/-- SHADOW_REFIT: every shadowed profile whose verdict has ceased to be current, in ascending slot order (R35). -/
def execShadowRefit (s : State) : Host.Outcome State Fault Refusal :=
  .next ((List.range 8).foldl (fun s n =>
    if (s.shadow n).made && !(s.shadow n).current then fitShadow s n n else s) s)

/-- What a fault still holds class-0 service for (3.7): a re-check, a fencing, a restaging or a partial reset. -/
def recovering (s : State) : Bool :=
  s.fit.recheckDue.isSome || (s.slices.any fun e => e.2.fencing.isSome) || (s.engines.any fun e => e.2.restaging) ||
  !s.rst.partials.isEmpty

/-- FAULT_CLEARS: class-0 service has resumed on every stream not shed (R61). -/
def execFaultClears (s : State) : Host.Outcome State Fault Refusal :=
  if s.fit.faultActive && !recovering s then
    .next { s with fit := { s.fit with faultActive := false, faultUnit := none, faultEnd := s.now
                                       faultEndReason := s.fit.faultReason } }
  else .next s

/-! ### Repair of bonds (R14, R15, R305) -/

/-- A field-tested unit: unit_type and physical number (R302). -/
def testUnit (u : Nat) : Nat × Nat := if u < 128 then (3, u) else (4, u - 128)
/-- Partition whose maintenance slots test a unit (R302). -/
def testPart (u : Nat) : Nat := if u < 128 then u / 32 else (u - 128) / 4
/-- Set of a lane group: 0 for A, 1 for B (1.3). -/
def setOf (ut group : Nat) : Nat := if (if ut = 3 then 100 else 68) ≤ group then 1 else 0
/-- Lane groups of a port (1.3). -/
def groupsOf (ut : Nat) : Nat := if ut = 3 then 200 else 136

/-- Lane groups of a unit with a failed bond, and the bond. -/
def sparedGroups (s : State) (ut id : Nat) : List (Nat × Nat) := if ut = 3 then (s.slice id).spared else (s.bc id).spared
/-- Sets of a unit out of service. -/
def setsOut (s : State) (ut id : Nat) : Nat := if ut = 3 then (s.slice id).setsDown else (s.bc id).setsDown

/-- A failed bond of a lane group is noted. -/
def noteBond (s : State) (ut id g lane : Nat) : State :=
  if ut = 3 then s.updSlice id fun x => { x with spared := x.spared ++ [(g, lane)] }
  else s.updMc false id fun x => { x with spared := x.spared ++ [(g, lane)] }

/-- A lane group takes its spare into use. -/
def useSpare (s : State) (ut id g lane : Nat) : State :=
  let s := noteBond s ut id g lane
  if ut = 3 then { s with flp := { s.flp with cur := { s.flp.cur with seamSpared := s.flp.cur.seamSpared + 1 } } }
  else { s with flp := { s.flp with cur := { s.flp.cur with dramSpared := s.flp.cur.dramSpared + 1 } } }

/-- A set leaves service. -/
def dropSet (s : State) (ut id k : Nat) : State :=
  if ut = 3 then s.updSlice id fun x => { x with setsDown := setBit x.setsDown k }
  else s.updMc false id fun x => { x with setsDown := setBit x.setsDown k }

/-- A port at half width runs on the set its record names, and the other set is out of service; every other port in service
runs on both (slice_set and bc_set of Table 1-8). -/
def recordSets (s : State) : State :=
  let f := s.flp.cur
  let s := (f.slice.filter fun e => e.2 == 1).foldl (fun s e => dropSet s 3 e.1 (1 - b2n (bit f.sliceSet e.1))) s
  (f.bc.filter fun e => e.2 == 1).foldl (fun s e => dropSet s 4 e.1 (1 - b2n (bit f.bcSet e.1))) s

/-- A bond of a lane group fails: the spare takes its place (true), or, where the spare is in use or has failed, the group
is exhausted and its set leaves service (R14, R15). A spare that fails while idle stands in for nothing, and a lane
already remapped carries nothing (DEDUCED; log 41). The floor plan change is `half` for the first set lost and `full` for
the last. -/
def failBond (s : State) (ut id g lane : Nat) (half full : State → State) : Bool × State :=
  let k := setOf ut g
  if bit (setsOut s ut id) k then (false, s)
  else match (sparedGroups s ut id).find? fun e => e.1 == g with
    | none => if lane = 32 then (false, noteBond s ut id g 32) else (true, useSpare s ut id g lane)
    | some e =>
      if e.2 = lane then (false, s)
      else
        let s := dropSet s ut id k
        (false, if setsOut s ut id = 3 then full s else half s)

/-- A bond fails in service (R302, R305): a remap is a correction recorded in FTS_RESULT; an exhausted group changes the
port, and a slice whose Palm engine is already fenced is fenced (1.7). -/
def fieldBond (s : State) (ut id g lane : Nat) : State :=
  let reason := if ut = 3 then 2 else 3
  let fence := fun s => if ut = 3 then startSliceFence s id 2 g else floorChange s 4 id 3 3 g
  let r := failBond s ut id g lane
    (fun s => if ut = 3 ∧ s.unitState 3 id = 2 then fence s else floorChange s ut id 1 reason g (setOf ut g == 0)) fence
  if r.1 then
    let s := correction r.2 1 ut id 0 g
    { s with boot := { s.boot with ftsRepaired := true, ftsType := ut, ftsUnit := id, ftsGroup := g } }
  else r.2

/-! ### Maintenance slots (R47, R302, R303, R306) -/

/-- A unit can be tested: it is in service and no Cuff holds it in reset. -/
def testable (s : State) (u : Nat) : Bool :=
  let t := testUnit u
  s.inService t.1 t.2 && !(s.rst.partials.any fun p => match p.unit with
    | .slice k => t == (3, k.val)
    | .bonded k => t == (4, k.val)
    | _ => false)

/-- Test slots of the last 10⁹ ticks. -/
def recentTests (s : State) : List Nat := s.boot.testTicks.filter fun t => decide (s.now < t + 1000000000)

/-- At a slice's turn, SRAM rows with four corrections are copied to spares while spares remain (R306); those beyond count
once as unrepaired. A row whose copying meets a corrected error counts it. -/
def repairRows (s : State) (n : Nat) (corrected : List Nat) : State :=
  let sl := s.slice n
  let fixed := sl.rowsDue.take (256 - sl.rowsUsed)
  let left := sl.rowsDue.drop (256 - sl.rowsUsed)
  let s := (fixed.filter corrected.contains).foldl (fun s _ => correction s 2 3 n) s
  let s := s.setSlice n { sl with
    rowCorr := fixed.foldl (fun t r => tput 0 t r 0) sl.rowCorr, rowsDue := [], rowsUsed := sl.rowsUsed + fixed.length
    corrected := sat 16 (sl.corrected + (fixed.filter corrected.contains).length) }
  { s with boot := { s.boot with rowsRepaired := sat 16 (s.boot.rowsRepaired + fixed.length)
                                 rowsUnrepaired := sat 16 (s.boot.rowsUnrepaired + left.length) } }

/-- Bonds of a unit that mismatched: group and lane. -/
def badBonds (u : Nat) (ms : List Bond) : List (Nat × Nat) :=
  let t := testUnit u
  (ms.filter fun b => b.bonded == (t.1 == 4) && b.unit.val == t.2 && decide (b.group.val < groupsOf t.1)).map fun b =>
    (b.group.val, b.lane.val)

/-- One test slot of a unit (R302, R303): slots 1 and 2 test sets A and B, slots 3 and 4 retest what mismatched. A bond
that mismatches again fails. -/
def testSlot (s : State) (x : FieldTest) (ms : List Bond) : State × List (Nat × Nat) :=
  let t := testUnit x.unit
  let set := (x.slot + 1) % 2
  let seen := ((badBonds x.unit ms).filter fun g => setOf t.1 g.1 == set && !bit (setsOut s t.1 t.2) set).eraseDups
  if x.slot ≤ 2 then (s, x.bonds ++ seen)
  else ((seen.filter x.bonds.contains).foldl (fun s g => fieldBond s t.1 t.2 g.1 g.2) s, x.bonds)

/-- MAINTENANCE_SLOT: the partition's slot runs the next test slot of a unit under test, within the limit of 8 slots in
10⁹ ticks (R302), and a slice's row repairs at its turn (R306). -/
def execMaintenanceSlot (part : Fin 4) (mismatch : List Bond) (correctedRows : List Nat) (s : State) :
    Host.Outcome State Fault Refusal :=
  let s := { s with boot := { s.boot with tests := s.boot.tests.filter fun t => testable s t.unit } }
  match s.boot.tests.find? fun t => testPart t.unit == part.val with
  | none => .next s
  | some x =>
    let recent := recentTests s
    if 8 ≤ recent.length then .next s
    else
      let s := if x.unit < 128 ∧ x.slot = 1 ∧ x.turn then repairRows s x.unit correctedRows else s
      let r := testSlot s x mismatch
      let rest := r.1.boot.tests.erase x
      let tests := if x.slot < 4 then { x with slot := x.slot + 1, bonds := r.2 } :: rest else rest
      .next { r.1 with boot := { r.1.boot with tests := tests, testTicks := recent ++ [s.now] } }

/-- FIELD_TEST_TURN: unit k's turn comes 4 × 10⁹ × k ticks after the pass starts (R302); a test of the unit that waits for
its first slot serves the turn too (R304). -/
def execFieldTestTurn (index : Fin 144) (s : State) : Host.Outcome State Fault Refusal :=
  let k := index.val
  let b := s.boot
  if !b.ready ∨ b.ftsNext ≠ k ∨ s.now < b.passAt + 4000000000 * k then .next s
  else
    .next { s with boot := { b with
      tests := if testWaits s k then b.tests.map fun t => if t.unit = k ∧ t.slot = 1 then { t with turn := true } else t
        else if testable s k then b.tests ++ [{ unit := k, slot := 1, bonds := [], turn := true }] else b.tests
      ftsNext := (k + 1) % 144
      ftsPasses := if k = 143 then satInc 8 b.ftsPasses else b.ftsPasses
      passAt := if k = 143 then b.passAt + 600000000000 else b.passAt } }

end Sys2Proof.Machine
end

