-- ==== Sys2Proof/Machine/Page.lean ====
section
/-! DEFINITION. The command page (13.5): the poll that takes posted entries, what a command of the page writes back,
and the bytes a command reads from the host. -/

namespace Sys2Proof.Machine

/-! ### Jobs (R280) -/

/-- The first 64 bits of a body are bytes 0x08 to 0x0F of the entry: its argument `k` (Table 13-8). -/
def Job.arg (j : Job) (k : Nat) : Nat := rd j.args (8 + 8 * k) 8

/-- The reserved field at 0x0A, or an argument beyond the command's own, is not zero. -/
def Job.malformed (j : Job) (args : Nat) : Bool := rd j.args 2 2 != 0 || !allZero (j.args.drop (8 + 8 * args))

/-- The taken command of an entry, if it is the next to start: commands start in the order in which they were taken (R280,
R345; log 89). -/
def newJob (s : State) (entry opcode : Nat) : Option Job :=
  (s.jobs.find? fun j => !j.started).filter fun j => j.entry == entry && j.opcode == opcode

/-- A security command's refusal shows in SEC_AUTH_ERR (17.8). -/
def authErr (s : State) (opcode status : Nat) : State :=
  if opcode / 256 = 0x11 then { s with sec := { s.sec with errOpcode := opcode, errStatus := status } } else s

/-- The command is refused: it never started (R280). -/
def refuseCmd (s : State) (j : Job) (status : Nat) : State :=
  authErr (dropJob (writeEntry s j.entry 4 status) j.entry) j.opcode status

/-- The command starts: its entry reads running. -/
def startCmd (s : State) (j : Job) : State :=
  let s := writeEntry s j.entry 2 0
  { s with jobs := s.jobs.map fun k => if k.entry = j.entry then { k with started := true } else k }

/-- Units moved, in 4 KiB (Table 13-8). -/
def progressOf (s : State) (entry bytes : Nat) : State :=
  s.setEntry entry { s.entry entry with progress := sat 32 (cdiv bytes 4096) }

/-- Opcodes of Tables 2-11, 9-5, 13-10, 15-4 and 17-3. -/
def opcodes : List Nat :=
  [0x0201, 0x0202, 0x0203, 0x0204, 0x0205, 0x0206, 0x0207, 0x0901, 0x0902, 0x0D01, 0x0F01, 0x0F02, 0x0F03, 0x1101, 0x1102,
   0x1103, 0x1104, 0x1105, 0x1106, 0x1107, 0x1108, 0x1109]

/-- Take one posted entry: its arguments are copied; an unknown opcode is refused. -/
def takeEntry (s : State) (e : Nat) : State :=
  let x := s.entry e
  let op := rd x.body 0 2
  if opcodes.contains op then
    let s := s.setEntry e { x with taken := true }
    { s with jobs := s.jobs ++ [{ entry := e, opcode := op, args := slice x.body 0 248, started := false }] }
  else writeEntry s e 4 1

/-- Posted entries not yet taken, the management port's first, each in ascending number (R280). -/
def postedEntries (s : State) : List Nat :=
  ((List.range 16).map (16 + ·) ++ List.range 16).filter fun e => (s.entry e).state == 1 && !(s.entry e).taken

/-- COMMAND_PAGE_POLL: at most four entries are taken (R280), once the module is ready and nothing has stopped the
poll. -/
def execCommandPagePoll (s : State) : Host.Outcome State Fault Refusal :=
  if s.boot.ready && !stopped s then .next (((postedEntries s).take 4).foldl takeEntry s) else .next s

/-! ### Bytes at a link address (R265, R268) -/

/-- What reading bytes at a link address comes to. -/
inductive Fetched where
  /-- The bytes. -/
  | bytes (b : List Byte)
  /-- The host has the lines and is asked for them first (R270), or a Cuff or a limit holds the read (R258, R314). -/
  | waits
  /-- A reserved bit, or an HDM offset in no device window. -/
  | badAddress
  /-- The host does not deliver them. -/
  | unreachable

/-- Read `n` bytes at a link address for the Crown: device memory under an HDM offset, or a bound host-memory window,
whose bytes the command carries (`data`; none for poison or an error). -/
def fetchLink (s : State) (a n : Nat) (data : Option (List Byte)) : Fetched × State :=
  if linkReserved a then (.badAddress, s)
  else if bit a 63 then
    let ok := s.hlk.up && !ideBlocked s && match tget none s.hlk.binds (fld a 59 56) with
      | some b => decide (fld a 47 0 + n ≤ b.2)
      | none => false
    match data with
    | some d => if ok then (.bytes (slice d 0 n), s) else (.unreachable, s)
    | none => (.unreachable, s)
  else
    match hdmFind s a n with
    | none => (.badAddress, s)
    | some w =>
      let m := mayAccess s 4 7 w.2 n false
      let sn := snoopRead m.2 7 w.2 n
      if !m.1 then (.waits, m.2)
      else if !sn.1 then (.waits, sn.2)
      else
        let r := devRead sn.2 false 7 w.2 n
        match r.1 with
        | .ok b => (.bytes b, r.2)
        | .error _ => (.unreachable, r.2)

/-- Run a command that reads bytes from the host: it waits for the host's lines, is refused for a bad address, ends
failed with status 0x0008 where the host is not reached, and goes on with the bytes otherwise. -/
def withLink (s : State) (j : Job) (a n : Nat) (data : Option (List Byte)) (k : State → List Byte → State) : State :=
  let f := fetchLink s a n data
  match f.1 with
  | .waits => f.2
  | .badAddress => refuseCmd f.2 j 1
  | .unreachable => endCmd f.2 j.entry false 8
  | .bytes b => k f.2 b

end Sys2Proof.Machine
end

