-- ==== Sys2Proof/Machine/Load.lean ====
section
/-! DEFINITION. Starting and ending an image: what step 6 of Table 2-10 puts into the cores (R176, R186), and what
step 8 sets from the new image (R66, R209, R216, R228, R232, R237, R261, R282, R290). -/

namespace Sys2Proof.Machine

/-! ### Cores (R176, R186) -/

/-- A table bank of an image's slot records. -/
def tableBank (ts : List (Nat × TblRec)) : Tab (Option TblRec) := ts.foldl (fun t x => tput none t x.1 (some x.2)) []

/-- R186 in one core: the image's tables in bank 0, bank 1 empty, bank 0 active, the mode record's mode. -/
def installTables (f : Sfu) (im : Image) : Sfu :=
  { f with bank0 := tableBank im.tables, bank1 := [], bank := false, compat := im.compat.getD false, shadow := none,
           loading := false }

/-- R176: a core takes its graph's code at the start of its code region. -/
def installCode (co : Core) (code : List Byte) : Core :=
  let base := 256 - cdiv code.length 4096
  { co with codeBase := base, lm := mwrite co.lm (4096 * base) code }

/-- CORE_STATUS.mode at image load: default_mode, MV bypass giving square (5.10). -/
def installMode (co : Core) (mode : Nat) : Core := { co with mode := if mode = 1 then 1 else 0 }

/-- One structure record in the cores of its cluster. -/
def installCluster (s : State) (im : Image) (r : StructRec) (cl : Nat) : State :=
  (coresOf cl).foldl (fun s c =>
    if !s.coreOn c then s
    else s.updCore c fun co =>
      let co := installMode co r.mode
      match im.streams.find? fun x => x.id == r.stream with
      | some x => installCode co (graphAt im x).code
      | none => co) s

/-- The structure commit in every core (Table 2-10 step 6): tables in each enabled core, modes and code in the cores
of bound clusters. -/
def installStructure (s : State) (im : Image) (bind : List (Nat × Nat)) : State :=
  let s := (List.range 272).foldl (fun s c =>
    if s.coreOn c then s.updCore c fun co => { co with sfu := installTables co.sfu im } else s) s
  im.structs.foldl (fun s r =>
    match bind.find? fun b => b.1 == r.logical with
    | some b => installCluster s im r b.2
    | none => s) s

/-! ### Cache windows (11.4) -/

/-- The windows of the running image end: slice-local lines are discarded (R228), the other lines belong to no window
and every dead-tag filter is empty (R232). -/
def endWindows (s : State) : State :=
  (s.slices.map (·.1)).foldl (fun t n => t.updSlice n fun sl =>
    { sl with
      lines := (sl.lines.filter fun e => !((windowAt s (256 * e.2.no)).map (·.slocal)).getD false).map fun e =>
        (e.1, { e.2 with win := none, prot := false })
      filter := [] }) s

/-- Ways of a slice that slice-local windows hold. -/
def localWays (s : State) (n : Nat) : List Nat :=
  (s.windows.filter fun w => w.slocal && decide (w.firstSlice ≤ n) && decide (n < w.firstSlice + w.sliceCount)).flatMap
    fun w => (List.range w.ways).map (firstWay s w.window + ·)

/-- Lines a slice still holds take the windows of the new image while their half's quota has room (R227), those of a
persistent window protected while their set has room for it (R229). -/
def relabel (s : State) (n : Nat) : State :=
  let held := (localWays s n).length
  let half := halfOfSlice n
  s.updSlice n fun sl =>
    let step := fun (a : Tab Line × Nat × Nat × List Nat) (e : Nat × Line) =>
      let set := e.1 / 16
      let cnt := if a.2.1 = set then a.2.2.1 else held
      let w := (windowAt s (256 * e.2.no)).filter fun w =>
        let quota := if half = 0 then w.quota0 else w.quota1
        quota == 0 || decide (winLinesHalf s half w.window + a.2.2.2.count w.window < quota)
      let pers := (w.map fun w => w.persistence == 1).getD false
      let prot := pers && decide (cnt < 12)
      (a.1 ++ [(e.1, { e.2 with win := w.map (·.window), prot := prot })], set, if prot then cnt + 1 else cnt,
        (w.map (·.window)).toList ++ a.2.2.2)
    { sl with lines := (sl.lines.foldl step ([], 4096, held, [])).1 }

/-- The lines of a slice that must give way to its slice-local windows: those in the windows' ways, and those whose
backing address a slice-local window now owns (log 37). Poisoned ones of the first sort are re-created elsewhere. -/
def clearWays (s : State) (n : Nat) : State :=
  let ws := localWays s n
  let owned := fun (l : Line) => ((windowAt s (256 * l.no)).map (·.slocal)).getD false
  let go := (s.slice n).lines.filter fun e => (ws.contains (e.1 % 16) || owned e.2) && !e.2.poison
  let bad := (s.slice n).lines.filter fun e => ws.contains (e.1 % 16) && e.2.poison
  let s := go.foldl (fun s e => evict writeBack s n (e.1 / 16) (e.1 % 16) 7) s
  let s := bad.foldl (fun s e => s.updSlice n fun sl => sl.setLine (e.1 / 16) (e.1 % 16) {}) s
  (bad.filter fun e => !owned e.2).foldl (fun s e => movePoisoned s e.2) s

/-- A line of a slice-local window: allocated, valid, clean and zero (R228). -/
def localLine (w : WinRec) (i j x : Nat) : Line :=
  { present := true, no := w.base / 256 + (i * w.ways + j) * 4096 + x, valid := 2 ^ 256 - 1, win := some w.window,
    prot := true }

/-- Every line of a slice-local window in a slice (R228). -/
def placeLocal (s : State) (w : WinRec) (n : Nat) : State :=
  let w0 := firstWay s w.window
  s.updSlice n fun sl => (List.range 4096).foldl (fun sl x => (List.range w.ways).foldl (fun sl j =>
    sl.setLine x (w0 + j) (localLine w (n - w.firstSlice) j x)) sl) sl

/-- The windows of the new image begin in every slice in service. -/
def beginWindows (s : State) : State :=
  let live := (List.range 128).filter fun n => s.inService 3 n
  let s := live.foldl (fun s n => relabel (clearWays s n) n) s
  (s.windows.filter (·.slocal)).foldl (fun s w =>
    ((blockSlots w.firstSlice w.sliceCount).filter live.contains).foldl (fun s n => placeLocal s w n) s) s

/-! ### The KV agent (R209, R216) -/

/-- Every KV register returns to its reset value but err_sets (R216). -/
def clearKv (s : State) : State :=
  (s.kvs.map (·.1)).foldl (fun t n => t.setKv n { errSets := (s.kv n).errSets }) s

/-- The KV agent's tables of one layout: columns of units in service enabled, every sequence record and page-table
entry zero (R201, R209). -/
def initKv (s : State) (n : Nat) (k : KvLayout) : State :=
  let v := (List.range k.pools.length).foldl (fun v i =>
    let p := k.pools.getD i ⟨0, 0, 0, 0, 0, 0, 0⟩
    (List.range p.columns).foldl (fun v c =>
      let u := columnUnit p c
      v.setCol i c { enabled := s.inService u.1 u.2 }) v) (s.kv n)
  let s := s.setKv n v
  let s := devWrite s (s.streamClass n) k.seqBase (leBytes (64 * k.seqMax) 0)
  devWrite s (s.streamClass n) k.ptBase (leBytes (k.seqMax * k.ptStride) 0)

/-! ### Held streams (R41) -/

/-- A bundle is resident (R40). -/
def isResident (s : State) (b : BundleRef) : Bool := s.img.resident.any fun r => r.1 == b.digest && r.2.1 == b.home

/-- A stream is held: a bundle of its range is not resident, or one staged at start is not yet in slice SRAM (R41). A range
that runs past the image's references is no load error, and what it names beyond them holds nothing (the model's choice;
log 62). -/
def heldStream (s : State) (r : StreamRec) : Bool :=
  (List.range r.bundleCount).any fun i =>
    match s.bundleRefs[r.bundleFirst + i]? with
    | some b => !isResident s b || (b.atStart && !tget false s.img.staged (r.bundleFirst + i))
    | none => false

/-- The states of the streams that are neither shed nor stopped follow R41. -/
def updateHolds (s : State) : State :=
  match s.img.running with
  | some im => im.streams.foldl (fun s r => s.updStream r.id fun st =>
      if st.state = 1 ∨ st.state = 2 then { st with state := if heldStream s r then 2 else 1 } else st) s
  | none => s

/-! ### Step 8 -/

/-- What ends with an image: share records, staged bundles, bindings of host windows, stagings under way, whose
commands end failed (log 41). -/
def endImage (s : State) : State :=
  let s := clearKv (endWindows s)
  let s := (s.img.stagings.filterMap (·.2.2.2.1)).foldl (fun s e => endCmd s e false 0xE) s
  let s := (s.engines.map (·.1)).foldl (fun s n => s.updEngine n fun e => { e with shares := [], restaging := false }) s
  { s with streams := [], hlk := { s.hlk with binds := [] }
           img := { s.img with running := none, bind := [], ways := [], staged := [], stagings := [] }
           reg := { s.reg with limits := [], resv := [] }
           fit := { s.fit with clocks := [], rechecks := 0, lastDuration := 0, losses := [], fitted := [], recheckDue := none,
                               refitDue := false, persist0 := 0, persist1 := 0 }
           pwr := { s.pwr with capSince := none } }

/-- No image runs: its clusters are gated (R326). -/
def noImage (s : State) : State := followBinding (endImage s)

/-- Registers of each stream from the new image (R66, R290). -/
def startStreams (s : State) (im : Image) (f : FitOk) : State :=
  let s := im.streams.foldl (fun s r => s.setStream r.id { state := 1, cls := r.cls }) s
  updateHolds (publishFit s f)

/-- Class-0 clusters of the module. -/
def class0Clusters (s : State) : List Nat := (List.range 4).flatMap (highClusters s)

/-- A cluster that becomes one of class 0 is not throttled: no step of R335 has throttled it (log 57). -/
def unthrottle (s : State) (before : List Nat) : State :=
  ((class0Clusters s).filter fun c => !before.contains c).foldl (fun s c => setLevel s c 0) s

/-- Step 6 of Table 2-10 for everything but the epoch: the new image's windows, regulation tables, KV agent, cores, tables
and array modes are in place under its binding, its clusters' regions follow, and the old image's are gone (R176, R186,
R209, R216, R228, R237, R261, R326). -/
def placeImage (s : State) (im : Image) (bind : List (Nat × Nat)) : State :=
  let high := class0Clusters s
  let s := endImage s
  let s := { s with
    img := { s.img with running := some im, bind := bind, ways := (assignWays im.windows).getD [] }
    reg := { s.reg with limits := im.limits.foldl (fun t l => tput [] t l.1 l.2) [], resv := im.resv }
    fit := { s.fit with persist0 := persistentLoad s.flp.cur im 0, persist1 := persistentLoad s.flp.cur im 1 } }
  let s := beginWindows s
  let s := s.streamIds.foldl (fun s n =>
    match s.kvLayout n with
    | some k => initKv s n k
    | none => s) s
  followBinding (unthrottle (installStructure s im bind) high)

/-- Step 8: an image in place starts from a slot (Table 2-10, Table 14-1 step 14). -/
def startImage (s : State) (slot : Nat) (im : Image) (f : FitOk) : State :=
  let s := { s with
    img := { s.img with active := slot }
    fit := { s.fit with fitted := [1, 2, 3, 4, 5].foldl (fun t ut => tput 0 t ut (s.flp.cur.enabled ut).length) [] } }
  startStreams s im f

/-- A profile switch has installed an image: bundles it does not reference at their home are no longer resident (R40). -/
def keepReferenced (s : State) (im : Image) : State :=
  { s with img := { s.img with
      resident := s.img.resident.filter fun r => im.bundles.any fun b => b.digest == r.1 && b.home == r.2.1 } }

end Sys2Proof.Machine
end

