-- ==== Sys2Proof/Machine/Profile.lean ====
section
/-! DEFINITION. Commands on profile slots and firmware copies (2.4 to 2.6, 14.4): switches up to the quiesce, slot
writes and erases, firmware writes, and the end of a flash write. -/

namespace Sys2Proof.Machine

/-! ### Busy conditions -/

/-- A slot write is in progress. -/
def slotWriting (s : State) : Bool :=
  match s.img.flashOp with
  | some (.slot ..) => true
  | _ => false

/-- A table command is in progress (R189): its mode change, or a taken command that has started. -/
def tableBusy (s : State) : Bool := s.jobs.any fun j => j.started && (j.opcode == 0x0901 || j.opcode == 0x0902)

/-- Another switch, a slot write, an image load or a mode change is in progress (R36, R189, R369). -/
def switchBusy (s : State) : Bool := s.img.switch.isSome || slotWriting s || !s.boot.ready || s.ep.change.isSome

/-! ### PROFILE_SWITCH (R33, R36, R347) -/

/-- The load error R347 finds in a slot's shadow copy. -/
def belowFloor (s : State) (n : Nat) : Bool :=
  let sh := s.shadow n
  let b := s.shadowBytes n
  sh.made && (match signerOf (loadEnv s) b with
    | some g => decide (rd b 0x18 4 < g.floor)
    | none => false)

/-- Steps 1 to 3 of Table 2-10: intake stops on every stream that is not shed; abort mode ends every request. -/
def beginSwitch (s : State) (entry target : Nat) (abort : Bool) : State :=
  let s := s.streamIds.foldl (fun s n => s.updStream n fun st => if st.state = 3 then st else { st with state := 4 }) s
  let previous := if s.img.running.isSome then some s.img.active else none
  let w : Switch := { entry := entry, target := target, previous := previous, restoring := false, abort := abort,
                      phase := .drain, digest := s.img.running.map (·.digest) }
  let s := { s with img := { s.img with switch := some w } }
  if abort then abortGoesOn (s.streamIds.foldl (fun s n => stopRequests s n 7) s) else s

/-- A slot the switch can take: valid in its directory and not one that step 10 skips as invalid (R36, Table 14-5). -/
def slotValid (s : State) (n : Nat) : Bool := (s.fslot n).state == 2 && !bit s.boot.slotSkip n

/-- PROFILE_SWITCH. A slot above 7 or a mode above 1 is refused with 0x0001: the spec names no status for them (DESIGN
CHOICE; log 38). -/
def execProfileSwitch (entry : Fin 32) (s : State) : Host.Outcome State Fault Refusal :=
  match newJob s entry 0x0201 with
  | none => .next s
  | some j =>
    let slot := j.arg 0
    let mode := j.arg 1
    if j.malformed 2 ∨ 7 < slot ∨ 1 < mode then .next (refuseCmd s j 1)
    else if s.img.running.isSome ∧ !s.img.cmdEn then .next (refuseCmd s j 0xF)
    else if switchBusy s then .next (refuseCmd s j 3)
    else if !slotValid s slot then .next (refuseCmd s j 5)
    else if belowFloor s slot then .next (refuseCmd (recordLoad s slot 6) j 7)
    else .next (beginSwitch (startCmd s j) j.entry slot (mode == 0))

/-- PROFILE_SWITCH_DRAIN_END: in drain mode the switch goes on once every accepted request has ended (Table 2-10). -/
def execProfileSwitchDrainEnd (s : State) : Host.Outcome State Fault Refusal :=
  match s.img.switch with
  | some w => if w.phase = .drain ∧ !w.abort ∧ !busyStreams s then .next (startQuiesce s) else .next s
  | none => .next s

/-! ### Flash writes (R31, R32, R300) -/

/-- The slot holds the running image (R32). -/
def runningSlot (s : State) (n : Nat) : Bool := s.img.running.isSome && s.img.active == n

/-- A flash program begins: the directory says so, and the flash is in a pulse (R31, R312). -/
def beginFlash (s : State) (op : FlashOp) : State :=
  { s with img := { s.img with flashOp := some op, pulse := true } }

/-- A profile slot is being written or erased: its directory state is writing and its shadow copy is void. -/
def slotBusy (s : State) (n : Nat) : State :=
  let x := s.fslot n
  (s.setFslot n { x with state := 1, writes := x.writes + 1 }).setShadow n {}

/-- A flash command waits for nothing: one write at a time, none beside a switch (R36), and no new pulse once a reset is
pending (R312). -/
def flashBusy (s : State) : Bool := s.img.flashOp.isSome || s.img.switch.isSome || !s.boot.ready || s.resetting

/-- SLOT_WRITE (R31, R32). A length of 0 or above 56 MiB is refused with 0x0001: the spec names no status for it (DESIGN
CHOICE; log 38). -/
def execSlotWrite (entry : Fin 32) (data : Option (List Byte)) (s : State) : Host.Outcome State Fault Refusal :=
  match newJob s entry 0x0202 with
  | none => .next s
  | some j =>
    let n := j.arg 0
    let len := j.arg 2
    if j.malformed 3 ∨ 7 < n ∨ len = 0 ∨ 0x3800000 < len then .next (refuseCmd s j 1)
    else if runningSlot s n then .next (refuseCmd s j 4)
    else if flashBusy s then .next (refuseCmd s j 3)
    else .next (withLink s j (j.arg 1) len data fun s b =>
      let s := progressOf (startCmd s j) j.entry len
      beginFlash (slotBusy s n) (.slot j.entry n b))

/-- SLOT_ERASE (R31, R32). -/
def execSlotErase (entry : Fin 32) (s : State) : Host.Outcome State Fault Refusal :=
  match newJob s entry 0x0203 with
  | none => .next s
  | some j =>
    let n := j.arg 0
    if j.malformed 1 ∨ 7 < n then .next (refuseCmd s j 1)
    else if runningSlot s n then .next (refuseCmd s j 4)
    else if flashBusy s then .next (refuseCmd s j 3)
    else .next (beginFlash (slotBusy (startCmd s j) n) (.erase j.entry n))

/-- Firmware copy A or B. -/
def Img.fw (i : Img) (copyB : Bool) : FwCopy := if copyB then i.fwB else i.fwA
/-- Replace a firmware copy. -/
def Img.setFw (i : Img) (copyB : Bool) (c : FwCopy) : Img := if copyB then { i with fwB := c } else { i with fwA := c }

/-- The header and reserved fields of Table 14-6. -/
def fwHeaderOk (b : List Byte) : Bool :=
  let size := rd b 0x10 4
  let img := fun i => slice b (0x20 + 16 * i) 16
  rd b 0 4 == 0x57465643 && rd b 4 2 == 1 && rd b 6 2 == 0x0760 && decide (0x70 + 64 ≤ size) && decide (size ≤ 0x800000) &&
  decide (size ≤ b.length) && rd b 0x14 1 == 5 && allZero (slice b 0x15 11) &&
  decide (((List.range 5).map fun i => rd (img i) 0 1).Nodup) &&
  (List.range 5).all fun i =>
    let x := img i
    decide (1 ≤ rd x 0 1) && decide (rd x 0 1 ≤ 5) && allZero (slice x 1 3) && allZero (slice x 12 4) &&
    decide (rd x 8 4 ≤ 0x200000) && decide (rd x 4 4 + rd x 8 4 ≤ size - 64)

/-- The bytes of a firmware copy verify (R299): header, signature and floor. -/
def fwVerifies (s : State) (b : List Byte) : Bool :=
  let size := rd b 0x10 4
  fwHeaderOk b && ecdsaVerify Config.firmwareKey (b.take (size - 64)) (rd b (size - 64) 32) (rd b (size - 32) 32) &&
  decide (s.sec.op.fwFloor ≤ rd b 0xC 4)

/-- FW_WRITE (R300, R32). A length of 0 or above 8 MiB is refused with 0x0001: the spec names no status for it (DESIGN
CHOICE; log 38). -/
def execFwWrite (entry : Fin 32) (data : Option (List Byte)) (s : State) : Host.Outcome State Fault Refusal :=
  match newJob s entry 0x0204 with
  | none => .next s
  | some j =>
    let copyB := j.arg 0 == 1
    let len := j.arg 2
    if j.malformed 3 ∨ 1 < j.arg 0 ∨ len = 0 ∨ 0x800000 < len then .next (refuseCmd s j 1)
    else if copyB = s.img.fwRunB then .next (refuseCmd s j 4)
    else if flashBusy s then .next (refuseCmd s j 3)
    else .next (withLink s j (j.arg 1) len data fun s b =>
      let s := progressOf (startCmd s j) j.entry len
      let s := { s with img := s.img.setFw copyB { s.img.fw copyB with state := 1 } }
      beginFlash s (.fw j.entry copyB b))

/-- A slot's program ends: verified under R29, it is set valid with its digest, and its shadow copy is made and fitted
(origin 0x0F; log 38); an image that fails leaves the slot invalid. -/
def slotWritten (s : State) (entry n : Nat) (b : List Byte) : State :=
  let x := s.fslot n
  match loadImage (loadEnv s) b with
  | .error c =>
    endCmd (recordLoad (s.setFslot n { x with state := 3, bytes := b, digest := sha256 b }) 0xF c) entry false 7
  | .ok im =>
    let s := recordLoad (s.setFslot n { x with state := 2, bytes := b, digest := im.digest }) 0xF 0
    let s := s.putShadow n b
    let sh : Shadow := { size := b.length, digest := im.digest, writes := x.writes, made := true, current := true, verdict := 1 }
    let s := { s with rst := { s.rst with shadowWrites := tput 0 s.rst.shadowWrites n x.writes } }
    let s := match fit (fitInput s) im with
      | .ok _ => s.setShadow n sh
      | .error e => refuseFit (s.setShadow n { sh with verdict := 2 }) 0xF im.digest e
    endCmd s entry true 0

/-- A firmware copy's program ends: verified, it is valid with the next sequence number and staged until the next boot
(R300, R349); one that does not verify is invalid. -/
def fwWritten (s : State) (entry : Nat) (copyB : Bool) (b : List Byte) : State :=
  if fwVerifies s b then
    let c : FwCopy := { state := 2, seq := (s.img.fw !copyB).seq + 1, bytes := b, crc := crc32c b, version := rd b 8 4,
                        security := rd b 0xC 4, staged := true }
    endCmd { s with img := s.img.setFw copyB c } entry true 0
  else endCmd { s with img := s.img.setFw copyB { s.img.fw copyB with state := 3 } } entry false 1

/-- FLASH_WRITE_COMPLETE (R31): the program and verification in progress end. A pending reset or a loss of power
has stopped them, and the target stays in state writing. -/
def execFlashWriteComplete (s : State) : Host.Outcome State Fault Refusal :=
  if s.resetting then .next s
  else
    match s.img.flashOp with
    | none => .next s
    | some op =>
      let s := { s with img := { s.img with flashOp := none, pulse := false } }
      match op with
      | .slot e n b => .next (slotWritten s e n b)
      | .erase e n =>
        let x := s.fslot n
        .next (endCmd (s.setFslot n { writes := x.writes }) e true 0)
      | .fw e copyB b => .next (fwWritten s e copyB b)

end Sys2Proof.Machine
end

