-- ==== Sys2Proof/Machine/Bundle.lean ====
section
/-! DEFINITION. Weight bundles (2.7, 17.6) and their staging (6.2), special-function tables (9.4) and host-window
bindings (13.5): the commands of the command page on them. -/

namespace Sys2Proof.Machine

/-! ### The container (Tables 17-7, 17-8, R353) -/

/-- Chunks of a plaintext of a size. -/
def chunkCount (size : Nat) : Nat := cdiv size mib

/-- The header, the reserved fields and the length they imply (R353 check 1). -/
def containerOk (b : List Byte) : Bool :=
  let n := rd b 6 1
  let size := rd b 0x10 8
  rd b 0 4 == 0x42575643 && rd b 4 2 == 1 && decide (1 ≤ n) && decide (n ≤ 64) && rd b 7 1 == 0 && allZero (slice b 0x18 0x28) &&
  ((List.range n).all fun i => allZero (slice b (0x40 + 128 * i + 0x70) 16)) &&
  b.length == 64 + 128 * n + size + 16 * chunkCount size

/-- Offset of the module's own wrap entry (R353 check 2). -/
def ownEntry (b : List Byte) : Option Nat :=
  ((List.range (rd b 6 1)).map fun i => 0x40 + 128 * i).find? fun o => slice b o 8 == bindingId

/-- The content key of a wrap entry (R353 check 3): the key-encryption key is HKDF over the x coordinate of the shared
point (as 32 big-endian bytes, log 39). -/
def contentKey (b : List Byte) (o : Nat) : Option (List Byte) :=
  let q := (rd b (o + 8) 32, rd b (o + 40) 32)
  if onCurve q then
    (ecMul 256 Config.bindingScalar (some q)).bind fun p =>
      keyUnwrap (hkdf (slice b 8 8) (beBytes 32 p.1) (leBytes 4 0x42575643 ++ bindingId) 32) (slice b (o + 0x48) 40)
  else none

/-- R353: the content key, or the status the command ends with. -/
def openContainer (b : List Byte) (ref : BundleRef) : Except Nat (List Byte) :=
  if sha256 b ≠ ref.digest ∨ !containerOk b then .error 0x106
  else match (ownEntry b).bind (contentKey b) with
    | none => .error 0x105
    | some k => if rd b 0x10 8 = ref.plainSize then .ok k else .error 0x106

/-- Write plaintext to a home: the cached copies of its lines go to the tier, so that the bundle lies there (R40). -/
def writeHome (s : State) (a : Nat) (bs : List Byte) : State :=
  (linePieces a bs.length).foldl (fun s pc =>
    match resolve s true pc.1 with
    | .error _ => s
    | .ok h =>
      match h.way, findWay (s.slice h.slice) h with
      | none, some way => if ((s.slice h.slice).line h.set way).poison then s else evict writeBack s h.slice h.set way 7
      | _, _ => s) (devWrite s 7 a bs)

/-- Bundles whose home overlaps written bytes stop being resident (R40, R354). -/
def dropOverlap (s : State) (a n : Nat) : State :=
  { s with img := { s.img with resident := s.img.resident.filter fun r => !overlaps r.2.1 r.2.2 a n } }

/-- Load chunk `j` of a container (R354): decrypt it, store it in the home and report the progress; none where its tag
fails. -/
def loadChunk (entry home size : Nat) (key b : List Byte) (j : Nat) (s : State) : Option State :=
  let o := 64 + 128 * rd b 6 1 + j * (mib + 16)
  let n := min mib (size - j * mib)
  (gcmDec key (slice b 8 8 ++ leBytes 4 j) (slice b o n) (slice b (o + n) 16)).map fun p =>
    let a := home + j * mib
    progressOf (dropOverlap (writeHome s a p) a n) entry (j * mib + n)

/-- Load so many chunks in order; false where one fails, which ends the load. -/
def loadChunks (entry home size : Nat) (key b : List Byte) (k : Nat) (s : State) : Bool × State :=
  (List.range k).foldl (fun (a : Bool × State) j =>
    if a.1 then
      match loadChunk entry home size key b j a.2 with
      | none => (false, a.2)
      | some t => (true, t)
    else a) (true, s)

/-- The bundles resident in one home with one digest are no longer listed. -/
def unlist (s : State) (ref : BundleRef) : State :=
  { s with img := { s.img with resident := s.img.resident.filter fun r => !(r.1 == ref.digest && r.2.1 == ref.home) } }

/-- A load ends: resident once every chunk has been written (R40, R354), else its tag failed. -/
def endLoad (s : State) (entry : Nat) (ref : BundleRef) (ok : Bool) : State :=
  let s := unlist s ref
  if ok then
    let s := { s with img := { s.img with resident := s.img.resident ++ [(ref.digest, ref.home, ref.plainSize)] } }
    endCmd (updateHolds s) entry true 0
  else endCmd (updateHolds s) entry false 0x106

/-- Load a checked container into its home. -/
def loadBundle (s : State) (entry : Nat) (ref : BundleRef) (b : List Byte) : State :=
  match openContainer b ref with
  | .error st => endCmd s entry false st
  | .ok key =>
    let r := loadChunks entry ref.home ref.plainSize key b (chunkCount ref.plainSize) s
    endLoad r.2 entry ref r.1

/-- A bundle command is refused while a switch runs (log 40). -/
def bundleBusy (s : State) : Bool := s.img.switch.isSome || !s.boot.ready

/-- The reference a command names. -/
def refOf (s : State) (i : Nat) : Option BundleRef := s.bundleRefs[i]?

/-- BUNDLE_LOAD (R353, R354). -/
def execBundleLoad (entry : Fin 32) (data : Option (List Byte)) (s : State) : Host.Outcome State Fault Refusal :=
  match newJob s entry 0x0205 with
  | none => .next s
  | some j =>
    match refOf s (j.arg 0) with
    | none => .next (refuseCmd s j 1)
    | some ref =>
      if j.malformed 3 then .next (refuseCmd s j 1)
      else if bundleBusy s then .next (refuseCmd s j 3)
      else .next (withLink s j (j.arg 1) (j.arg 2) data fun s b => loadBundle (startCmd s j) j.entry ref b)

/-! ### Staging (R42, R115 to R118) -/

/-- A launch for a window that came before a number is queued or running at an engine. -/
def windowLaunches (s : State) (w mark : Nat) : Bool :=
  s.launches.any fun e => decide (e.1 < mark) && (parsePalm e.2.bytes).window == w

/-- Bytes of a slice-local window are zero again, as at image load (R228). -/
def zeroLocal (s : State) (n a len : Nat) : State :=
  (linePieces a len).foldl (fun s pc =>
    match apertureHome s n (pc.1 % 0x1000000) with
    | none => s
    | some h => s.updSlice n fun sl =>
        let sl := undead sl (h.backing / 256)
        let l := sl.line h.set (h.way.getD 0)
        sl.setLine h.set (h.way.getD 0)
          { l with data := mwrite l.data (pc.1 % 256) (List.replicate pc.2 0#8), valid := l.valid ||| maskOf (pc.1 % 256) pc.2 }) s

/-- A bundle's share records in an engine go, and with them its lines in the slice, which as lines of a slice-local window
stay where they are, valid and zero (R117, R228; log 28). -/
def dropShares (s : State) (n i : Nat) : State :=
  let mine := fun (sh : Share) => sh.ref == i
  let gone := (s.engine n).shares.filter mine
  let s := s.updEngine n fun e => { e with shares := e.shares.filter fun sh => !mine sh }
  (gone.filter fun sh => decide (0 < sh.packed)).foldl (fun s sh => zeroLocal s n sh.wAddr sh.packed) s

/-- The share records of a bundle in its window go, and with them its lines, nothing being written back (R42, R117). Of a
hashed window every line goes: the spec does not say which of them are the bundle's (the model's choice; log 28). -/
def evictBundle (s : State) (i : Nat) (ref : BundleRef) : State :=
  let s := { s with img := { s.img with staged := tput false s.img.staged i false } }
  match windowNo s ref.window with
  | none => s
  | some w =>
    if w.slocal then (blockSlots w.firstSlice w.sliceCount).foldl (fun s n => dropShares s n i) s
    else
      (s.slices.map (·.1)).foldl (fun s n => s.updSlice n fun sl =>
        { sl with lines := sl.lines.filter fun e => e.2.win != some ref.window }) s

/-- Staged bundles of a window other than one. -/
def othersStaged (s : State) (w i : Nat) : List (Nat × BundleRef) :=
  ((List.range s.bundleRefs.length).zip s.bundleRefs).filter fun p => p.2.window == w && p.1 != i && tget false s.img.staged p.1

/-- Matrix ids that the engines of a window hold. -/
def heldIds (s : State) (w : Nat) : List Nat :=
  ((engineList s w).flatMap fun n => ((s.engine n).shares.filter fun sh => sh.window == w).map (·.matrixId)).eraseDups

/-- Stage a resident bundle whose window has no other in the way: the state after it, with the status of R115 or R117 where it
fails. The matrix table is read first (R115). -/
def stageInto (s : State) (i : Nat) (ref : BundleRef) (w : WinRec) : Option Nat × State :=
  let mark := fun (s : State) => { s with img := { s.img with staged := tput false s.img.staged i true } }
  let cls := windowClass s ref.window
  if w.slocal then
    let t := devTake s cls ref.home (min ref.plainSize (0x10 + 32 * 2048))
    if !matsOk t.1 ref.plainSize (inBonded ref.home ref.plainSize) (heldIds s ref.window) then (some 9, t.2)
    else
      let ms := parseMats t.1
      if storeFull t.2 ref.window ms.length then (some 0xA, t.2) else (none, mark (stageMats t.2 cls i ref.window ref.home ms))
  else (none, mark (copyRange s cls ref.home w.base (min ref.plainSize w.size)))

/-- A staging begins and ends (R118): by command the window's other bundles are evicted first (R42), at start none is.
A staging that would overflow a share store changes nothing (R117). One that was in line when it began is not checked
again for residency (the model's choice; log 28). -/
def runStaging (s : State) (i : Nat) (entry : Option Nat) : State :=
  let done := fun (s : State) (ok : Bool) (st : Nat) => match entry with
    | some e => endCmd (updateHolds s) e ok st
    | none => updateHolds s
  match refOf s i with
  | none => done s false 1
  | some ref =>
    match windowNo s ref.window with
    | none => done s false 0xE
    | some w =>
      let cleared := if entry.isSome then (othersStaged s ref.window i).foldl (fun s p => evictBundle s p.1 p.2) s else s
      match stageInto cleared i ref w with
      | (none, t) => done t true 0
      | (some 0xA, _) => done s false 0xA
      | (some st, t) => done t false st

/-- A staging can begin: no launch that came before it is left (R118), the Crown's limits and every Cuff in its way let its
accesses go (R258 kind 0x4, R314), and the host holds no line of the home (R270). An eviction moves no data. -/
def stagingMay (s : State) (win i : Nat) (evicts : Bool) (mark : Nat) : Bool × State :=
  match refOf s i with
  | none => (!windowLaunches s win mark, s)
  | some ref =>
    if windowLaunches s win mark then (false, s)
    else if evicts then (true, s)
    else
      let cls := windowClass s win
      let m := mayAccess s 4 cls ref.home ref.plainSize false
      if !m.1 || (engineList s win).any (sliceHeld s) then (false, m.2) else snoopRead m.2 cls ref.home ref.plainSize

/-- An eviction by command begins and ends. -/
def runEviction (s : State) (i : Nat) (entry : Option Nat) : State :=
  let s := match refOf s i with
    | some ref => if tget false s.img.staged i then evictBundle s i ref else s
    | none => s
  match entry with
  | some e => endCmd (updateHolds s) e true 0
  | none => updateHolds s

/-- WINDOW_STAGING_START: the oldest staging or eviction of a window goes on once no launch that came before it is left
(R118). -/
def execWindowStagingStart (win : Fin 64) (s : State) : Host.Outcome State Fault Refusal :=
  match takeFirst (fun (t : Nat × Nat × Bool × Option Nat × Nat) => t.1 == win.val) s.img.stagings with
  | none => .next s
  | some ((_, i, evicts, entry, mark), rest) =>
    let m := stagingMay s win i evicts mark
    if !m.1 then .next m.2
    else
      let s := { m.2 with img := { m.2.img with stagings := rest } }
      .next (if evicts then runEviction s i entry else runStaging s i entry)

/-- Put a staging or eviction in line for its window. -/
def queueStaging (s : State) (w i : Nat) (evicts : Bool) (entry : Option Nat) : State :=
  { s with img := { s.img with stagings := s.img.stagings ++ [(w, i, evicts, entry, s.nextLaunch)] } }

/-- BUNDLE_STAGE (R42, R115, R117). A bundle that is not resident ends in status 0x0001 (the model's choice; log 28). -/
def execBundleStage (entry : Fin 32) (s : State) : Host.Outcome State Fault Refusal :=
  match newJob s entry 0x0206 with
  | none => .next s
  | some j =>
    match refOf s (j.arg 0) with
    | none => .next (refuseCmd s j 1)
    | some ref =>
      if j.malformed 1 ∨ !isResident s ref then .next (refuseCmd s j 1)
      else if bundleBusy s then .next (refuseCmd s j 3)
      else if (windowNo s ref.window).isNone then .next (refuseCmd s j 0xE)
      else .next (queueStaging (startCmd s j) ref.window (j.arg 0) false (some j.entry))

/-- BUNDLE_EVICT (R117). -/
def execBundleEvict (entry : Fin 32) (s : State) : Host.Outcome State Fault Refusal :=
  match newJob s entry 0x0207 with
  | none => .next s
  | some j =>
    match refOf s (j.arg 0) with
    | none => .next (refuseCmd s j 1)
    | some ref =>
      if j.malformed 1 then .next (refuseCmd s j 1)
      else if bundleBusy s then .next (refuseCmd s j 3)
      else if (windowNo s ref.window).isNone then .next (refuseCmd s j 0xE)
      else .next (queueStaging (startCmd s j) ref.window (j.arg 0) true (some j.entry))

/-- STAGE_AT_START: a stage_at_start bundle is put in line for its window as soon as it is resident (R41, Table 2-6). -/
def execStageAtStart (ref : Fin 1024) (s : State) : Host.Outcome State Fault Refusal :=
  let i := ref.val
  match refOf s i with
  | none => .next s
  | some b =>
    let waits := s.img.stagings.any fun t => t.2.1 == i && !t.2.2.1
    if b.atStart && isResident s b && !tget false s.img.staged i && !waits && !bundleBusy s && (windowNo s b.window).isSome then
      .next (queueStaging s b.window i false none)
    else .next s

/-! ### Special-function tables (R183, R187 to R189) -/

/-- Records of a delivered load. -/
def tableRecs (b : List Byte) : List (List Byte) := chunks 0x840 (b.length / 0x840) b

/-- A table command cannot start (R189). -/
def tableRefused (s : State) : Bool := tableBusy s || switchBusy s

/-- The bank that is not active. -/
def Sfu.shadowBank (f : Sfu) : Tab (Option TblRec) := if f.bank then f.bank0 else f.bank1
/-- The bank that is active. -/
def Sfu.activeBank (f : Sfu) : Tab (Option TblRec) := if f.bank then f.bank1 else f.bank0
/-- Replace the shadow bank. -/
def Sfu.setShadow (f : Sfu) (t : Tab (Option TblRec)) : Sfu := if f.bank then { f with bank0 := t } else { f with bank1 := t }

/-- SF_TABLE_LOAD in one core (R187). -/
def loadTables (f : Sfu) (copy : Bool) (rs : List (Nat × TblRec)) : Sfu :=
  let base := if copy then f.activeBank else f.shadowBank
  f.setShadow (rs.foldl (fun t x => tput none t x.1 (some x.2)) base)

/-- Deliver a checked load: cores still incomplete after the resends are fenced with reason 0x05, and every other
enabled core holds the records in its shadow bank (R187, R307). -/
def spreadTables (s : State) (entry : Nat) (copy : Bool) (rs : List (List Byte)) (fwd : List FwdLoss) : State :=
  let on := (List.range 272).filter s.coreOn
  let cores := ((List.finRange 272).filter fun (c : Fin 272) => s.coreOn c).map Receiver.core
  let d := distribute fwd (fun _ => cdiv (0x840 * rs.length) 4096) cores
  let s := { s with boot := { s.boot with fwdRounds := d.1, fwdReceivers := on.length,
                                          fwdFenced := sat 8 (s.boot.fwdFenced + d.2.length) } }
  let s := d.2.foldl (fun s r => match r with
    | .core c => floorChange s 2 c 3 5 0
    | _ => s) s
  let s := on.foldl (fun s c =>
    if s.coreOn c then s.updCore c fun co => { co with sfu := loadTables co.sfu copy (slotRecs rs) } else s) s
  let s := match modeRec rs with
    | some m => { s with ep := { s.ep with pendMode := some m } }
    | none => s
  endCmd s entry true 0

/-- SF_TABLE_LOAD (R183, R187, R189). -/
def execSfTableLoad (entry : Fin 32) (data : Option (List Byte)) (fwd : List FwdLoss) (s : State) :
    Host.Outcome State Fault Refusal :=
  match newJob s entry 0x0901 with
  | none => .next s
  | some j =>
    let len := j.arg 1
    if j.malformed 3 ∨ 1 < j.arg 2 ∨ len % 0x840 ≠ 0 ∨ len = 0 ∨ 17 * 0x840 < len then .next (refuseCmd s j 1)
    else if tableRefused s then .next (refuseCmd s j 3)
    else .next (withLink s j (j.arg 0) len data fun s b =>
      let rs := tableRecs b
      if !tableSetOk rs then endCmd s j.entry false 0xB
      else spreadTables (progressOf (startCmd s j) j.entry len) j.entry (j.arg 2 == 1) rs fwd)

/-- Slots that the running image's code names and a bank leaves empty. -/
def emptyNamed (s : State) (t : Tab (Option TblRec)) : Bool :=
  match s.img.running with
  | some im => (im.graphs.flatMap fun g => namedSlots g.code).any fun k => (tget none t k).isNone
  | none => false

/-- The mode that an SF_COMMIT's compat argument names: off, on, or the pending one, else the one in force (R187, R188). -/
def sfMode (s : State) (compat : Nat) : Bool :=
  match compat with
  | 0 => false
  | 1 => true
  | _ => s.ep.pendMode.getD ((((List.range 272).find? s.coreOn).map fun c => (s.core c).sfu.compat).getD false)

/-- The image a switch installs. -/
def switchImage (s : State) (w : Switch) : Option Image :=
  match loadImage (loadEnv s) (s.shadowBytes w.target) with
  | .ok im => some im
  | .error _ => none

/-- A prepare is broadcast: every enabled core holds the new special-function selection and mode in shadow (R173, R186,
R188). A quiesce changes neither. -/
def prepare (s : State) (k : ModeKind) : State :=
  let put := fun (f : Sfu → Bool × Bool) => ((List.range 272).filter s.coreOn).foldl (fun s c =>
    s.updCore c fun co => { co with sfu := { co.sfu with shadow := some (f co.sfu) } }) s
  let s := match k with
    | .quiesce => s
    | .structure_ =>
      match s.img.switch.bind (switchImage s) with
      | some im => put fun _ => (false, im.compat.getD false)
      | none => s
    | .sf _ swap mode => put fun f => (f.bank != swap, sfMode s mode)
  { s with ep := { s.ep with change := some (k, false, s.now) } }

/-- SF_COMMIT (R188, R189): the prepare is broadcast with the new selection and mode, which every core holds. -/
def execSfCommit (entry : Fin 32) (s : State) : Host.Outcome State Fault Refusal :=
  match newJob s entry 0x0902 with
  | none => .next s
  | some j =>
    let swap := j.arg 0 == 1
    if j.malformed 2 ∨ 1 < j.arg 0 ∨ 2 < j.arg 1 then .next (refuseCmd s j 1)
    else if tableRefused s then .next (refuseCmd s j 3)
    else
      let on := (List.range 272).filter s.coreOn
      if swap ∧ on.any (fun c => emptyNamed s (s.core c).sfu.shadowBank) then .next (refuseCmd s j 0xD)
      else
        .next (prepare (startCmd s j) (.sf j.entry swap (j.arg 1)))

/-! ### HOST_WINDOW_BIND (R282) -/

/-- A body copy from a host-memory window is in flight. -/
def copyFrom (s : State) (w : Nat) : Bool :=
  s.streamIds.any fun n => (s.stream n).reqs.any fun r => r.copying.any fun c => c.window == w

/-- HOST_WINDOW_BIND: bound or unbound once no body copy from the window is in flight; until then the command runs and
is tried again, under the image that then runs. -/
def execHostWindowBind (entry : Fin 32) (s : State) : Host.Outcome State Fault Refusal :=
  match newJob s entry 0x0D01 with
  | none => .next s
  | some j =>
    let w := j.arg 0
    let base := j.arg 1
    let size := j.arg 2
    match hostWindow s w with
    | none => .next (if j.started then endCmd s j.entry false 0xE else refuseCmd s j (if j.malformed 3 then 1 else 0xE))
    | some r =>
      if j.malformed 3 ∨ base % 4096 ≠ 0 ∨ 2 ^ 52 ≤ base ∨ r.size < size then
        .next (if j.started then endCmd s j.entry false 1 else refuseCmd s j 1)
      else if copyFrom s w then .next (if j.started then s else startCmd s j)
      else
        let b : Option (Nat × Nat) := if size = 0 then none else some (base, size)
        .next (endCmd { s with hlk := { s.hlk with binds := tput none s.hlk.binds w b } } j.entry true 0)

end Sys2Proof.Machine
end

