-- ==== Sys2Proof/Machine/Modes.lean ====
section
/-! DEFINITION. Epoch-tagged mode changes (18.5): prepare, commit, rollback and late participants; with them steps 4 to
8 of a profile switch and the restoring of the previous slot (Table 2-10, R38, R39), and SF_COMMIT's changeover (R188). -/

namespace Sys2Proof.Machine

/-! ### Fencing receivers (R368, R307) -/

/-- Fence a receiver: a Palm engine's fence leaves its slice without an engine, or takes a half-width slice out of
service (1.7). -/
def fenceReceiver (s : State) (r : Receiver) (reason : Nat) : State :=
  match r with
  | .core c => floorChange s 2 c 3 reason 0
  | .palm n => if s.unitState 3 n = 1 then startSliceFence s n reason 0
               else if s.engineOn n && (s.slice n).fencing.isNone then floorChange s 3 n 2 reason 0 else s
  | .slice n => startSliceFence s n reason 0
  | .bonded c => floorChange s 4 c 3 reason 0
  | .lpddr c => floorChange s 5 c 3 reason 0

/-- The unit a receiver's fence changes: its type and number. -/
def receiverUnit : Receiver → Nat × Nat
  | .core c => (2, c)
  | .palm n => (3, n)
  | .slice n => (3, n)
  | .bonded c => (4, c)
  | .lpddr c => (5, c)

/-- Fence receivers found missing at once, in the order of R23. -/
def fenceReceivers (s : State) (rs : List Receiver) (reason : Nat) : State :=
  (sortBy (fun r => changeKey (receiverUnit r).1 (receiverUnit r).2) rs).foldl (fun s r => fenceReceiver s r reason) s

/-! ### Steps 4 to 8 of a switch -/

/-- Changes put off during steps 4 to 8 are made after step 8 (R39), in the order of R23. A half-width change keeps the set that is left. A
slice that has lost both a set and its Palm engine is fenced (1.7). -/
def applyDeferred (s : State) : State :=
  let ds := sortBy (fun d => changeKey d.1 d.2.1) s.flp.deferred
  let s := { s with flp := { s.flp with deferred := [] } }
  ds.foldl (fun (s : State) (d : Nat × Nat × Nat × Nat × Nat) =>
    if d.1 = 3 ∧ d.2.2.1 ≠ 3 ∧ s.unitState 3 d.2.1 ≠ 0 ∧ s.unitState 3 d.2.1 ≠ d.2.2.1
    then startSliceFence s d.2.1 d.2.2.2.1 d.2.2.2.2
    else floorChange s d.1 d.2.1 d.2.2.1 d.2.2.2.1 d.2.2.2.2 (decide (d.2.2.1 = 1) && bit (setsOut s d.1 d.2.1) 0)) s

/-- A switch ends: its command reads complete, or failed with "refused, previous restored" (R38). That it reads so too where
the previous profile no longer fits, or none ran before, is the model's choice: R38 names no other status (log 38). -/
def endSwitch (s : State) (w : Switch) (ok : Bool) : State :=
  let s := { s with img := { s.img with switch := none } }
  applyDeferred (endCmd s w.entry ok (if ok then 0 else 6))

/-- The target failed at step 5 or 7 (R38): steps 4 to 8 are repeated for the previous slot, or no image runs. -/
def switchFails (s : State) (w : Switch) : State :=
  match w.restoring, w.previous with
  | false, some p =>
    startQuiesce { s with img := { s.img with switch := some { w with target := p, restoring := true } } }
  | _, _ => endSwitch (noImage s) w false

/-- Step 5: the shadow copy's digest and the load checks; then the structure commit begins. For a digest that differs, Table
2-8 names no code: the load ends with the one the shadow's own verification ended with, mostly 0x00 (the model's choice;
log 38). -/
def stepFive (s : State) (w : Switch) : State :=
  let sh := s.shadow w.target
  let b := s.shadowBytes w.target
  let s := touchShadow s w.target
  let r : Except Nat Image := if sha256 b = sh.digest then loadImage (loadEnv s) b else .error sh.loadError
  match r with
  | .error c => switchFails (recordLoad s w.target c) w
  | .ok _ =>
    prepare { s with img := { s.img with switch := some { w with phase := .commit } } } .structure_

/-- Steps 7 and 8: a current verdict is used, else the Fitting runs in line (origin 0x0E); an accepted image starts. The
load error of a target that failed is kept for the host (R38). -/
def stepSeven (s : State) (w : Switch) (im : Image) : State :=
  let sh := s.shadow w.target
  match fit (fitInput s) im with
  | .ok f =>
    let s := s.setShadow w.target { sh with verdict := 1, current := true }
    let s := startImage (keepReferenced s im) w.target im f
    endSwitch (if w.restoring then s else recordLoad s w.target 0) w (!w.restoring)
  | .error e =>
    let s := refuseFit s (if sh.current then w.target else 0xE) im.digest e
    switchFails (s.setShadow w.target { sh with verdict := 2, current := true }) w

/-! ### The two-phase commit (R367 to R369) -/

/-- The changeover between two cycles: the new image's structure (Table 2-10 step 6, R186), or the bank and mode held in
shadow (R188); a commit that named compat 2 has used the pending mode up (R187). -/
def changeOver (s : State) (k : ModeKind) : State :=
  match k with
  | .quiesce => s
  | .structure_ =>
    match s.img.switch.bind (switchImage s) with
    | some im => placeImage s im (match bindClusters s.flp.cur im with
        | .ok b => b
        | .error _ => [])
    | none => s
  | .sf _ _ mode =>
    let s := ((List.range 272).filter s.coreOn).foldl (fun s c => s.updCore c fun co =>
      match co.sfu.shadow with
      | some h => { co with sfu := { co.sfu with bank := h.1, compat := h.2, shadow := none } }
      | none => co) s
    if mode = 2 then { s with ep := { s.ep with pendMode := none } } else s

/-- Commit: the epoch advances, and every enabled core notes it. -/
def commitEpoch (s : State) (k : ModeKind) : State :=
  let e := (s.ep.epoch + 1) % 65536
  let s := { s with ep := { s.ep with epoch := e, change := some (k, true, s.now) } }
  ((List.range 272).filter s.coreOn).foldl (fun s c => s.updCore c fun co => { co with sfu := { co.sfu with epoch := e } }) s

/-- MODE_PREPARE_COMPLETE: every participant holds the setting, and commit is broadcast (R367). -/
def execModePrepareComplete (s : State) : Host.Outcome State Fault Refusal :=
  match s.ep.change with
  | some (k, false, _) => .next (changeOver (commitEpoch s k) k)
  | _ => .next s

/-- What follows a completed change. -/
def afterChange (s : State) (k : ModeKind) : State :=
  match k, s.img.switch with
  | .sf entry _ _, _ => endCmd s entry true 0
  | .quiesce, some w => stepFive s w
  | .structure_, some w =>
    match switchImage s w with
    | some im => stepSeven s w im
    | none => switchFails s w
  | _, none => s

/-- The last commit acknowledgement: the change is complete, with its notice event (R367, Table 18-2). -/
def completeChange (s : State) (k : ModeKind) : State :=
  let s := { s with ep := { s.ep with change := none } }
  afterChange (notice s 0x12 0 0xFF s.ep.epoch) k

/-- MODE_COMMIT_COMPLETE (R367). -/
def execModeCommitComplete (s : State) : Host.Outcome State Fault Refusal :=
  match s.ep.change with
  | some (k, true, _) => .next (completeChange s k)
  | _ => .next s

/-- MODE_PREPARE_TIMEOUT: an acknowledgement is missing 1 ms after the broadcast, and the change is rolled back (R367).
SF_COMMIT ends "rolled back" (R188); a switch tries its change again (log 42). -/
def execModePrepareTimeout (s : State) : Host.Outcome State Fault Refusal :=
  match s.ep.change with
  | some (k, false, t) =>
    if s.now < t + 1000000 then .next s
    else
      let s := (s.cores.map (·.1)).foldl (fun s c => s.updCore c fun co => { co with sfu := { co.sfu with shadow := none } }) s
      let s := { s with ep := { s.ep with rolledBack := true, rollbacks := satInc 8 s.ep.rollbacks, change := none } }
      let s := notice s 0x12 0 0xFF ((s.ep.epoch + 1) % 65536)
      match k with
      | .sf entry _ _ => .next (endCmd s entry false 0xC)
      | k => .next (prepare s k)
  | _ => .next s

/-- MODE_COMMIT_TIMEOUT: participants without an acknowledgement 1 ms after the commit are fenced with reason 0x06, and
the change completes without them (R368, R369). -/
def execModeCommitTimeout (late : List Receiver) (s : State) : Host.Outcome State Fault Refusal :=
  match s.ep.change with
  | some (k, true, t) =>
    if s.now < t + 1000000 ∨ late = [] then .next s
    else .next (completeChange (fenceReceivers s late 6) k)
  | _ => .next s

end Sys2Proof.Machine
end

