-- ==== Sys2Proof/Machine/Ctl.lean ====
section
/-! DEFINITION. Control flow, traps and barriers (7.5, 7.6, 8.8). -/

namespace Sys2Proof.Machine

/-- An 8-byte-scaled target field. -/
def target (w hi lo : Nat) : Word := BitVec.ofNat 32 (8 * fld w hi lo)

/-- Go to an address. -/
def Group.goto (g : Group) (pc : Word) : Group := { g.next with pc := pc }

/-- The predicate of a lane (R169). -/
def holds (x : Group) (w lane : Nat) : Bool := (x.reg (fRd w) lane != 0) != bit w 16

/-- A divergent branch (R144): none where it would push beyond 32 entries. -/
def branch (x : Group) (w : Nat) : Option Group :=
  let tgt := target w 40 24
  let rpc := target w 57 41
  let taken : Word := (lanes x.mask).foldl (fun m l => if holds x w l then m ||| (1#32 <<< l) else m) 0
  let fall := x.mask &&& ~~~taken
  if fall = 0 then some (x.goto tgt)
  else if taken = 0 then some x.next
  else if 32 < x.stack.length + 2 then none
  else some { x.next with mask := fall, stop := some rpc,
                          stack := ⟨tgt, taken, some rpc⟩ :: ⟨rpc, x.mask, x.stop⟩ :: x.stack }

/-- The effect of BRA. -/
def bodyBra : Body := fun s c g w _ =>
  match branch (s.grp c g) w with
  | some y => s.setGrp c g y
  | none => takeTrap s c g 0x0B 0 0 0

/-- The effect of JMP. -/
def bodyJmp : Body := fun s c g w _ => s.updGrp c g fun x => x.goto (target w 40 24)

/-- The effect of JMPC. -/
def bodyJmpc : Body := fun s c g w _ =>
  s.updGrp c g fun x => if holds x w 0 then x.goto (target w 40 24) else x.next

/-- The effect of JMPI. -/
def bodyJmpi : Body := fun s c g w _ => s.updGrp c g fun x => x.goto (x.reg (fRd w) 0)

/-- Pop entries until one has lanes (R145). -/
def popLive : List StackEnt → Option (StackEnt × List StackEnt)
  | [] => none
  | e :: es => if e.mask = 0 then popLive es else some (e, es)

/-- The effect of EXIT (R145): the active lanes leave every mask; with none left the group ends. -/
def bodyExit : Body := fun s c g _ _ =>
  let x := s.grp c g
  let stack := x.stack.map fun e => { e with mask := e.mask &&& ~~~x.mask }
  match popLive stack with
  | some (e, es) =>
    s.setGrp c g { x.next with pc := e.pc, mask := e.mask, stop := e.stop, stack := es, live := x.live &&& ~~~x.mask }
  | none => endGroup s c g

/-- The effect of TRAP. -/
def bodyTrap : Body := fun s c g w _ => takeTrap s c g 0x0E (fRd w) 0 0

/-- The effect of NOP. -/
def bodyNop : Body := fun s c g _ _ => s.updGrp c g Group.next

/-- Arrive at a barrier (R146, R147); `wait` for BAR.SYNC. -/
def arrive (wait : Bool) : Body := fun s c g w _ =>
  let x := s.grp c g
  let b := fld w 10 8
  let br := (s.core c).bar b
  if x.mask ≠ x.live then takeTrap s c g 9 b 0 0
  else if !(br.owned && br.base == x.base) || bit x.arrived b then takeTrap s c g 0x0A b 0 0
  else
    let s := s.setGrp c g
      (if wait then { x with stall := .barrier b, arrived := setBit x.arrived b, skipBp := false }
       else { x.next with arrived := setBit x.arrived b })
    s.updCore c fun co => barTry (co.setBar b { br with arrived := setBit br.arrived g }) x.size b

/-- The effect of BAR.SYNC. -/
def bodyBarSync : Body := arrive true
/-- The effect of BAR.ARRIVE. -/
def bodyBarArrive : Body := arrive false

/-- The effect of EPOCH.RD (R170). -/
def bodyEpochRd : Body := fun s c g w _ =>
  let f := (s.core c).sfu
  s.updGrp c g fun x => (x.wrN (fRd w) 0 1 (f.epoch % 65536 + 65536 * b2n f.compat + 131072 * b2n f.bank)).next

/-- Issue BRA. -/
def execBra (c : Fin 272) (g : Fin 16) (ecc : Ecc) (s : State) : Host.Outcome State Fault Refusal :=
  .next (issueAs 0x80 c g ecc s bodyBra)
/-- Issue JMP. -/
def execJmp (c : Fin 272) (g : Fin 16) (ecc : Ecc) (s : State) : Host.Outcome State Fault Refusal :=
  .next (issueAs 0x81 c g ecc s bodyJmp)
/-- Issue JMPC. -/
def execJmpc (c : Fin 272) (g : Fin 16) (ecc : Ecc) (s : State) : Host.Outcome State Fault Refusal :=
  .next (issueAs 0x82 c g ecc s bodyJmpc)
/-- Issue JMPI. -/
def execJmpi (c : Fin 272) (g : Fin 16) (ecc : Ecc) (s : State) : Host.Outcome State Fault Refusal :=
  .next (issueAs 0x83 c g ecc s bodyJmpi)
/-- Issue EXIT. -/
def execExit (c : Fin 272) (g : Fin 16) (ecc : Ecc) (s : State) : Host.Outcome State Fault Refusal :=
  .next (issueAs 0x84 c g ecc s bodyExit)
/-- Issue TRAP. -/
def execTrap (c : Fin 272) (g : Fin 16) (ecc : Ecc) (s : State) : Host.Outcome State Fault Refusal :=
  .next (issueAs 0x85 c g ecc s bodyTrap)
/-- Issue NOP. -/
def execNop (c : Fin 272) (g : Fin 16) (ecc : Ecc) (s : State) : Host.Outcome State Fault Refusal :=
  .next (issueAs 0x86 c g ecc s bodyNop)
/-- Issue BAR.SYNC. -/
def execBarSync (c : Fin 272) (g : Fin 16) (ecc : Ecc) (s : State) : Host.Outcome State Fault Refusal :=
  .next (issueAs 0x88 c g ecc s bodyBarSync)
/-- Issue BAR.ARRIVE. -/
def execBarArrive (c : Fin 272) (g : Fin 16) (ecc : Ecc) (s : State) : Host.Outcome State Fault Refusal :=
  .next (issueAs 0x89 c g ecc s bodyBarArrive)
/-- Issue EPOCH.RD. -/
def execEpochRd (c : Fin 272) (g : Fin 16) (ecc : Ecc) (s : State) : Host.Outcome State Fault Refusal :=
  .next (issueAs 0x8A c g ecc s bodyEpochRd)

end Sys2Proof.Machine
end

