-- ==== Sys2Proof/Machine/Frag.lean ====
section
/-! DEFINITION. The A0 fragment path (5.7, 8.7). -/

namespace Sys2Proof.Machine

/-- `k` element codes of a thread, packed from a first register (R168). -/
def fragElems (x : Group) (r lane f k : Nat) : List Nat :=
  let e := fragBytes f
  (List.range k).map fun j =>
    let w := (x.getV (r + j * e / 4) lane).toNat
    fld w (8 * (j * e % 4) + 8 * e - 1) (8 * (j * e % 4))

/-- The checks every fragment instruction passes after R159: all lanes active (R108), then the bank rule
(R107): `open_` wants no held bank, the others want one and `more` of it. -/
def fragTrap (s : State) (c g : Nat) (open_ : Bool) (more : Bank → Bool) : Option State :=
  let x := s.grp c g
  if x.mask ≠ 0xFFFFFFFF then some (descTrap s c g 4 0x10)
  else
    let ok := match heldBank (s.core c) g with
      | none => open_
      | some j => !open_ && more ((s.core c).bankAt j)
    if ok then none else some (descTrap s c g 5 0x11)

/-- c of 5.3: cycles a row takes in a format's family. -/
def fragRate (f : Nat) : Nat := if family f = 96 then 4 else 1

/-- Cycles a FRAG.MMA of a group occupies A0 (Table 5-4). -/
def mmaCycles (co : Core) (g : Nat) : Nat :=
  ((heldBank co g).map fun j => max 32 ((co.bankAt j).m * fragRate (co.bankAt j).fmtA)).getD 32

/-- The effect of FRAG.OPEN: a free bank is claimed and zeroed, or the group stalls. -/
def bodyFragOpen : Body := fun s c g w _ =>
  match fragTrap s c g true fun _ => true with
  | some t => t
  | none =>
    match (List.range 2).find? fun j => ((s.core c).bankAt j).owner.isNone with
    | none => stallRetry s c g
    | some j =>
      if a0Desc s c then stallRetry s c g
      else ((takeA0 s c 1).updCore c fun co => co.setBank j
        { owner := some g, m := fld w 12 8 + 1, n := fld w 20 16 + 1, fmtA := fld w 27 24, fmtB := fld w 31 28 }).updGrp
          c g Group.next

/-- The effect of FRAG.LDB: thread t supplies column t. Its register range is checked with R159's checks where
the held bank says how many registers it reads (R168; log 24). The tile stays with its group's bank, whatever uses A0's cells
in between (the model's choice: Table 5-4 loads it into those cells; log 24). -/
def bodyFragLdb : Body := fun s c g w _ =>
  let r := selReg (fRd w)
  let k := fld w 20 16 + 1
  let fa := ((heldBank (s.core c) g).map fun j => ((s.core c).bankAt j).fmtA).getD 0
  if fa ≠ 0 ∧ 128 < r + fragRegs fa k then takeTrap s c g 1 0x71 0 0
  else match fragTrap s c g false fun _ => true with
  | some t => t
  | none =>
    if a0Desc s c then stallRetry s c g
    else
      let x := s.grp c g
      ((takeA0 s c (32 * fragRate fa)).updCore c fun co => match heldBank co g with
        | some j =>
          let b := co.bankAt j
          co.setBank j { b with k := k, tile := some ((List.range b.n).map fun t => fragElems x r t b.fmtA k) }
        | none => co).updGrp c g Group.next

/-- Products of an M × K tile with the loaded tile: key 32 × row + column. -/
def fragProducts (b : Bank) (rows : List (List Nat)) : Tab Acc :=
  let fam := family b.fmtA
  let w := windowExp b.fmtA b.fmtB 0
  let cols := b.tile.getD []
  (List.range b.m).foldl (fun t i =>
    (List.range b.n).foldl (fun t j =>
      let a := ((cols.getD j []).zip (rows.getD i [])).foldl
        (fun (a : Acc) p => a.addProd fam w (elemVal b.fmtA p.1) (elemVal b.fmtB p.2) 127 127) {}
      tput {} t (32 * i + j) a) t) []

/-- Number of the next FRAG.MMA to start in a core: above those of every one in flight. -/
def nextFlight (co : Core) : Nat :=
  ((List.range 2).flatMap fun j => (co.bankAt j).flight.map (·.1)).foldl (fun m n => max m (n + 1)) 0

/-- The bank whose products started first among those in flight. -/
def firstFlight (co : Core) : Option Nat :=
  (List.range 2).foldl (fun best j =>
    match (co.bankAt j).flight, best.bind fun i => (co.bankAt i).flight.head? with
    | [], _ => best
    | f :: _, some e => if f.1 < e.1 then some j else best
    | _ :: _, none => some j) none

/-- The effect of FRAG.MMA: thread t supplies row t; the products are on their way to the bank. -/
def bodyFragMma : Body := fun s c g w _ =>
  let r := selReg (fRd w)
  match fragTrap s c g false fun b => b.tile.isSome && decide (r + fragRegs b.fmtB b.k ≤ 128) with
  | some t => t
  | none =>
    if a0Desc s c then stallRetry s c g
    else
      let x := s.grp c g
      ((takeA0 s c (mmaCycles (s.core c) g)).updCore c fun co => match heldBank co g with
        | some j =>
          let b := co.bankAt j
          let rows := (List.range b.m).map fun t => fragElems x r t b.fmtB b.k
          co.setBank j { b with flight := b.flight ++ [(nextFlight co, fragProducts b rows)] }
        | none => co).updGrp c g Group.next

/-- FRAG_MMA_RESULT: the products that started first reach their bank (R107). Beyond the product limit of R78, of which the spec
says nothing here, the bank goes on and its sum wraps (the model's choice; log 24). -/
def execFragMmaResult (c : Fin 272) (s : State) : Host.Outcome State Fault Refusal :=
  .next (s.updCore c fun co =>
    match firstFlight co with
    | none => co
    | some j =>
      let b := co.bankAt j
      match b.flight with
      | [] => co
      | f :: fs =>
        co.setBank j { b with flight := fs, acc := f.2.foldl (fun t e =>
          tupd {} t e.1 fun a => a.combine (family b.fmtA) e.2) b.acc })

/-- Row i of a bank rounded to a format: codes and flags. -/
def roundRow (b : Bank) (fmt i : Nat) : List Nat × Nat :=
  let w := windowExp b.fmtA b.fmtB 0
  let rs := (List.range b.n).map fun j =>
    let a := tget {} b.acc (32 * i + j)
    let r := roundOut fmt (a.value w)
    (r.1, r.2 ||| a.flags)
  (rs.map (·.1), rs.foldl (fun f r => f ||| r.2) 0)

/-- The register words of a row; the missing upper half of an odd BF16 row is a free value. -/
def rowWords (fmt : Nat) (cs : List Nat) (ctr : Nat) : List Word :=
  if fmt = 0 then cs.map (BitVec.ofNat 32)
  else (List.range (cdiv cs.length 2)).map fun k =>
    let hi := match cs[2 * k + 1]? with
      | some h => h
      | none => (Config.freeWord (ctr + 64 * k)).toNat % 65536
    BitVec.ofNat 32 (cs.getD (2 * k) 0 + 65536 * hi)

/-- The effect of FRAG.ROUND: thread t receives row t; threads at or beyond M receive free values (5.7). -/
def bodyFragRound : Body := fun s c g w _ =>
  let r := selReg (fRd w)
  let fmt := fld w 27 24
  match fragTrap s c g false fun b => decide (r + roundRegs fmt b.n ≤ 128) with
  | some t => t
  | none =>
    let co := s.core c
    match heldBank co g with
    | none => s
    | some j =>
      let b := co.bankAt j
      if !b.flight.isEmpty || a0Desc s c then stallRetry s c g
      else
        let n := roundRegs fmt b.n
        let fl := (List.range b.m).foldl (fun f i => f ||| (roundRow b fmt i).2) 0
        let word := fun (t k : Nat) =>
          if t < b.m then (rowWords fmt (roundRow b fmt t).1 (s.freeCtr + t)).getD k 0
          else Config.freeWord (s.freeCtr + t + 64 * k)
        let s := takeA0 s c 8
        let co := (s.core c).setBank j (if bit w 28 then { b with acc := [] } else {})
        let s := { s.setCore c co with freeCtr := s.freeCtr + 64 * 32 }
        let s := s.updGrp c g fun x =>
          let x := (List.range 32).foldl (fun x t =>
            (List.range n).foldl (fun (x : Group) k => x.setV (r + k) t (word t k)) x) x
          (x.wrN (fRa w) 0 1 fl).next
        orFlags s c fl

/-- Issue FRAG.OPEN. -/
def execFragOpen (c : Fin 272) (g : Fin 16) (ecc : Ecc) (s : State) : Host.Outcome State Fault Refusal :=
  .next (issueAs 0x70 c g ecc s bodyFragOpen)
/-- Issue FRAG.LDB. -/
def execFragLdb (c : Fin 272) (g : Fin 16) (ecc : Ecc) (s : State) : Host.Outcome State Fault Refusal :=
  .next (issueAs 0x71 c g ecc s bodyFragLdb)
/-- Issue FRAG.MMA. -/
def execFragMma (c : Fin 272) (g : Fin 16) (ecc : Ecc) (s : State) : Host.Outcome State Fault Refusal :=
  .next (issueAs 0x72 c g ecc s bodyFragMma)
/-- Issue FRAG.ROUND. -/
def execFragRound (c : Fin 272) (g : Fin 16) (ecc : Ecc) (s : State) : Host.Outcome State Fault Refusal :=
  .next (issueAs 0x73 c g ecc s bodyFragRound)

end Sys2Proof.Machine
end

