-- ==== Sys2Proof/Machine/Sfu.lean ====
section
/-! DEFINITION. SF.EVAL and ROWSTAT on a core (8.9, 9.2, 9.6). -/

namespace Sys2Proof.Machine

/-- The active bank. -/
def Sfu.active (f : Sfu) : Tab (Option TblRec) := if f.bank then f.bank1 else f.bank0

/-- The shadow bank. -/
def Sfu.idle (f : Sfu) : Tab (Option TblRec) := if f.bank then f.bank0 else f.bank1

/-- Replace the shadow bank. -/
def Sfu.setIdle (f : Sfu) (t : Tab (Option TblRec)) : Sfu := if f.bank then { f with bank0 := t } else { f with bank1 := t }

/-- One lane of SF.EVAL: the result and its flags. An empty slot of the active bank gives a free value (R171
keeps compiled code from naming one). -/
def sfLane (f : Sfu) (fn : Nat) (a b free : Word) : Word × Nat :=
  if fn < 0x20 then builtin f.compat fn a b
  else match tget none f.active (fn - 0x20) with
    | some t => loadable f.compat t a
    | none => (free, 0)

/-- What the table banks deliver (R191): corrections are counted; an entry read again is also an event. -/
def tableEcc (s : State) (c : Nat) (e : Ecc) : State :=
  match e with
  | .tableCorrected row =>
    noteRow (s.updCore c fun co => { co with sfu := { co.sfu with corrected := satInc 16 co.sfu.corrected } }) c 5 row
  | .tableRefetched =>
    faultEvent (s.updCore c fun co => { co with sfu := { co.sfu with refetched := satInc 16 co.sfu.refetched } })
      { cls := 3, source := 7, stream := ((s.ownerOf (clusterOf c)).map (·.id)).getD 0xFF, unitType := 2, unitId := c,
        reason := 9 }
  | _ => s

/-- The effect of SF.EVAL. -/
def bodySfEval : Body := fun s c g w ecc =>
  let fn := fRc w
  let s := if fn < 0x20 then s else tableEcc s c ecc
  let f := (s.core c).sfu
  let x := s.grp c g
  let lane := fun l => sfLane f fn (x.reg (fRa w) l) (if fn = 9 then x.reg (fRb w) l else 0)
    (Config.freeWord (s.freeCtr + l))
  let ls := if selU (fRd w) then [0] else lanes x.mask
  let fl := ls.foldl (fun a l => a ||| (lane l).2) 0
  let s := { s with freeCtr := s.freeCtr + 32 }
  let s := s.setGrp c g (x.wrDst (fRd w) 1 fun l => (lane l).1.toNat).next
  let s := s.updCore c fun co => { co with sfu := { co.sfu with evals := (co.sfu.evals + 1) % 2 ^ 32 } }
  orFlags s c fl

/-- The elements of a row of local memory as FP32. -/
def rowElems (lm : Mem) (bf16 : Bool) (a n : Nat) : List Word :=
  (List.range n).map fun i =>
    if bf16 then bf16to32 (leNat (mread lm (a + 2 * i) 2)) else BitVec.ofNat 32 (leNat (mread lm (a + 4 * i) 4))

/-- The effect of ROWSTAT (R171, R194 to R198). -/
def bodyRowstat : Body := fun s c g w ecc =>
  let x := s.grp c g
  let a := (x.reg (fRa w) 0).toNat
  let n := (x.reg (fRb w) 0).toNat
  let bf := fld w 39 36 == 1
  let e := if bf then 2 else 4
  if n = 0 ∨ 65536 < n ∨ 0x100000 < a + n * e ∨ a % e ≠ 0 then takeTrap s c g 6 0 0 0
  else match ecc with
  | .lmUncorrectable _ => takeTrap s c g 0x0D 0 0 0
  | _ =>
    let s := lmEcc s c ecc
    let r := rowStat (fld w 35 32) (rowElems (s.core c).lm bf a n) (x.reg (fRd w + 1) 0)
    let s := s.setGrp c g (x.wrN (fRd w) 0 2 (r.1.toNat + 2 ^ 32 * r.2.1.toNat)).next
    let s := s.updCore c fun co => { co with sfu := { co.sfu with rows := (co.sfu.rows + 1) % 2 ^ 32 } }
    orFlags s c r.2.2

/-- Issue SF.EVAL. -/
def execSfEval (c : Fin 272) (g : Fin 16) (ecc : Ecc) (s : State) : Host.Outcome State Fault Refusal :=
  .next (issueAs 0xA0 c g ecc s bodySfEval)
/-- Issue ROWSTAT. -/
def execRowstat (c : Fin 272) (g : Fin 16) (ecc : Ecc) (s : State) : Host.Outcome State Fault Refusal :=
  .next (issueAs 0xA8 c g ecc s bodyRowstat)

end Sys2Proof.Machine
end

