-- ==== Sys2Proof/Machine/Simt.lean ====
section
/-! DEFINITION. Any instruction by its opcode, for the Visor's step (R153), and the start and end of blocks
(R132 to R134). -/

namespace Sys2Proof.Machine

/-- The effect of the instruction of an opcode of Table 8-2. -/
def bodyOf (op : Nat) : Option Body :=
  match op with
  | 0x01 => some bodyIadd
  | 0x02 => some bodyIsub
  | 0x03 => some bodyImul
  | 0x04 => some bodyImulhiU
  | 0x05 => some bodyImulhiS
  | 0x06 => some bodyAnd
  | 0x07 => some bodyOr
  | 0x08 => some bodyXor
  | 0x09 => some bodyShl
  | 0x0A => some bodyShr
  | 0x0B => some bodySar
  | 0x0C => some bodyIminS
  | 0x0D => some bodyImaxS
  | 0x0E => some bodyIminU
  | 0x0F => some bodyImaxU
  | 0x10 => some bodyIsetp
  | 0x11 => some bodySel
  | 0x12 => some bodyMov
  | 0x20 => some bodyFadd
  | 0x21 => some bodyFsub
  | 0x22 => some bodyFmul
  | 0x23 => some bodyFfma
  | 0x24 => some bodyFmin
  | 0x25 => some bodyFmax
  | 0x26 => some bodyFsetp
  | 0x28 => some bodyCvt
  | 0x29 => some bodyCvtScale
  | 0x40 => some bodyLd
  | 0x41 => some bodySt
  | 0x42 => some (atomBody .add)
  | 0x43 => some (atomBody .minS)
  | 0x44 => some (atomBody .maxS)
  | 0x45 => some (atomBody .minU)
  | 0x46 => some (atomBody .maxU)
  | 0x47 => some (atomBody .and)
  | 0x48 => some (atomBody .or)
  | 0x49 => some (atomBody .xor)
  | 0x4A => some (atomBody .xchg)
  | 0x4B => some (atomBody .cas)
  | 0x4C => some (atomBody .fadd)
  | 0x4E => some bodyFenceD
  | 0x4F => some bodyCacheRetire
  | 0x60 => some bodyMxIssue
  | 0x61 => some bodyDmaIssue
  | 0x62 => some bodyPalmIssue
  | 0x63 => some bodyWait
  | 0x70 => some bodyFragOpen
  | 0x71 => some bodyFragLdb
  | 0x72 => some bodyFragMma
  | 0x73 => some bodyFragRound
  | 0x80 => some bodyBra
  | 0x81 => some bodyJmp
  | 0x82 => some bodyJmpc
  | 0x83 => some bodyJmpi
  | 0x84 => some bodyExit
  | 0x85 => some bodyTrap
  | 0x86 => some bodyNop
  | 0x88 => some bodyBarSync
  | 0x89 => some bodyBarArrive
  | 0x8A => some bodyEpochRd
  | 0xA0 => some bodySfEval
  | 0xA8 => some bodyRowstat
  | _ => none

/-- Issue whatever instruction the group's PC holds. -/
def issueAny (s : State) (c g : Nat) (ecc : Ecc) : State :=
  match issue s c g none ecc with
  | .stop t => t
  | .go t w =>
    match bodyOf (major w) with
    | some f => f t c g w ecc
    | none => t

/-! ### Blocks (R132 to R134, R176) -/

/-- A group as its block starts it (Table 7-1). -/
def freshGroup (old : Group) (b : BlockRec) (entry stream cls k : Nat) (req : Nat × Nat) : Group :=
  let u : Tab Word := tput 0 (tput 0 (tput 0 (tput 0 [] 0 (BitVec.ofNat 32 b.n)) 1 (BitVec.ofNat 32 k)) 2
    (BitVec.ofNat 32 b.arg)) 3 (BitVec.ofNat 32 (stream + 256 * cls))
  let v : Tab Word := (List.range 32).foldl (fun t l => tput 0 t l (BitVec.ofNat 32 (32 * k + l))) []
  { st := .running, base := b.base, size := b.n, pc := BitVec.ofNat 32 entry, mask := 0xFFFFFFFF, live := 0xFFFFFFFF,
    v := v, u := u, trapCode := old.trapCode, trapDetail := old.trapDetail, trapLane := old.trapLane,
    nextAcc := old.nextAcc, req := some req }

/-- The core a block record names, through the binding of its cluster (R26). -/
def blockCore (s : State) (b : BlockRec) : Option Nat := (s.physCluster b.logical).map fun cl => 4 * cl + b.localCore

/-- Start one block of a request's step. -/
def startBlock (s : State) (stream cls slot : Nat) (b : BlockRec) : State :=
  match blockCore s b with
  | none => s
  | some c =>
    let entry := 4096 * (s.core c).codeBase + b.entry
    let s := (List.range b.n).foldl (fun s k =>
      s.setGrp c (b.base + k) (freshGroup (s.grp c (b.base + k)) b entry stream cls k (stream, slot))) s
    s.updCore c fun co => (List.range 8).foldl (fun co i =>
      if bit b.barriers i then co.setBar i { owned := true, base := b.base } else co) co

/-- The oldest request of a stream that may run a step: none of the stream's requests runs one (R132), no
body copy is still under way (R277), and it is not to fail. -/
def nextReq (st : Stream) : Option ReqSt :=
  if st.reqs.any fun r => r.step.isSome then none
  else match st.reqs with
    | r :: _ => if r.copying.isSome ∨ r.failing.isSome then none else some r
    | [] => none

/-- Every core that a step's blocks name is in service, its region switched on (R326), and its slots are idle. -/
def placesFree (s : State) (st : StepRec) : Bool :=
  st.blocks.all fun b => match blockCore s b with
    | some c => s.coreRuns c && !(s.region (clusterOf c)).gated && (blockSlots b.base b.n).all fun g => (s.grp c g).st == .idle
    | none => false

/-- Every block of the stream's previous step has ended and drained (R132). -/
def streamDrained (s : State) (n : Nat) : Bool :=
  !s.cores.any fun c => c.2.groups.any fun g => g.2.st != .idle && g.2.req.any (·.1 == n)

/-- No other block owns a barrier that the step's blocks name (R132). -/
def barriersFree (s : State) (st : StepRec) : Bool :=
  st.blocks.all fun b => match blockCore s b with
    | some c => (List.range 8).all fun i => !(bit b.barriers i && ((s.core c).bar i).owned)
    | none => false

/-- BLOCK_START: the oldest request's next step starts its blocks once the stream's previous step has drained.
Which step of the graph comes next is the compiled schedule's, so the command names it (log 25). The request
becomes running with its first step (Table 3-5). -/
def execBlockStart (stream : Fin 64) (step : Nat) (s : State) : Host.Outcome State Fault Refusal :=
  let n := stream.val
  let st := s.stream n
  if stopped s || st.state == 2 || st.state == 3 || !streamDrained s n then .next s
  else match nextReq st, (s.graphOf n).bind fun g => g.steps[step]? with
  | some r, some sp =>
    if !placesFree s sp || !barriersFree s sp then .next s
    else
      let s := if r.started then s else writeStatus s n r.slot 3 0 r.items r.commit
      let s := updReq s n r.slot fun q => { q with started := true, step := some step, cause := if q.cause = 0 then throttleCause s n else q.cause }
      let s := sp.blocks.foldl (fun s b => startBlock s n (s.streamClass n) r.slot b) s
      .next (if sp.blocks.isEmpty then stepEnd s (some (n, r.slot)) else s)
  | _, _ => .next s

/-- GROUP_DRAIN_END: an ended group whose tokens count zero leaves its slot (R134). -/
def execGroupDrainEnd (c : Fin 272) (g : Fin 16) (s : State) : Host.Outcome State Fault Refusal := .next (drainEnd s c g)

end Sys2Proof.Machine
end

