-- ==== Sys2Proof/Machine/Visor.lean ====
section
/-! DEFINITION. The Visor (7.8, 17.7): halting, resuming, stepping and aborting a group, state accesses, writes of its
registers, and the end of a session. -/

namespace Sys2Proof.Machine

/-! ### Sessions (R357, R358) -/

/-- A block held by trap-hold is aborted as under R149, and its request ends under R150. -/
def abortHeld (s : State) (c g : Nat) : State :=
  let x := s.grp c g
  if x.st = .trapped then abortAs s c g (trapReason x.trapCode x.trapDetail x.trapWhy) else s

/-- A halted group runs again. -/
def Group.unhalt (x : Group) : Group := if x.st = .halted then { x with st := .running, stepping := false } else x

/-- A halted group goes on; the stall it halted in is tested again (R152). -/
def Group.resume (x : Group) : Group := if x.st = .halted then endWait (passBarrier x.unhalt) else x

/-- End of the Visor session (R358): breakpoints disabled, trap-hold cleared, held blocks aborted, halted groups resumed,
and an event that carries the epoch. -/
def endVisor (s : State) : State :=
  if s.vis.until_.isNone then s
  else
    let s := { s with vis := { s.vis with until_ := none } }
    let s := (s.cores.map (·.1)).foldl (fun s c =>
      let s := s.updCore c fun co => { co with
        hold := false, bps := (List.range 4).foldl (fun t i => tupd {} t i fun b => { b with enable := false }) co.bps }
      let s := (List.range 16).foldl (fun s g => abortHeld s c g) s
      (List.range 16).foldl (fun s g => s.updGrp c g Group.resume) s) s
    notice s 0xE 0 0xFF s.sec.op.debugEpoch

/-- A session opens or starts again, `secs` long (R357). -/
def openVisor (s : State) (secs : Nat) : State :=
  let s := { s with vis := { s.vis with altered := false, until_ := some (s.now + secs * 1000000000) } }
  notice s 0xE 0 0xFF s.sec.op.debugEpoch

/-- VISOR_SESSION_EXPIRY (R358). -/
def execVisorSessionExpiry (s : State) : Host.Outcome State Fault Refusal :=
  match s.vis.until_ with
  | some t => if t ≤ s.now then .next (endVisor s) else .next s
  | none => .next s

/-! ### Group commands (R151 to R153)

A command is a host write of VIS_GCMD or VIS_ACCESS through BAR2, so it counts as one BAR write (R264, R356). -/

/-- Answer a Visor command in VIS_GSTATUS. -/
def visorAnswer (s : State) (status : Nat) : State := { s with vis := { s.vis with cmdStatus := status } }

/-- A command on the selected group: refused without a session (0x4) or on a fenced core (0x3); else `f` answers. A
command clears step_done. -/
def visorCmd (s : State) (f : State → Nat → Nat → State) : State :=
  let c := s.vis.core
  let g := s.vis.group
  if s.vis.until_.isNone then visorAnswer s 4
  else if Config.cores ≤ c ∨ !s.coreOn c then visorAnswer s 3
  else f (s.updGrp c g fun x => { x with stepDone := false }) c g

/-- The next instruction of a group, at the PC its stop address pops to (R144), matches a breakpoint that is to be matched. -/
def atBreakpoint (s : State) (c g : Nat) : Bool :=
  let x := s.grp c g
  x.stall == .none && bpHit (s.core c) g (popStops 33 x).pc.toNat && !x.skipBp

/-- VIS_GCMD.halt (R151, R152). The cause reads breakpoint where the group's next instruction matches one (R155). -/
def haltGroup (s : State) (c g : Nat) : State :=
  if class0Core s c then visorAnswer s 1
  else if (s.grp c g).st ≠ .running then visorAnswer s 2
  else
    let b := atBreakpoint s c g
    visorAnswer (s.updGrp c g fun x => { x with st := .halted, haltCause := b2n b, skipBp := x.skipBp || b, stepping := false }) 0

/-- VIS_GCMD.resume (R153). -/
def resumeGroup (s : State) (c g : Nat) : State :=
  if (s.grp c g).st ≠ .halted then visorAnswer s 2 else visorAnswer (s.updGrp c g Group.resume) 0

/-- One instruction of a running group, or another look at the stall it is in (R152, R153). -/
def stepOne (s : State) (c g : Nat) (ecc : Ecc) : State :=
  match (s.grp c g).stall with
  | .tokens _ _ => endStep true (s.updGrp c g endWait) c g
  | .barrier _ => endStep true (s.updGrp c g passBarrier) c g
  | _ =>
    let x := popStops 33 (s.grp c g)
    let s := if (fetched x x.pc.toNat).isNone && pcOk (s.core c) x.pc.toNat then s.setGrp c g (refill (s.core c) x) else s
    finishIssue s c g ecc (fun t c g w ecc =>
      match bodyOf (major w) with
      | some f => f t c g w ecc
      | none => t) (issue s c g none ecc)

/-- VIS_GCMD.step (R153): a trap is held as under trap-hold. -/
def stepGroup (ecc : Ecc) (s : State) (c g : Nat) : State :=
  if class0Core s c then visorAnswer s 1
  else if (s.grp c g).st ≠ .halted then visorAnswer s 2
  else visorAnswer (stepOne (s.updGrp c g fun x => { x.unhalt with skipBp := true, stepping := true }) c g ecc) 0

/-- The trap that holds a group's block, if one does (R150). -/
def holdingTrap (s : State) (c g : Nat) : Option Group :=
  let x := s.grp c g
  (x.slots.find? fun k => (s.grp c k).st == .trapped && (s.grp c k).base == x.base).map fun k => s.grp c k

/-- VIS_GCMD.abort (R153): the block ends as R149 says and its request under R150, by the trap that holds the block;
with none the request ends as after a trap of the last row of R150 (DEDUCED; log 72). -/
def abortGroup (s : State) (c g : Nat) : State :=
  let x := s.grp c g
  if x.st = .idle ∨ x.st = .draining then visorAnswer s 2
  else
    let reason := match holdingTrap s c g with
      | some y => trapReason y.trapCode y.trapDetail y.trapWhy
      | none => 3
    visorAnswer (abortAs s c g reason) 0

/-- VISOR_HALT. -/
def execVisorHalt (s : State) : Host.Outcome State Fault Refusal := .next (barWrite s fun s => visorCmd s haltGroup)

/-- VISOR_RESUME. -/
def execVisorResume (s : State) : Host.Outcome State Fault Refusal := .next (barWrite s fun s => visorCmd s resumeGroup)

/-- VISOR_STEP. -/
def execVisorStep (ecc : Ecc) (s : State) : Host.Outcome State Fault Refusal :=
  .next (barWrite s fun s => visorCmd s (stepGroup ecc))

/-- VISOR_ABORT. -/
def execVisorAbort (s : State) : Host.Outcome State Fault Refusal := .next (barWrite s fun s => visorCmd s abortGroup)

/-! ### State accesses (R154) -/

/-- The stop address field of VIS_DATA: the low 20 bits; a path without one shows a free value. -/
def stopField (s : State) (stop : Option Word) : Nat × State :=
  match stop with
  | some w => (w.toNat % 2 ^ 20, s)
  | none => let d := s.drawWord; (d.1.toNat % 2 ^ 20, d.2)

/-- Stack entry `i`, the oldest first. -/
def Group.stackAt (x : Group) (i : Nat) : Option StackEnt := x.stack.reverse[i]?

/-- What an access loads: the low and high words; none for a reserved target or an index its target does not have. An
unused stack entry holds free values. -/
def visorLoad (s : State) (x : Group) (target lane i : Nat) : Option (Nat × Nat) × State :=
  match target with
  | 0 => (if i < 128 then some ((x.getV i lane).toNat, 0) else none, s)
  | 1 => (if i < 32 then some ((x.getU i).toNat, 0) else none, s)
  | 2 => (some (x.pc.toNat, 0), s)
  | 3 => (some (x.mask.toNat, 0), s)
  | 4 => let r := stopField s x.stop; (some (r.1, 0), r.2)
  | 5 =>
    if 32 ≤ i then (none, s)
    else match x.stackAt i with
      | some e => (some (e.pc.toNat % 2 ^ 20, e.mask.toNat), s)
      | none => let a := s.drawWord; let b := a.2.drawWord; (some (a.1.toNat % 2 ^ 20, b.1.toNat), b.2)
  | 6 =>
    let t := x.token i
    (if i < 8 then some (t.count % 16 + 16 * (t.flags % 16) + 256 * b2n t.err, 0) else none, s)
  | 7 => if 32 ≤ i then (none, s) else let r := stopField s ((x.stackAt i).bind (·.stop)); (some (r.1, 0), r.2)
  | _ => (none, s)

/-- The group goes on at another PC: it leaves the stall it halted in and sends no more of an access it had begun (R154), and
a breakpoint it halted at is matched where that PC has one (R153). -/
def Group.leave (x : Group) : Group :=
  { x with stall := .none
           skipBp := false
           outst := (x.outst.map fun a => { a with left := a.left - a.unsent.length, unsent := [] }).filter fun a =>
             !(a.left == 0 && a.regs == 0 && a.err.isNone) }

/-- What an access stores; none for a target it may not write. An exited lane
never runs again (R145; log 72), so it stays out of the mask. -/
def visorStore (x : Group) (target lane i : Nat) (v : Word) : Option Group :=
  match target with
  | 0 => if i < 128 then some (x.setV i lane v) else none
  | 1 => if i < 32 then some (x.setU i v) else none
  | 2 => some { x.leave with pc := v }
  | 3 => some { x with mask := v &&& x.live }
  | 4 => some { x with stop := some v }
  | _ => none

/-- The RW bits of VIS_ACCESS. -/
def accessBits (v : Word) (write : Bool) : Word :=
  BitVec.ofNat 32 (bAt write 31 + fAt (fld v.toNat 27 24) 24 + fAt (fld v.toNat 20 16) 16 + fld v.toNat 7 0)

/-- One access to the selected group, which must be halted or trapped. -/
def visorAccess (v : Word) (write : Bool) (s : State) (c g : Nat) : State :=
  let x := s.grp c g
  let s := { s with vis := { s.vis with access := accessBits v write } }
  let target := fld v.toNat 27 24
  let lane := fld v.toNat 20 16
  let i := fld v.toNat 7 0
  if x.st ≠ .halted ∧ x.st ≠ .trapped then visorAnswer s 2
  else if write then
    match visorStore x target lane i s.vis.dataLo with
    | none => visorAnswer s 2
    | some y =>
      let s := s.setGrp c g y
      visorAnswer { s with vis := { s.vis with altered := true, stores := (s.vis.stores + 1) % 2 ^ 32 } } 0
  else
    let r := visorLoad s x target lane i
    match r.1 with
    | none => visorAnswer s 2
    | some d =>
      let t := r.2
      visorAnswer { t with vis := { t.vis with dataLo := BitVec.ofNat 32 d.1, dataHi := BitVec.ofNat 32 d.2 } } 0

/-- VISOR_ACCESS_LOAD. -/
def execVisorAccessLoad (value : Word) (s : State) : Host.Outcome State Fault Refusal :=
  .next (barWrite s fun s => visorCmd s (visorAccess value false))

/-- VISOR_ACCESS_STORE. -/
def execVisorAccessStore (value : Word) (s : State) : Host.Outcome State Fault Refusal :=
  .next (barWrite s fun s => visorCmd s (visorAccess value true))

/-! ### Register writes (7.9, R356) -/

/-- Change breakpoint `i` of the selected core. -/
def updBp (s : State) (i : Nat) (f : BreakP → BreakP) : State :=
  s.updCore s.vis.core fun co => { co with bps := tupd {} co.bps i f }

/-- VIS_GCMD: exactly one bit is a command (refused with 0x2 otherwise). -/
def writeGcmd (s : State) (v : Nat) : State :=
  match v % 16 with
  | 0 => s
  | 1 => visorCmd s haltGroup
  | 2 => visorCmd s resumeGroup
  | 4 => visorCmd s (stepGroup .ok)
  | 8 => visorCmd s abortGroup
  | _ => visorCmd s fun s _ _ => visorAnswer s 2

/-- A write to a register of the Visor block within a session; none for an offset without a writable register. -/
def visorReg (s : State) (o v : Nat) : Option State :=
  let vis := s.vis
  let w := BitVec.ofNat 32 v
  if o = 0x1000 then some { s with vis := { vis with group := fld v 19 16, core := fld v 8 0 } }
  else if o = 0x1004 then some (writeGcmd s v)
  else if o = 0x100C then some (visorCmd s (visorAccess w (bit v 31)))
  else if o = 0x1010 then some { s with vis := { vis with dataLo := w } }
  else if o = 0x1014 then some { s with vis := { vis with dataHi := w } }
  else if 0x1020 ≤ o ∧ o < 0x1040 ∧ o % 4 = 0 then
    if Config.cores ≤ vis.core then some s
    else if o % 8 = 0 then some (updBp s ((o - 0x1020) / 8) fun b => { b with enable := bit v 31, addr := fld v 19 0 })
    else some (updBp s ((o - 0x1020) / 8) fun b => { b with groups := v % 2 ^ 16 })
  else if o = 0x1040 then
    if Config.cores ≤ vis.core then some s else some (s.updCore vis.core fun co => { co with hold := bit v 0 })
  else none

/-- A host write to the Visor block (R356): discarded without a session, a command then reading status 0x4. -/
def visorWrite (s : State) (o v : Nat) : Option State :=
  if s.vis.until_.isSome then visorReg s o v
  else (visorReg s o v).map fun _ => if (o = 0x1004 ∧ v % 16 ≠ 0) ∨ o = 0x100C then visorAnswer s 4 else s

end Sys2Proof.Machine
end

