-- ==== Sys2Proof/Machine/Security.lean ====
section
/-! DEFINITION. Provisioning and the security commands (17.2, 17.7), and LINING_WRITE (15.6). -/

namespace Sys2Proof.Machine

/-! ### The operator record and the epoch journal (R342, R343) -/

/-- Copy A is the record in force: the valid copy with the higher sequence (R342). -/
def opInA (c : Sec) : Bool := c.opAValid && (!c.opBValid || decide (c.opB.sequence < c.opA.sequence))

/-- Write the operator record: the other copy takes it with the next sequence and is then in force (R342). -/
def writeOp (s : State) (f : OpRec → OpRec) : State :=
  let op := f { s.sec.op with sequence := s.sec.op.sequence + 1 }
  { s with sec := if opInA s.sec then { s.sec with op := op, opB := op, opBValid := true }
                  else { s.sec with op := op, opA := op, opAValid := true } }

/-- Entries of a journal sector. -/
def sectorSize : Nat := 8192

/-- Append an epoch to the active sector; a full one is left for the other, whose first entry is the epoch of before
(R343). -/
def appendEpoch (s : State) (e : Nat) : State :=
  let c := s.sec
  let active := if c.journalOnB then c.journalB else c.journalA
  let put := fun (onB : Bool) (l : List Nat) =>
    { s with sec := { c with journalA := if onB then [] else l, journalB := if onB then l else [], journalOnB := onB } }
  if active.length < sectorSize then
    { s with sec := if c.journalOnB then { c with journalB := active ++ [e] } else { c with journalA := active ++ [e] } }
  else put (!c.journalOnB) [c.op.debugEpoch, e]

/-- The journal's value: the highest valid epoch in either sector. -/
def journalValue (c : Sec) : Nat := (c.journalA ++ c.journalB).foldl max 0

/-! ### Authorised commands (R344 to R346) -/

/-- A command of Table 17-3 is refused as busy: a flash write or a profile switch is in progress (R346). -/
def secBusy (s : State) : Bool := s.img.flashOp.isSome || s.img.switch.isSome || s.resetting

/-- The reserved fields and unused arguments of an authorised command with `n` arguments. -/
def Job.badAuth (j : Job) (n : Nat) : Bool :=
  rd j.args 2 2 != 0 || !allZero (slice j.args (8 + 8 * n) (160 - 8 * n)) || !allZero (slice j.args 0xB0 8)

/-- The bytes the operator's signature covers: device ID, opcode, entry bytes 0x10 to 0xBF. -/
def Job.signed (j : Job) : List Byte := deviceId ++ leBytes 2 j.opcode ++ slice j.args 8 0xB0

/-- auth_fail is set and an event written (R344). -/
def authFailed (s : State) : State :=
  let s := { s with sec := { s.sec with authFail := true, authSets := satInc 8 s.sec.authSets } }
  notice s 0xD 0

/-- Steps 1 to 3 of R344, then the counter is written and step 4 runs (R345). -/
def authorised (s : State) (j : Job) (k : State → State) : State :=
  let op := s.sec.op
  let counter := rd j.args 0xA8 8
  if secBusy s then refuseCmd s j 3
  else if op.state = 0 then refuseCmd s j 2
  else if !ecdsaVerify (op.opX, op.opY) j.signed (rd j.args 0xB8 32) (rd j.args 0xD8 32) then refuseCmd (authFailed s) j 0x101
  else if counter ≤ op.authCounter then refuseCmd (authFailed s) j 0x102
  else k (writeOp s fun o => { o with authCounter := counter })

/-- A command of Table 17-3 runs and ends at once. -/
def secDone (s : State) (j : Job) (k : State → State) : State := endCmd (k (startCmd s j)) j.entry true 0

/-- A 512-bit key given as eight arguments from argument `k`: x and y. -/
def Job.key (j : Job) (k : Nat) : Nat × Nat := (rd j.args (8 + 8 * k) 32, rd j.args (40 + 8 * k) 32)

/-- PROV_CLAIM: from a management entry of an unprovisioned module (Table 17-3); IDE is required from then on (R286). -/
def execProvClaim (entry : Fin 32) (s : State) : Host.Outcome State Fault Refusal :=
  match newJob s entry 0x1101 with
  | none => .next s
  | some j =>
    if secBusy s then .next (refuseCmd s j 3)
    else if j.malformed 8 then .next (refuseCmd s j 1)
    else if j.entry < 16 ∨ s.sec.op.state ≠ 0 then .next (refuseCmd s j 2)
    else .next (secDone s j fun s =>
      let s := writeOp s fun o => { o with state := 1, opX := (j.key 0).1, opY := (j.key 0).2 }
      { s with hlk := { s.hlk with ide := ideState s } })

/-- A signer slot. -/
def signerAt (s : State) (i : Nat) : Signer := tget {} s.sec.op.signers i

/-- SIGNER_SET. -/
def execSignerSet (entry : Fin 32) (s : State) : Host.Outcome State Fault Refusal :=
  match newJob s entry 0x1102 with
  | none => .next s
  | some j => .next (authorised s j fun s =>
      if j.badAuth 10 ∨ 7 < j.arg 0 ∨ 2 ^ 32 ≤ j.arg 9 then refuseCmd s j 1
      else if (signerAt s (j.arg 0)).valid then refuseCmd s j 0x103
      else secDone s j fun s => writeOp s fun o => { o with
        signers := tput {} o.signers (j.arg 0) { valid := true, x := (j.key 1).1, y := (j.key 1).2, floor := j.arg 9 } })

/-- SIGNER_CLEAR: the running image keeps running. -/
def execSignerClear (entry : Fin 32) (s : State) : Host.Outcome State Fault Refusal :=
  match newJob s entry 0x1103 with
  | none => .next s
  | some j => .next (authorised s j fun s =>
      if j.badAuth 1 ∨ 7 < j.arg 0 then refuseCmd s j 1
      else if !(signerAt s (j.arg 0)).valid then refuseCmd s j 0x103
      else secDone s j fun s => writeOp s fun o => { o with signers := tput {} o.signers (j.arg 0) {} })

/-- FLOOR_RAISE (R347): never below the floor in force, and a firmware floor not above the running copy. -/
def execFloorRaise (entry : Fin 32) (s : State) : Host.Outcome State Fault Refusal :=
  match newJob s entry 0x1104 with
  | none => .next s
  | some j => .next (authorised s j fun s =>
      let t := j.arg 0
      let v := j.arg 1
      if j.badAuth 2 ∨ (7 < t ∧ t ≠ 0xFF) ∨ 2 ^ 32 ≤ v then refuseCmd s j 1
      else if t = 0xFF then
        if v < s.sec.op.fwFloor ∨ (s.img.fw s.img.fwRunB).security < v then refuseCmd s j 0x104
        else secDone s j fun s => writeOp s fun o => { o with fwFloor := v }
      else if !(signerAt s t).valid then refuseCmd s j 0x103
      else if v < (signerAt s t).floor then refuseCmd s j 0x104
      else secDone s j fun s => writeOp s fun o => { o with
        signers := tupd {} o.signers t fun g => { g with floor := v } })

/-- A setting of SETTING_WRITE; none for a value out of range (Table 17-3). -/
def setting (k v v2 : Nat) : Option (OpRec → OpRec) :=
  match k with
  | 1 => if 1 ≤ v ∧ v ≤ 8 ∧ v2 = 0 then some fun o => { o with codeT := v } else none
  | 2 => if v ≤ 1 ∧ v2 = 0 then some fun o => { o with hotPolicy := v == 1 } else none
  | 3 => if v < 2 ^ 16 ∧ v2 = 0 then some fun o => { o with mgmtPort := v } else none
  | 4 => if v < 2 ^ 48 ∧ v2 = 0 then some fun o => { o with mac := v } else none
  | 5 => if v < 2 ^ 32 ∧ v2 = 0 then some fun o => { o with ipv4 := v } else none
  | 6 => some fun o => { o with ipv6 := v + 2 ^ 64 * v2 }
  | _ => none

/-- SETTING_WRITE: the setting takes effect at the next boot (R346). -/
def execSettingWrite (entry : Fin 32) (s : State) : Host.Outcome State Fault Refusal :=
  match newJob s entry 0x1105 with
  | none => .next s
  | some j => .next (authorised s j fun s =>
      match setting (j.arg 0) (j.arg 1) (j.arg 2) with
      | some f => if j.badAuth 3 then refuseCmd s j 1 else secDone s j fun s => writeOp s f
      | none => refuseCmd s j 1)

/-- OPERATOR_REPLACE: the new credential, and the end of any Visor session (R358). -/
def execOperatorReplace (entry : Fin 32) (s : State) : Host.Outcome State Fault Refusal :=
  match newJob s entry 0x1106 with
  | none => .next s
  | some j => .next (authorised s j fun s =>
      if j.badAuth 8 then refuseCmd s j 1
      else secDone s j fun s => endVisor (writeOp s fun o => { o with opX := (j.key 0).1, opY := (j.key 0).2 }))

/-- PROV_RELEASE: release pending until the next cold reset (R343). -/
def execProvRelease (entry : Fin 32) (s : State) : Host.Outcome State Fault Refusal :=
  match newJob s entry 0x1107 with
  | none => .next s
  | some j => .next (authorised s j fun s =>
      if j.badAuth 0 then refuseCmd s j 1
      else secDone s j fun s => writeOp (appendEpoch s s.sec.op.debugEpoch) fun o => { o with state := 2 })

/-- VISOR_OPEN (R357): the epoch rises in the journal and then in the record, and the session opens. -/
def execVisorOpen (entry : Fin 32) (s : State) : Host.Outcome State Fault Refusal :=
  match newJob s entry 0x1108 with
  | none => .next s
  | some j => .next (authorised s j fun s =>
      let d := j.arg 0
      if j.badAuth 1 ∨ d = 0 ∨ 86400 < d then refuseCmd s j 1
      else secDone s j fun s =>
        let e := satInc 32 s.sec.op.debugEpoch
        openVisor (writeOp (appendEpoch s e) fun o => { o with debugEpoch := e }) d)

/-- VISOR_CLOSE: not authorised; ends the session, if one is open. -/
def execVisorClose (entry : Fin 32) (s : State) : Host.Outcome State Fault Refusal :=
  match newJob s entry 0x1109 with
  | none => .next s
  | some j =>
    if secBusy s then .next (refuseCmd s j 3)
    else if j.malformed 0 then .next (refuseCmd s j 1)
    else .next (secDone s j endVisor)

/-- LINING_WRITE: an operator backup register (Tables 15-4, 15-8). -/
def execLiningWrite (entry : Fin 32) (s : State) : Host.Outcome State Fault Refusal :=
  match newJob s entry 0x0F03 with
  | none => .next s
  | some j =>
    let r := j.arg 0
    if j.malformed 2 ∨ r < 12 ∨ 15 < r then .next (refuseCmd s j 1)
    else
      let s := startCmd s j
      .next (endCmd { s with rst := { s.rst with backup := tput 0 s.rst.backup r (BitVec.ofNat 64 (j.arg 1)) } } j.entry true 0)

end Sys2Proof.Machine
end

