-- ==== Sys2Proof/Machine/Resets.lean ====
section
/-! DEFINITION. Partial resets (15.3, 15.4): requests, the Cuffs' drain and time-out, and what each kind of block keeps
(Table 15-5); fault recovery (R362); fences by Crown command (R19). -/

namespace Sys2Proof.Machine

/-! ### Units -/

/-- The cores of a block of cores. -/
def unitCores : UnitRef → List Nat
  | .core c => [c]
  | .cluster c => coresOf c
  | .partition p => (clustersOf p).flatMap coresOf
  | _ => []

/-- A block is a memory-side one: traffic to it is held for at most 200 µs (R319). -/
def heldTraffic : UnitRef → Bool
  | .slice _ => true
  | .bonded _ => true
  | .lpddr _ => true
  | _ => false

/-- A unit is out of service. -/
def unitFenced (s : State) : UnitRef → Bool
  | .core c => !s.coreOn c
  | .cluster c => !s.inService 1 c
  | .partition p => (clustersOf p).all fun c => !s.inService 1 c
  | .palm n => !s.engineOn n
  | .slice n => !s.inService 3 n
  | .bonded c => !s.inService 4 c
  | .lpddr c => !s.inService 5 c

/-- A partial reset already covers a unit: its own or that of the block it lies in (R320). -/
def covering (s : State) (u : UnitRef) : Option Partial :=
  s.rst.partials.find? fun p => p.unit == u ||
    match p.unit, u with
    | .cluster k, .core c => k.val == clusterOf c
    | .partition k, .core c => k.val == partOfCore c
    | .partition k, .cluster c => k.val == partOfCluster c
    | .slice k, .palm n => k.val == n.val
    | _, _ => false

/-- The idle request to a unit's Cuff; one that a partial reset covers joins it (R320). -/
def beginPartial (s : State) (u : UnitRef) (trigger : Nat) (entry : Option Nat) : State :=
  match covering s u with
  | some p =>
    { s with rst := { s.rst with partials := s.rst.partials.map fun q =>
        if q.unit = p.unit ∧ q.entry.isNone then { q with entry := entry } else q } }
  | none =>
    { s with rst := { s.rst with partials := s.rst.partials ++
        [{ unit := u, trigger := trigger, since := s.now, absorbed := false, entry := entry }] } }

/-! ### RESET_UNIT (R317) -/

/-- A stream runs or is held. -/
def streamLive (s : State) (n : Nat) : Bool := (s.stream n).state == 1 || (s.stream n).state == 2

/-- A live stream is bound to the unit, or the unit is shared and class-0 work runs (R317). -/
def unitBound (s : State) (u : UnitRef) : Bool :=
  match u with
  | .palm n => (s.windows.filter fun w => (engineList s w.window).contains n.val).any fun w =>
      (streamsOfWindow s w.window).any (streamLive s)
  | .slice _ => class0Left s
  | .bonded _ => class0Left s
  | .lpddr _ => class0Left s
  | u => (unitCores u).any fun c => (s.ownerOf (clusterOf c)).any fun r => streamLive s r.id

/-- RESET_UNIT. -/
def execResetUnit (entry : Fin 32) (s : State) : Host.Outcome State Fault Refusal :=
  match newJob s entry 0x0F01 with
  | none => .next s
  | some j =>
    match unitOf (j.arg 0) (j.arg 1) with
    | none => .next (refuseCmd s j 1)
    | some u =>
      if j.malformed 2 then .next (refuseCmd s j 1)
      else if unitFenced s u || unitBound s u then .next (refuseCmd s j 4)
      else if s.img.switch.isSome || !s.boot.ready || s.rst.partials.any (fun p => p.entry.isSome) then .next (refuseCmd s j 3)
      else .next (beginPartial (startCmd s j) u 1 (some j.entry))

/-- The unit an event names: a Palm engine is its slice, a partition the module (Table 1-10). -/
def eventUnit (u : UnitRef) : Nat × Nat :=
  match u with
  | .palm n => (3, n)
  | .partition _ => (0, 0)
  | u => unitCode u

/-- The Crown resets a unit on its own account: a fault of its own under 3.7, with its event (R318, R362). -/
def faultReset (s : State) (u : UnitRef) : State :=
  let s := { s with evt := { s.evt with recovered := if s.evt.recovered.contains (unitCode u) then s.evt.recovered
                                                     else s.evt.recovered ++ [unitCode u] } }
  let e := eventUnit u
  beginPartial (faultEvent s { cls := 3, source := 0xF, unitType := e.1, unitId := e.2, stream := affectedStream s e.1 e.2,
                               reason := 8 }) u 2 none

/-- A Crown write to a block's sw_reset bit (R317): nothing for a fenced unit; one under reset goes on with it. -/
def swReset (s : State) (u : UnitRef) : State :=
  if unitFenced s u || s.resetting || (covering s u).isSome then s else faultReset s u

/-- CORE_SW_RESET. -/
def execCoreSwReset (c : Fin 272) (s : State) : Host.Outcome State Fault Refusal := .next (swReset s (.core c))

/-- PALM_SW_RESET. -/
def execPalmSwReset (n : Fin 128) (s : State) : Host.Outcome State Fault Refusal := .next (swReset s (.palm n))

/-- SLICE_SW_RESET. -/
def execSliceSwReset (n : Fin 128) (s : State) : Host.Outcome State Fault Refusal := .next (swReset s (.slice n))

/-- CONTROLLER_SW_RESET. -/
def execControllerSwReset (lpddr : Bool) (ch : Fin 16) (s : State) : Host.Outcome State Fault Refusal :=
  .next (swReset s (if lpddr then .lpddr ch else .bonded ch))

/-! ### Fault recovery (R362) and Crown fences (R19) -/

/-- Fence a unit of any kind. -/
def fenceAny (s : State) (u : UnitRef) (reason : Nat) : State :=
  match u with
  | .palm n => fenceReceiver s (.palm n) reason
  | .partition p => (clustersOf p).foldl (fun s c => fenceCluster s c reason 0) s
  | u => fenceUnit s (unitCode u).1 (unitCode u).2 reason 0

/-- The Crown resets a unit on its own account, once before the next cold reset; the second time it fences the unit with
reason 0x06 (R318, R362). -/
def recover (s : State) (u : UnitRef) : State :=
  if unitFenced s u || (covering s u).isSome || s.resetting then s
  else if s.evt.recovered.contains (unitCode u) then fenceAny s u 6
  else faultReset s u

/-- UNIT_POLL_TIMEOUT: 50 µs without an answer to a status poll (R362). -/
def execUnitPollTimeout (u : UnitRef) (s : State) : Host.Outcome State Fault Refusal := .next (recover s u)

/-- CONTROL_STATE_UNCORRECTABLE: a core, slice, engine or controller reports an error in its own control state (R362). -/
def execControlStateUncorrectable (u : UnitRef) (s : State) : Host.Outcome State Fault Refusal :=
  match u with
  | .cluster _ => .next s
  | .partition _ => .next s
  | u => .next (recover s u)

/-- FENCE_BY_CROWN_COMMAND: reason 0x07; a partition is no unit of the floor plan (R19, Table 1-10). -/
def execFenceByCrownCommand (u : UnitRef) (s : State) : Host.Outcome State Fault Refusal :=
  match u with
  | .partition _ => .next s
  | u => .next (fenceAny s u 7)

/-! ### Draining and absorbing (Table 15-3) -/

/-- A write that has been accepted into a waiter list. -/
def Req.accepted (r : Req) : Bool :=
  match r.kind with
  | .write _ => true
  | _ => false

/-- A slice's miss registers empty: its waiters, its fills and its reads at the controllers are gone. -/
def dropMisses (s : State) (n : Nat) : State :=
  let s := s.updSlice n fun sl => { sl with miss := [], rets := [] }
  let mine := fun (r : MemReq) => !(r.slice == n && r.write.isNone)
  let drop := fun (m : Ctlr) => { m with q := m.q.filter mine, held := m.held.filter mine }
  (List.range 16).foldl (fun s c => (s.updMc false c drop).updMc true c drop) s

/-- An accepted write is applied at its line. -/
def applyAccepted (s : State) (n : Nat) (r : Req) : State :=
  match r.kind, resolve s true r.addr with
  | .write bs, .ok h =>
    dirInvRange (storeLine writeBack s n h r.cls (offsets (r.addr % 256) bs)) r.addr r.len
  | _, _ => s

/-- The Cuff of a slice absorbs: fills still due are discarded, accepted writes applied, and what is not answered goes
back as held, ahead of what came later (Table 15-3, R315). -/
def absorbSlice (s : State) (n : Nat) : State :=
  let ws := (s.slice n).miss.flatMap (·.waiters)
  let s := (ws.filter Req.accepted).foldl (fun s r => answer (applyAccepted s n r) r (.ok [])) (dropMisses s n)
  s.updSlice n fun sl => { sl with inq := [], held := (ws.filter fun r => !r.accepted) ++ sl.inq ++ sl.held }

/-- The slice drains: what has arrived for each of its lines takes effect, fills at once. -/
def drainSlice (s : State) (n : Nat) : State :=
  let sl := s.slice n
  let ls : List Nat := sl.miss.map (fun m => m.line) ++ sl.inq.map (fun r => r.addr / 256)
  ls.eraseDups.foldl (fun s L => settleLine s n L) s

/-- A request at a controller takes effect as its command would serve it, with nothing met on the way. -/
def serveAtCtl (s : State) (lpddr : Bool) (c : Nat) (r : MemReq) : State :=
  match r.write, lpddr with
  | some ws, _ => storeAtCtl s lpddr c r.line r.cls ws
  | none, false =>
    let t := bondedTake (chargeCtl s false c r.cls) c r.line r.cls .ok
    giveBack t.2 r t.1
  | none, true => lpRead (chargeCtl s true c r.cls) c r quiet

/-- Every merge entry drains to the device. -/
def drainMerges (s : State) (c : Nat) : State :=
  (List.range (s.lp c).merge.length).foldl (fun s _ => drainEntry s c 0 quiet) s

/-- A controller drains: its request queue, and for LPDDR6 every merge entry. -/
def drainCtl (s : State) (lpddr : Bool) (c : Nat) : State :=
  let q := (s.mc lpddr c).q
  let s := q.foldl (fun s r => serveAtCtl s lpddr c r) (s.updMc lpddr c fun m => { m with q := [] })
  if lpddr then drainMerges s c else s

/-- The writes that filled a merge entry, as their slices hold them: one for each line with bytes. -/
def mergeHeld (s : State) (c : Nat) (e : MergeEnt) : List MemReq :=
  (List.range 8).filterMap fun i =>
    let line := (0x1000000000 + 2048 * pageDev c e.page) / 256 + i
    let ws := ((List.range 256).filter fun j => e.valid.testBit (256 * i + j)).map fun j => (j, mget e.data (256 * i + j))
    let n := match resolve s true (256 * line) with
      | .ok h => h.slice
      | .error _ => 0
    if ws.isEmpty then none else some { line := line, slice := n, cls := e.cls, write := some ws }

/-- The Cuff of a controller absorbs: requests still queued, and for LPDDR6 merge entries not yet written, go back as held
(Table 15-3, R315). -/
def absorbCtl (s : State) (lpddr : Bool) (c : Nat) : State :=
  s.updMc lpddr c fun m => { m with
    q := [], merge := [], held := (if lpddr then m.merge.flatMap (mergeHeld s c) else []) ++ m.q ++ m.held }

/-- Hashed lines of a slice: those no slice-local window owns. -/
def hashedLine (s : State) (l : Line) : Bool := l.present && !((windowAt s (256 * l.no)).map (·.slocal)).getD false

/-- A slice writes back its dirty hashed lines; poisoned ones have no data to give. -/
def writeDirty (s : State) (n : Nat) (p : Line → Bool) : State :=
  (((s.slice n).lines.map (·.2)).filter fun l => hashedLine s l && l.dirty && !l.poison && p l).foldl (fun s l =>
    writeBack s n l.no l.cls (maskedBytes l.data l.valid 256)) s

/-! ### What a reset keeps (Table 15-5, Table 15-6) -/

/-- A Palm engine is reset: its kept launches wait again and are replayed (R318, R127). -/
def resetEngine (s : State) (n : Nat) : State :=
  let e := s.engine n
  let kept := e.run0.toList ++ e.q0 ++ e.run1.toList ++ e.q1
  let s := (e.run0.toList ++ e.run1.toList).foldl (fun s id =>
    updLaunch s id fun L => { L with started := L.started.filter (· != n) }) s
  let s := s.setEngine n { e with q0 := e.run0.toList ++ e.q0, q1 := e.run1.toList ++ e.q1, run0 := none, run1 := none,
                                  suspended := false, replays := sat 16 (e.replays + kept.length) }
  if kept.isEmpty then s
  else faultEvent s { cls := 3, source := 6, stream := 0xFF, unitType := 3, unitId := n, reason := 8 }

/-- The Crown recopies an engine's staged weights from their homes into the slice before it is released, in class 0 (Table 15-6
step 5, Table 12-7). -/
def recopyShares (s : State) (n : Nat) : State :=
  (packedLines (s.engine n).shares).foldl (fun s A => (rewriteLine s n A 0).2) s

/-- Another unit's Cuff holds a home of an engine's staged weights (R314). -/
def homesHeld (s : State) (n : Nat) : Bool :=
  ((s.engine n).shares.filter fun sh => decide (0 < sh.packed)).any fun sh => sh.homes.any fun r =>
    (linePieces r.1 r.2).any fun pc => match resolve s true pc.1 with
      | .error _ => false
      | .ok h => (h.slice != n && sliceHeld s h.slice) || lineHeld s (h.backing / 256)

/-- Sequences with a page in a slice's columns are lost, and their requests end; the columns stay (Table 15-6 step 5). -/
def loseOnSlice (s : State) (n : Nat) : State :=
  s.streamIds.foldl (fun s st =>
    let s := loseSequences s st 3 n
    ((s.stream st).reqs.filter fun r => r.failing == some 8).foldl (fun s r => endLost s st r.slot) s) s

/-- A slice is reset: drained unless its Cuff absorbed, dirty lines written back, poison marks and filter entries
re-created, slice-local lines re-established, and its Palm engine reset (Table 15-6). -/
def resetSlice (s : State) (n : Nat) (p : Partial) : State :=
  let s := if p.absorbed then s else drainSlice s n
  let s := writeDirty s n fun _ => true
  let s := s.updSlice n fun sl => { sl with
    lines := (sl.lines.filter fun e => e.2.poison && hashedLine s e.2).map fun e => (e.1, { e.2 with age := 0 })
    ageHi := 0, ageLo := 0 }
  let s := (s.windows.filter fun w => w.slocal && decide (w.firstSlice ≤ n) && decide (n < w.firstSlice + w.sliceCount)).foldl
    (fun s w => placeLocal s w n) s
  resetEngine (loseOnSlice (recopyShares s n) n) n

/-- A controller is reset: drained unless its Cuff absorbed; its decoded pages are gone, and what its slices hold follows
when it releases (R315, Table 15-5). -/
def resetCtl (s : State) (lpddr : Bool) (c : Nat) (p : Partial) : State :=
  let s := if p.absorbed then s else drainCtl s lpddr c
  s.updMc lpddr c fun m => { m with heldPages := [] }

/-- The block leaves reset with what Table 15-5 keeps. -/
def resetBlock (s : State) (p : Partial) : State :=
  match p.unit with
  | .palm n => resetEngine s n
  | .slice n => resetSlice s n p
  | .bonded c => resetCtl s false c p
  | .lpddr c => resetCtl s true c p
  | u => (unitCores u).foldl (fun s c => loseCore s c 8) s

/-- A slice or a controller that has left reset takes what was held at its sources (R314, Table 15-6 step 6), the host link goes on with what
the reset held of its accesses. -/
def releaseUnit (s : State) (u : UnitRef) : State :=
  match u with
  | .slice n => goOn (release s n)
  | .bonded c => goOn (admitCtl s false c)
  | .lpddr c => goOn (admitCtl s true c)
  | _ => goOn s

/-- PARTIAL_RESET_COMPLETE: outcome 0x0, or 0x1 after absorbing (RST_UNIT). A slice or controller releases within
200 µs or not at all (R320), a slice once the homes of its weights can be read. -/
def execPartialResetComplete (u : UnitRef) (s : State) : Host.Outcome State Fault Refusal :=
  match s.rst.partials.find? fun p => p.unit == u with
  | none => .next s
  | some p =>
    let waits := match u with
      | .slice n => homesHeld s n
      | _ => false
    if (heldTraffic u && decide (p.since + 200000 < s.now)) || waits then .next s
    else .next (releaseUnit (endPartial (resetBlock s p) p (b2n p.absorbed)) u)

/-! ### Time-outs -/

/-- Drain time-out of a Cuff in ticks (Table 15-3). -/
def drainLimit : UnitRef → Nat
  | .palm _ => 10000
  | .slice _ => 40000
  | .lpddr _ => 80000
  | _ => 20000

/-- What a Cuff cuts off: replies to cores are discarded, a slice and a controller give back what they have not done;
launches wait as they are. -/
def absorb (s : State) (u : UnitRef) : State :=
  match u with
  | .slice n => absorbSlice s n
  | .bonded c => absorbCtl s false c
  | .lpddr c => absorbCtl s true c
  | u => (unitCores u).foldl (fun s c => (orphanReqs s c).updCore c fun co =>
      { co with groups := (co.groups.map (·.1)).foldl (fun t g => tupd {} t g fun x => { x with outst := [] }) co.groups }) s

/-- CUFF_TIMEOUT: the drain limit of the block has passed, and its Cuff absorbs (R314). -/
def execCuffTimeout (u : UnitRef) (s : State) : Host.Outcome State Fault Refusal :=
  match s.rst.partials.find? fun p => p.unit == u with
  | none => .next s
  | some p =>
    if p.absorbed || decide (s.now < p.since + drainLimit u) then .next s
    else
      let s := absorb s u
      .next { s with rst := { s.rst with
        absorbed := true, absorbSets := satInc 8 s.rst.absorbSets
        partials := s.rst.partials.map fun q => if q.unit = u then { q with absorbed := true } else q } }

/-- A byte's home is a slice. -/
def homedAt (s : State) (n a : Nat) : Bool :=
  match resolve s true a with
  | .ok h => h.slice == n
  | .error _ => false

/-- A running DMA transfer notes the first row of which a slice holds a request (R320). -/
def cutDma (s : State) (n : Nat) (r : RunDesc) : RunDesc :=
  let d := parseDma r.ent.bytes
  let row := (List.range d.rows).find? fun i => (linePieces (d.dev + i * d.devStr) d.rowBytes).any fun pc => homedAt s n pc.1
  { r with cut := r.cut.orElse fun _ => row }

/-- A line of a host read whose request R320 answers with a bus error, or as it is. -/
def denyLine (n : Nat) (a : (List (Option (List Byte) × Bool)) × State) (l : Nat) :
    (List (Option (List Byte) × Bool)) × State :=
  match hdmLine a.2 false l with
  | some w => if homedAt a.2 n w.2 then (a.1 ++ [(none, true)], a.2)
              else let r := hostReadLine a.2 l; (a.1 ++ [r.1], r.2)
  | none => let r := hostReadLine a.2 l; (a.1 ++ [r.1], r.2)

/-- A waiting access of the host ends where a slice held it (R320): its lines at the slice read as poison, its bytes there are
lost, and the rest of it takes effect. -/
def denyHost (n : Nat) (s : State) (a : HostAcc) : State :=
  match a with
  | .read off len =>
    let r := (lines64 off len).foldl (denyLine n) ([], s)
    r.2.emit (.memData r.1)
  | .write off bs => ringWrite s ((permitted s off bs).map fun g => (g.1, g.2.filter fun w => !homedAt s n w.1))

/-- Every request that waits for a slice in reset receives a bus error (R320): those held at the slice, rows of running DMA
transfers, accesses of the host. A command that is still to make its accesses has none there (log 52). -/
def denyHeld (s : State) (n : Nat) : State :=
  let q := (s.slice n).held
  let s := s.updSlice n fun sl => { sl with held := [] }
  let s := q.foldl (fun s r => answer s r (.error 1)) s
  let s := (s.cores.map (·.1)).foldl (fun t c => t.updCore c fun co => { co with dmaRun := co.dmaRun.map (cutDma s n) }) s
  let at_ := fun (a : HostAcc) => hostOpen s && (hostReach s a).any fun x => homedAt s n x.1
  let mine := s.hlk.queue.filter at_
  mine.foldl (denyHost n) { s with hlk := { s.hlk with queue := s.hlk.queue.filter fun a => !at_ a } }

/-- PARTIAL_RESET_TIMEOUT: held requests receive a bus error and the unit is fenced with reason 0x06 (R320); a slice goes
on under Table 11-3. -/
def execPartialResetTimeout (u : UnitRef) (s : State) : Host.Outcome State Fault Refusal :=
  match s.rst.partials.find? fun p => p.unit == u with
  | none => .next s
  | some p =>
    if !heldTraffic u || decide (s.now < p.since + 200000) then .next s
    else match u with
      | .slice n =>
        .next (startSliceFence (denyHeld (absorbSlice s n) n) n 6 0)
      | u => .next (fenceAny s u 6)

end Sys2Proof.Machine
end

