-- ==== Sys2Proof/Machine/Boot.lean ====
section
/-! DEFINITION. The boot steps (14.1), their log (14.2), the failed-start rule (14.3), repair and firmware distribution at
boot (14.5, 14.7), and the start of the image (step 14). -/

namespace Sys2Proof.Machine

/-! ### The boot record (14.2) -/

/-- Change a step of the current record. -/
def updStep (s : State) (k : Nat) (f : BootStep → BootStep) : State :=
  { s with boot := { s.boot with cur := { s.boot.cur with steps := tupd {} s.boot.cur.steps k f } } }

/-- A step starts: outcome 0x1, its start and a cleared progress field come first (R294). -/
def beginStep (s : State) (k : Nat) : State :=
  let s := updStep s k fun _ => { outcome := 1, start := s.now }
  { s with boot := { s.boot with step := k, cur := { s.boot.cur with progress := [] } } }

/-- How a step ends: outcome, alternative, units fenced. -/
structure StepEnd where
  outcome : Nat := 2
  alt : Nat := 0
  fenced : Nat := 0

/-- A step ends (R294). -/
def finishStep (s : State) (k : Nat) (e : StepEnd) : State :=
  updStep s k fun x => { x with outcome := e.outcome, alt := e.alt, fenced := e.fenced, stop := s.now }

/-- A step ends with outcome 0x7: the boot goes no further, and FAULT_N is low (R298). -/
def stopBoot (s : State) (k : Nat) : State :=
  let s := finishStep s k { outcome := 7 }
  { s with pins := { s.pins with faultN := false }
           boot := { s.boot with terminal := true, cur := { s.boot.cur with terminalStep := k } } }

/-- Units fenced so far, to count what a step fences. -/
def fencedCount (s : State) : Nat :=
  ([1, 2, 3, 4, 5].map fun ut => unitCount ut - (s.flp.cur.enabled ut).length).sum +
  ((List.range 128).filter fun n => s.unitState 3 n == 2).length

/-- The outcome of a step that fenced units. -/
def fencedEnd (before : Nat) (s : State) : StepEnd :=
  let n := fencedCount s - before
  { outcome := if n = 0 then 2 else 3, fenced := n }

/-- The boot goes on to step `k`: it has not stopped, and no earlier step but the background one still runs (R291). -/
def mayStep (s : State) (k : Nat) : Bool :=
  !s.boot.terminal && (List.range k).all fun i => i == 10 || (bootStepAt s.boot.cur i).outcome != 1

/-- A step that hangs in this boot. -/
def hangsAt (env : BootEnv) (k : Nat) : Bool := env.hang.any fun h => h.1 == k

/-- Run a step of no units: where it hangs, it only started. -/
def runStep (env : BootEnv) (k : Nat) (f : State → State) (s : State) : State :=
  if !mayStep s k then s else if hangsAt env k then beginStep s k else f (beginStep s k)

/-! ### Units of a step (Table 14-5) -/

/-- The units of a unit_type in service. -/
def liveUnits (s : State) (ut : Nat) : List UnitRef :=
  match ut with
  | 1 => ((List.finRange 68).filter fun (c : Fin 68) => s.inService 1 c).map .cluster
  | 2 => ((List.finRange 272).filter fun (c : Fin 272) => s.coreOn c).map .core
  | 3 => ((List.finRange 128).filter fun (n : Fin 128) => s.inService 3 n).map .slice
  | 4 => ((List.finRange 16).filter fun (c : Fin 16) => s.inService 4 c).map .bonded
  | 5 => ((List.finRange 16).filter fun (c : Fin 16) => s.inService 5 c).map .lpddr
  | _ => []

/-- Unit types of a step. -/
def stepTypes (k : Nat) : List Nat :=
  match k with
  | 4 => [1, 3, 4, 5]
  | 6 => [3, 4]
  | 7 => [2, 3]
  | 8 => [4]
  | 9 => [5]
  | 12 => [2, 3, 4, 5]
  | 13 => [2, 3]
  | _ => []

/-- Limits in ticks. -/
def stepLimit (k : Nat) : Nat :=
  1000000 * [0, 10, 100, 10, 20, 20, 30, 40, 100, 100, 3000, 200, 50, 150, 500].getD k 0

/-- The units of a step in service. -/
def stepUnits (s : State) (k : Nat) : List UnitRef := (stepTypes k).flatMap (liveUnits s)

/-- The progress bits of a step whose parts have ended for these units: a slice has one bit, which step 12 sets once both
its controller and its Palm engine have ended (R294). -/
def progressUnits (s : State) (k : Nat) (us : List UnitRef) : List UnitRef :=
  us.filterMap fun u => match u with
    | .palm n => if k = 12 then none else some (.slice n)
    | .slice n => if k = 12 && s.engineOn n && !us.contains (.palm n) then none else some (.slice n)
    | u => some u

/-- Units' parts of the step have ended, passed or fenced (R294). -/
def markEnded (s : State) (k : Nat) (us : List UnitRef) : State :=
  { s with boot := { s.boot with cur := { s.boot.cur with progress := progressUnits s k us } } }

/-- Units that the failed start of the boot before takes out of a step (R297). -/
def takenOut (more : List (Nat × UnitRef)) (k : Nat) : List UnitRef := (more.filter fun f => f.1 == k).map (·.2)

/-- Run a step of units: `part` is what the selected units do and `fin` the step's end, given the units fenced before it.
A step that hangs has done the part of the units named and fenced the units taken out of it, and no more. -/
def runUnits (env : BootEnv) (more : List (Nat × UnitRef)) (k : Nat) (part : (UnitRef → Bool) → State → State) (fin : Nat → State → State) (s : State) :
    State :=
  if !mayStep s k then s
  else
    let s := beginStep s k
    let n := fencedCount s
    match env.hang with
    | some (h, us) =>
      if h = k then markEnded (part us.contains s) k (us ++ takenOut more k) else fin n (markEnded (part (fun _ => true) s) k (stepUnits s k))
    | none => fin n (markEnded (part (fun _ => true) s) k (stepUnits s k))

/-- Pending units of a step of a record: in service, with a clear progress bit (14.3). -/
def pendingUnits (s : State) (r : BootRec) (k : Nat) : List UnitRef :=
  (stepUnits s k).filter fun u => !(r.progress.any fun v => unitBit v == unitBit u)

/-- Bits of channels. -/
def channelBits (us : List UnitRef) : Nat :=
  us.foldl (fun m u => match u with
    | .bonded c => setBit m c
    | .lpddr c => setBit m c
    | _ => m) 0

/-! ### Fences at boot (R296) -/

/-- A slice leaves service during boot. Once the home tables stand (`homes`), its buckets are dealt (R218). -/
def fenceBootSlice (s : State) (homes : Bool) (reason n : Nat) : State :=
  if s.inService 3 n then floorChange (if homes then dealBuckets s n else s) 3 n 3 reason 0 else s

/-- Fence a unit during boot. A half-width slice that loses its Palm engine is fenced whole (1.7). -/
def fenceBoot (s : State) (homes : Bool) (reason : Nat) (u : UnitRef) : State :=
  match u with
  | .slice n => fenceBootSlice s homes reason n
  | .palm n =>
    if s.engineOn n then
      if s.unitState 3 n = 1 then fenceBootSlice s homes reason n else floorChange s 3 n 2 reason 0
    else s
  | .partition _ => s
  | u => fenceUnit s (unitCode u).1 (unitCode u).2 reason 0

/-- The units that fail a step, and those that the failed start of the boot before takes out of it (R297). -/
def failsAt (env : BootEnv) (more : List (Nat × UnitRef)) (k : Nat) : List UnitRef :=
  ((more ++ env.fails).filter fun f => f.1 == k).map (·.2)

/-- The selected units that fail a step are fenced, all at the step's one tick: first those that the failed start takes
out, then those that fail, each in the order the command lists them. That this order is the order of occurrence R23 asks
for, and that bonds and structures of steps 6 and 7 come in list order too, is the model's choice (log 75). -/
def failUnits (env : BootEnv) (more : List (Nat × UnitRef)) (k : Nat) (homes : Bool) (reason : Nat) (sel : UnitRef → Bool)
    (s : State) : State :=
  ((failsAt env more k).filter fun u => sel u || more.contains (k, u)).foldl (fun s u => fenceBoot s homes reason u) s

/-- The end of a step of units with no alternative. -/
def endUnits (k n : Nat) (s : State) : State := finishStep s k (fencedEnd n s)

/-! ### Steps 2 and 3 -/

/-- A firmware copy verifies (R299): its bytes read back match the directory's CRC-32C, and header, signature and floor
hold. The copy the module was delivered with is one whose header and signature hold (log 5). -/
def copyOk (env : BootEnv) (s : State) (b : Bool) : Bool :=
  let c := s.img.fw b
  c.state == 2 && !(if b then env.fwBad.2 else env.fwBad.1) &&
  (if c.delivered then decide (s.sec.op.fwFloor ≤ c.security) else c.crc == crc32c c.bytes && fwVerifies s c.bytes)

/-- The copy step 2 tries first: the higher sequence number, or the other as the alternative. -/
def firstCopy (s : State) : Bool := decide (s.img.fwA.seq < s.img.fwB.seq) != s.boot.fwAlt

/-- Crown firmware runs from a copy, and the boot record names it. -/
def runCopy (s : State) (b : Bool) : State :=
  { s with img := { s.img with fwRunB := b }
           boot := { s.boot with cur := { s.boot.cur with fwB := b, fwVersion := (s.img.fw b).version } } }

/-- The end of a step 2 that the alternative of R297 was in force for. -/
def otherCopyEnd : StepEnd := { outcome := 4, alt := 1 }

/-- Step 2: the firmware copy; Crown firmware runs from here. -/
def stepTwo (env : BootEnv) (s : State) : State :=
  let b := firstCopy s
  let run := fun (b : Bool) => finishStep (runCopy s b) 2 (if s.boot.fwAlt then otherCopyEnd else {})
  if copyOk env s b then run b else if copyOk env s !b then run !b else stopBoot s 2

/-- Step 3 takes the other firmware copy as an alternative (R297): the rest of this boot runs from it where it verifies, and
the record's step 2 says so (log 87). -/
def takeOtherCopy (env : BootEnv) (s : State) : State :=
  let b := firstCopy s
  finishStep (if copyOk env s b then runCopy s b else s) 2 otherCopyEnd

/-- The operator record in force (R342), its debug epoch (R343), and the settings of the boot (R346). A pending release is
carried out at a cold reset. -/
def readOperator (s : State) : State :=
  let c := s.sec
  let none := !c.opAValid && !c.opBValid
  let op : OpRec := if none then {} else if opInA c then c.opA else c.opB
  let op := { op with debugEpoch := max (journalValue c) op.debugEpoch }
  let s := { s with sec := { c with op := op } }
  let s := if none then notice s 0xD 0 else s
  let s := if !s.boot.warm && op.state == 2 then
      writeOp s fun o => { ({} : OpRec) with sequence := o.sequence, authCounter := o.authCounter, debugEpoch := o.debugEpoch,
                                             fwFloor := o.fwFloor }
    else s
  let op := s.sec.op
  { s with sec := { s.sec with codeT := op.codeT, hotPolicy := op.hotPolicy, mgmtPort := op.mgmtPort, mac := op.mac,
                               ipv4 := op.ipv4, ipv6 := op.ipv6 } }

/-- R297: what is put in force for the failed start of the previous boot, the units to be fenced, and whether the boot
stops. -/
def failedStart (s : State) : State × List (Nat × UnitRef) × Bool :=
  let b := s.boot
  let k := b.prev.wdStep
  let ps := pendingUnits s b.prev k
  let fence := ps.map fun u => (k, u)
  let alt := fun (_ : Unit) =>
    if b.fwAlt then (s, [], true) else ({ s with boot := { b with fwAlt := true } }, [], false)
  match k with
  | 2 => alt ()
  | 8 =>
    let m := channelBits ps
    if b.bcHalf ||| m ≠ b.bcHalf then ({ s with boot := { b with bcHalf := b.bcHalf ||| m } }, [], false) else (s, fence, false)
  | 9 =>
    let m := channelBits ps
    if b.lpSlow ||| m ≠ b.lpSlow then ({ s with boot := { b with lpSlow := b.lpSlow ||| m } }, [], false) else (s, fence, false)
  | 10 =>
    match b.prev.copying with
    | some n => ({ s with boot := { b with slotSkip := setBit b.slotSkip n } }, [], false)
    | none => alt ()
  | 11 => if b.linkLimit < 3 then ({ s with boot := { b with linkLimit := b.linkLimit + 1 } }, [], false) else alt ()
  | 14 => if b.imageSkip then alt () else ({ s with boot := { b with imageSkip := true } }, [], false)
  | 4 => (s, fence, false)
  | 6 => (s, fence, false)
  | 7 => (s, fence, false)
  | 12 => (s, fence, false)
  | 13 => (s, ps.map fun u => match u with
      | .slice n => (k, .palm n)
      | u => (k, u), false)
  | 0 => (s, [], false)
  | _ => alt ()

/-- Step 3's fatal event of a lockstep mismatch (R360). -/
def lockstepEvent (s : State) : State :=
  if s.evt.lockstep && s.evt.fatalAt.isSome then
    let s := logEvent s { cls := 4, source := 0x11, code := s.evt.fatalCode, stream := 0xFF }
    { s with evt := { s.evt with fatalAt := none } }
  else s

/-- The event of a Visor session's close, where the reset that ended it had no Crown to write it (R357; log 90). -/
def closeEvent (s : State) : State :=
  if s.vis.closed then notice { s with vis := { s.vis with closed := false } } 0xE 0 0xFF s.sec.op.debugEpoch else s

/-- An uncorrectable Lining word (R322): the delivered floor plan again, every slot changed, an event; the generation does
not go back (R296). -/
def liningLost (s : State) (bad : Bool) : State :=
  if s.boot.warm && bad then
    let s := { s with homes := []
                      flp := { s.flp with cur := { s.flp.delivered with generation := s.flp.cur.generation } }
                      rst := { s.rst with shadowWrites := [] }
                      img := { s.img with shadows := [] } }
    logEvent s { cls := 3, source := 0x11, stream := 0xFF }
  else s

/-- Step 3: the records are read and the event ring restored (R364), sets of lane groups follow the floor plan, and the failed start of the boot before is
dealt with. -/
def stepThree (env : BootEnv) (s : State) : State × List (Nat × UnitRef) :=
  let s := recordSets (liningLost (closeEvent (readOperator (lockstepEvent (restoreRing s)))) env.liningBad)
  if env.manufacturingBad then (stopBoot s 3, [])
  else if 8 ≤ s.boot.prev.incomplete then (stopBoot s 3, [])
  else
    let r := if s.boot.cur.cause = 3 then failedStart s else (s, [], false)
    if r.2.2 then (stopBoot r.1 3, [])
    else
      let t := finishStep (if r.1.boot.fwAlt && !s.boot.fwAlt then takeOtherCopy env r.1 else r.1) 3 {}
      ({ t with pins := { t.pins with faultN := true } }, r.2.1)

/-! ### Steps 6, 8 and 9 -/

/-- A bond found failing at step 6 (R14, R15): a remap is logged as corrected; a set lost leaves the port at half width;
the last one fences the unit. -/
def bootBond (homes : Bool) (s : State) (b : Bond) : State :=
  let ut := if b.bonded then 4 else 3
  let id := b.unit.val
  let g := b.group.val
  if unitCount ut ≤ id ∨ groupsOf ut ≤ g ∨ !s.inService ut id then s
  else
    let reason := if ut = 3 then 2 else 3
    let fence := fun s => match unitOf ut id with
      | some u => fenceBoot s homes 1 u
      | none => s
    let r := failBond s ut id g b.lane
      (fun s => if s.unitState ut id = 0 then floorChange s ut id 1 reason g (setOf ut g == 0) else fence s) fence
    if r.1 then correction r.2 1 ut id 0 g else r.2

/-- The unit of a bond. -/
def bondUnit (b : Bond) : Option UnitRef := unitOf (if b.bonded then 4 else 3) b.unit

/-- Step 6: every remap is rebuilt from its own tests (R301). -/
def stepSix (env : BootEnv) (more : List (Nat × UnitRef)) (sel : UnitRef → Bool) (s : State) : State :=
  let s := { s with slices := s.slices.map fun e => (e.1, { e.2 with spared := [] })
                    bcs := s.bcs.map fun e => (e.1, { e.2 with spared := [] })
                    flp := { s.flp with cur := { s.flp.cur with seamSpared := 0, dramSpared := 0 } } }
  let s := (env.bonds.filter fun b => (bondUnit b).any sel).foldl (bootBond s.boot.warm) s
  failUnits env more 6 s.boot.warm 1 sel s

/-! ### Step 7 (R301, R306, Table 14-7) -/

/-- Spares of a structure of a core, by its kind: quarters of the register file, local-memory rows, table rows,
local-memory columns. -/
def coreSpares (kind : Nat) : Nat := if kind < 4 then 16 else if kind = 4 then 64 else if kind = 5 then 4 else 8

/-- Kind of a structure of a core. -/
def structKind : Struct → Option Nat
  | .regRow q => some q
  | .lmRow => some 4
  | .tableRow => some 5
  | .lmCol => some 6
  | _ => none

/-- A core takes `n` spares of a kind into use; with too few the core is fenced. -/
def takeCoreSpares (homes : Bool) (s : State) (c : Fin 272) (kind n : Nat) : State :=
  let used := tget 0 (s.core c).spares kind + n
  if used ≤ coreSpares kind then s.updCore c fun co => { co with spares := tput 0 co.spares kind used }
  else fenceBoot s homes 1 (.core c)

/-- Rows or columns that step 7 finds failing are remapped; with too few spares the unit is fenced. -/
def takeSpares (homes : Bool) (s : State) (f : UnitRef × Struct × Nat) : State :=
  match f.1, f.2.1 with
  | .slice k, .sramRow =>
    if (s.slice k).rowsUsed + f.2.2 ≤ 256 then s.updSlice k fun sl => { sl with rowsUsed := sl.rowsUsed + f.2.2 }
    else fenceBoot s homes 1 f.1
  | .slice k, .sramCol =>
    if (s.slice k).colsUsed + f.2.2 ≤ 32 then s.updSlice k fun sl => { sl with colsUsed := sl.colsUsed + f.2.2 }
    else fenceBoot s homes 1 f.1
  | .core c, st =>
    match structKind st with
    | some kind => takeCoreSpares homes s c kind f.2.2
    | none => s
  | _, _ => s

/-- Step 7: nothing remapped earlier is reused (R301); rows that the Lining records are repaired first (R306). -/
def stepSevenBoot (env : BootEnv) (more : List (Nat × UnitRef)) (sel : UnitRef → Bool) (s : State) : State :=
  let homes := s.boot.warm
  let s : State := { s with
    slices := s.slices.map fun e => (e.1, { e.2 with rowsUsed := 0, colsUsed := 0, rowCorr := [], rowsDue := [] })
    cores := s.cores.map fun e => (e.1, { e.2 with spares := [], rowCorr := [] }) }
  let mine : Nat × Nat × Nat → Bool := fun c => (unitOf 2 c.1).all sel
  let due := s.rst.corrections.filter mine
  let s := { s with rst := { s.rst with corrections := s.rst.corrections.filter fun c => !mine c } }
  let s := due.foldl (fun s c => if h : c.1 < 272 then takeCoreSpares homes s ⟨c.1, h⟩ c.2.1 1 else s) s
  let s := (env.structs.filter fun f => sel f.1).foldl (takeSpares homes) s
  failUnits env more 7 homes 1 sel s

/-! ### Steps 8 and 9 -/

/-- Channels on an alternative of the boot: those of a mask in service. -/
def altChannels (s : State) (ut mask : Nat) : List Nat :=
  (List.range 16).filter fun c => bit mask c && s.inService ut c

/-- Step 8: training; channels on their alternative use set A only. -/
def stepEight (env : BootEnv) (more : List (Nat × UnitRef)) (sel : UnitRef → Bool) (s : State) : State :=
  let s := ((altChannels s 4 s.boot.bcHalf).filter fun c => (unitOf 4 c).any sel).foldl (fun s c =>
    if s.unitState 4 c = 0 then floorChange (dropSet s 4 c 1) 4 c 1 1 0 else s) s
  failUnits env more 8 s.boot.warm 1 sel s

/-- The end of step 8. -/
def endEight (n : Nat) (s : State) : State :=
  finishStep s 8 (if (altChannels s 4 s.boot.bcHalf).isEmpty then fencedEnd n s
    else { fencedEnd n s with outcome := 4, alt := 2 })

/-- The home tables of a cold boot (R218). -/
def buildHomes (s : State) : State :=
  (List.range 2).foldl (fun s h =>
    let live := ((List.range 64).map (64 * h + ·)).filter fun n => s.inService 3 n
    if live.isEmpty then s
    else { s with homes := (List.range 256).foldl (fun t b => setHome t h b (live.getD (b % live.length) 0)) s.homes }) s

/-- New memory keys (R250). -/
def newKeys (s : State) : State :=
  let a := s.draw
  let b := a.2.draw
  let c := b.2.draw
  { c.2 with keys := { k1 := a.1, k2 := b.1, km := c.1 } }

/-- Step 9: training; channels on their alternative run at the reduced rate. -/
def stepNine (env : BootEnv) (more : List (Nat × UnitRef)) (sel : UnitRef → Bool) (s : State) : State :=
  let s := ((altChannels s 5 s.boot.lpSlow).filter fun c => (unitOf 5 c).any sel).foldl (fun s c =>
    if s.unitState 5 c = 0 then floorChange s 5 c 1 1 0 else s) s
  failUnits env more 9 s.boot.warm 1 sel s

/-- Every line of the counter store is written with zeros (R310): none of its words fails and none of its lines is lost
(R244). -/
def zeroCounters (s : State) : State :=
  { s with ctrs := [], bcs := s.bcs.map fun e => (e.1, { e.2 with
      bad := e.2.bad.filter fun w => !isCtrLine (w / 16), lost := e.2.lost.filter fun l => !isCtrLine l }) }

/-- The end of step 9: the random source's tests (R352), the keys, and every version counter at zero (R310). A cold boot
then builds the home tables, which a lost Lining makes it build again. -/
def endNine (env : BootEnv) (n : Nat) (s : State) : State :=
  if env.rngFails then stopBoot { s with sec := { s.sec with rngOk := false } } 9
  else
    let e := if (altChannels s 5 s.boot.lpSlow).isEmpty then fencedEnd n s
      else { fencedEnd n s with outcome := 4, alt := 3 }
    let s := newKeys (zeroCounters { s with sec := { s.sec with rngOk := true }, pages := [] })
    let s := if !s.boot.warm || env.liningBad then buildHomes { s with homes := [] } else s
    finishStep s 9 e

/-! ### Steps 10 to 13 -/

/-- Copy or re-hash one slot's shadow (R33, Table 14-2): the copy lies in bonded DRAM (R34), and the load error its
verification ends with is written to IMG_STATUS (R29). -/
def shadowSlot (s : State) (n : Nat) : State :=
  let x := s.fslot n
  let sh := s.shadow n
  let b := s.shadowBytes n
  let again := decide (s.boot.warm ∧ sh.made ∧ tget 0 s.rst.shadowWrites n = x.writes)
  let s := if again && x.state == 2 && !bit s.boot.slotSkip n then touchShadow s n else s
  if x.state ≠ 2 ∨ bit s.boot.slotSkip n then s.setShadow n {}
  else if again ∧ sha256 b = sh.digest then
    s.setShadow n { sh with verdict := 0, current := false }
  else
    let code := match loadImage (loadEnv s) x.bytes with
      | .ok _ => 0
      | .error c => c
    let s := (s.putShadow n x.bytes).setShadow n
      { size := x.bytes.length, digest := x.digest, loadError := code, writes := x.writes, made := true }
    let s := { s with rst := { s.rst with shadowWrites := tput 0 s.rst.shadowWrites n x.writes } }
    if code = 0 then s else recordLoad s n code

/-- The order of copying: the active slot first, then ascending (R291). -/
def copyOrder (s : State) : List Nat := s.img.active :: (List.range 8).filter (· != s.img.active)

/-- Step 10: the profile shadow. -/
def stepTen (s : State) : State := finishStep ((copyOrder s).foldl shadowSlot s) 10 {}

/-- A step 10 that never ends: the slots before the one being copied have their shadow. -/
def hungTen (env : BootEnv) (s : State) : State :=
  let slot := match env.hungSlot with
    | some n => n.val
    | none => s.img.active
  let s := ((copyOrder s).takeWhile (· != slot)).foldl shadowSlot s
  { s with boot := { s.boot with cur := { s.boot.cur with copying := some slot } } }

/-- Run step 10 in the background. -/
def runTen (env : BootEnv) (s : State) : State :=
  if !mayStep s 10 then s else if hangsAt env 10 then hungTen env (beginStep s 10) else stepTen (beginStep s 10)

/-- Lanes a link can use with some failed: ×8 on lanes 0–7, ×4 on lanes 0–3 (Table 14-5). -/
def lanesLeft (down : Nat) : Nat :=
  if down % 2 ^ 16 = 0 then 16 else if down % 2 ^ 8 = 0 then 8 else if down % 2 ^ 4 = 0 then 4 else 0

/-- Lanes the boot's link limit allows. -/
def limitLanes (l : Nat) : Nat := [16, 8, 4, 0].getD l 0

/-- The link trains at the width and rate its partner reaches, within the limits (R284). -/
def trainLink (s : State) (width rate : Nat) : State :=
  let w := min width (min (lanesLeft s.hlk.lanesDown) (limitLanes s.boot.linkLimit))
  if w = 0 then s
  else { s with hlk := { s.hlk with up := true, width := w, rate := rate, upCount := satInc 8 s.hlk.upCount
                                    ide := if s.sec.op.state = 0 then 0 else 1 } }

/-- Step 11. -/
def stepEleven (env : BootEnv) (s : State) : State :=
  let l := s.boot.linkLimit
  let s := { s with hlk := { s.hlk with ide := if s.sec.op.state = 0 then 0 else 1 } }
  if l = 3 then finishStep s 11 { outcome := 5 }
  else
    let s := match env.link with
      | some (w, r) => trainLink s w r
      | none => s
    finishStep s 11 (if l = 0 then {} else { outcome := 4, alt := l + 3 })

/-! ### Step 12: firmware distribution (R307) -/

/-- The type of a receiver's image (Table 14-6). -/
def imageType : Receiver → Nat
  | .core _ => 1
  | .palm _ => 2
  | .slice _ => 3
  | .bonded _ => 4
  | .lpddr _ => 5

/-- Chunks of a receiver's image in the running firmware copy. -/
def imageChunks (s : State) (r : Receiver) : Nat :=
  let b := (s.img.fw s.img.fwRunB).bytes
  match (List.range 5).find? fun i => rd b (0x20 + 16 * i) 1 == imageType r with
  | some i => cdiv (rd b (0x28 + 16 * i) 4) 4096
  | none => 0

/-- The unit of a receiver. -/
def receiverRef : Receiver → UnitRef
  | .core c => .core c
  | .palm n => .palm n
  | .slice n => .slice n
  | .bonded c => .bonded c
  | .lpddr c => .lpddr c

/-- A slice that fails step 13 loses its engine. -/
def engineOnly (u : UnitRef) : UnitRef :=
  match u with
  | .slice n => .palm n
  | u => u

/-- Step 13: every cluster in service is switched on (R326) for the known-answer tests. -/
def stepThirteen (env : BootEnv) (more : List (Nat × UnitRef)) (sel : UnitRef → Bool) (s : State) : State :=
  let s := (List.range 68).foldl requestOn s
  ((failsAt env more 13).filter fun u => sel u || more.contains (13, u)).foldl (fun s u => fenceBoot s true 1 (engineOnly u)) s

/-- Steps 13 and 14, up to the wait of step 14. -/
def lastSteps (env : BootEnv) (more : List (Nat × UnitRef)) (s : State) : State :=
  let s := runUnits env more 13 (stepThirteen env more) (endUnits 13) s
  if mayStep s 14 then beginStep s 14 else s

/-- The distribution ends: receivers still incomplete are fenced with reason 0x05, in the order of R23; the others have
their image installed. -/
def endFwd (s : State) (x : FwdRun) : State :=
  let rs := sortBy (fun r => changeKey (receiverUnit r).1 (receiverUnit r).2) (x.short.map (·.1))
  let s := rs.foldl (fun s r => fenceBoot s true 5 (receiverRef r)) s
  let s := { s with boot := { s.boot with fwdFenced := sat 8 (s.boot.fwdFenced + rs.length), fwd := none
                                          installed := receivers s } }
  endUnits 12 x.fencedAt (markEnded s 12 (s.boot.cur.progress ++ rs.map receiverRef))

/-- A round has been closed: it waits for the answers that are missing. -/
def closeRound (s : State) (x : FwdRun) : State :=
  let done := ((receivers s).filter fun r => !(x.short.any fun e => e.1 == r)).map receiverRef ++ failsAt x.env x.more 12
  markEnded { s with boot := { s.boot with fwdRounds := x.round, fwd := some { x with closeAt := s.now } } } 12 done

/-- Go on with a distribution whose round is answered, for at most `k` rounds, and with the boot once it has ended. -/
def fwdGo : Nat → State → FwdRun → State
  | 0, s, x => lastSteps x.env x.more (endFwd s x)
  | k + 1, s, x =>
    if x.short.isEmpty then lastSteps x.env x.more (endFwd s x)
    else
      let short := fwdRound x.env.fwd (imageChunks s) (x.round + 1) x.short
      let x := { x with round := x.round + 1, short := short
                        waiting := (short.map (·.1)).filter fun r => silentAt x.env.fwd r (x.round + 1) }
      if x.waiting.isEmpty then fwdGo k (closeRound s x) x else closeRound s x

/-- Step 12 begins: units that the failed start takes out, or that fail, are fenced, and the others are the receivers. -/
def beginTwelve (env : BootEnv) (more : List (Nat × UnitRef)) (s : State) : State :=
  let s := failUnits env more 12 true 5 (fun _ => true) s
  { s with boot := { s.boot with fwdReceivers := participants s } }

/-- Step 12: the broadcast and what follows it. -/
def stepTwelve (env : BootEnv) (more : List (Nat × UnitRef)) (s : State) : State :=
  let n := fencedCount s
  let s := beginTwelve env more s
  let short := fwdRound env.fwd (imageChunks s) 0 (fwdStart env.fwd (imageChunks s) (receivers s))
  let x : FwdRun := { env := env, more := more, fencedAt := n, round := 0, closeAt := s.now, short := short
                      waiting := (short.map (·.1)).filter fun r => silentAt env.fwd r 0 }
  if x.waiting.isEmpty then fwdGo 3 (closeRound s x) x else closeRound s x

/-- A step 12 that never ends: the units named have installed their image, and nothing more comes of it. -/
def hungTwelve (env : BootEnv) (more : List (Nat × UnitRef)) (us : List UnitRef) (s : State) : State :=
  let s := beginTwelve env more s
  let s := { s with boot := { s.boot with installed := (receivers s).filter fun r => us.contains (receiverRef r) } }
  markEnded s 12 (us ++ failsAt env more 12)

/-- Run step 12 and the steps after it. -/
def runTwelve (env : BootEnv) (more : List (Nat × UnitRef)) (s : State) : State :=
  if !mayStep s 12 then s
  else
    let s := beginStep s 12
    match env.hang with
    | some (h, us) => if h = 12 then hungTwelve env more us s else stepTwelve env more s
    | none => stepTwelve env more s

/-- The release of a cold reset latches the straps (R374), and the slot they name becomes the active one (R33). -/
def latchStraps (env : BootEnv) (s : State) : State :=
  if s.boot.warm then s else { s with img := { s.img with psel := env.psel, cmdEn := env.profCmdEn, active := env.psel } }

/-- Boot step 2 begins, and the management port lights (R379). -/
def lightPort (s : State) : State := if mayStep s 2 then { s with hlk := { s.hlk with mgmtLit := true } } else s

/-! ### The boot -/

/-- The record of the boot before is closed: a step a reset interrupted reads 0x6, and a watchdog reset before the end of
step 14 counts (Tables 14-3, 14-4). -/
def closeRecord (r : BootRec) (cause : Nat) : BootRec :=
  let done := decide (2 ≤ (bootStepAt r 14).outcome)
  if cause = 3 then { r with incomplete := if done then 0 else r.incomplete + 1 }
  else { r with incomplete := 0
                steps := r.steps.map fun e => if e.2.outcome = 1 then (e.1, { e.2 with outcome := 6 }) else e }

/-- A new boot record; a cold boot is number 0 and has no record before it. A staged firmware copy is staged no more. -/
def newRecord (s : State) (warm : Bool) (cause : Nat) : State :=
  let prev := if warm then closeRecord s.boot.cur cause else {}
  let cur : BootRec := { number := if warm then prev.number + 1 else 0, cause := cause, startStamp := s.now,
                         incomplete := if cause = 3 then prev.incomplete else 0 }
  { s with boot := { s.boot with cur := cur, prev := prev, warm := warm }
           img := { s.img with fwA := { s.img.fwA with staged := false }, fwB := { s.img.fwB with staged := false } } }

/-- Reset is released: the Crown runs the boot steps up to the wait of step 14 (R291). -/
def runBoot (s : State) (warm : Bool) (cause : Nat) (env : BootEnv) : State :=
  let s := latchStraps env (newRecord s warm cause)
  let s := runStep env 1 (fun s => finishStep s 1 {}) s
  let s := runStep env 2 (stepTwo env) (lightPort s)
  let r : State × List (Nat × UnitRef) :=
    if mayStep s 3 && !hangsAt env 3 then stepThree env (beginStep s 3) else (runStep env 3 id s, [])
  let more := r.2
  let s := runUnits env more 4 (failUnits env more 4 warm 1) (endUnits 4) r.1
  let s := runStep env 5 (fun s => finishStep s 5 {}) s
  let s := runUnits env more 6 (stepSix env more) (endUnits 6) s
  let s := runUnits env more 7 (stepSevenBoot env more) (endUnits 7) s
  let s := runUnits env more 8 (stepEight env more) endEight s
  let s := runUnits env more 9 (stepNine env more) (endNine env) s
  let s := runStep env 11 (stepEleven env) (runTen env s)
  runTwelve env more s

/-! ### Step 14 -/

/-- Step 14 can end: it runs, and step 10 has ended (R291). -/
def imageReady (s : State) : Bool :=
  !s.resetting && !s.boot.ready && !s.boot.terminal && (bootStepAt s.boot.cur 14).outcome == 1 &&
  (bootStepAt s.boot.cur 10).outcome != 1

/-- The image of the active slot's shadow, or the load error that stops it. -/
def bootImage (s : State) : Except Nat Image :=
  let sh := s.shadow s.img.active
  if sh.made then loadImage (loadEnv s) (s.shadowBytes s.img.active) else .error 0

/-- The Crown reads the active slot's shadow, if it has one. -/
def readActive (s : State) : State := if (s.shadow s.img.active).made then touchShadow s s.img.active else s

/-- A slot of a ring in bonded DRAM that was left accepted, running or partial ends failed with reason 0x07 (R311). -/
def endLeftSlot (s : State) (r : StreamRec) (i : Nat) : State :=
  let a := hdmAddr s (r.ringBase + 256 * i)
  match place a with
  | .bonded .. =>
    let b := devTake s r.cls a 256
    let s := b.2
    let st := rd b.1 0 8
    if 2 ≤ st % 16 ∧ st % 16 ≤ 4 then
      let commit := rd b.1 0x28 8
      let s := devWrite s r.cls (a + 0x30) (leBytes 8 s.now)
      devWrite s r.cls a (leBytes 8 (statusWord 8 7 (fld st 27 12) (s.now - commit)))
    else s
  | _ => s

/-- R311 over every ring of the image. -/
def endLeftSlots (s : State) (im : Image) : State :=
  im.streams.foldl (fun s r => (List.range r.ringSlots).foldl (fun s i => endLeftSlot s r i) s) s

/-- The two mode changes of an image load (18.5): the quiesce and the structure commit. -/
def loadCommits (s : State) (im : Image) (f : FitOk) : State :=
  let quiesced := notice (commitEpoch s .quiesce) 0x12 0 0xFF ((s.ep.epoch + 1) % 65536)
  let s := placeImage (commitEpoch quiesced .structure_) im f.bind
  let s := notice s 0x12 0 0xFF s.ep.epoch
  { s with ep := { s.ep with change := none } }

/-- The active slot is fitted and started; without an image the module goes on, its clusters gated (R33, R326). -/
def startBootImage (s : State) : State :=
  if s.boot.imageSkip then followBinding s
  else
    let slot := s.img.active
    let b := bootImage s
    let s := readActive s
    match b with
    | .error c => followBinding (if c = 0 then s else recordLoad s slot c)
    | .ok im =>
      match fit (fitInput s) im with
      | .error e =>
        followBinding (refuseFit (s.setShadow slot { s.shadow slot with verdict := 2, current := true }) slot im.digest e)
      | .ok f =>
        let s := s.setShadow slot { s.shadow slot with verdict := 1, current := true }
        let s := recordLoad (startImage (loadCommits s im f) slot im f) slot 0
        if s.boot.warm then endLeftSlots s im else s

/-- Step 14 ends: the module is ready, and the first pass of field self-test starts (R292, R302). -/
def becomeReady (s : State) : State :=
  let s := finishStep s 14 { outcome := if s.boot.imageSkip then 5 else 2 }
  { s with boot := { s.boot with step := 0xF, ready := true, ftsNext := 0, passAt := s.now
                                 cur := { s.boot.cur with incomplete := 0 } } }

/-- IMAGE_START: step 14 (R291, R292, R33). -/
def execImageStart (s : State) : Host.Outcome State Fault Refusal :=
  if imageReady s then .next (becomeReady (startBootImage s)) else .next s

/-- FWD_ANSWER_TIMEOUT: a receiver that has not answered a close of step 12 within 20 µs counts as having nothing (R307);
with the last answer missing, the boot goes on: resend rounds, then the steps after it. -/
def execFwdAnswerTimeout (r : Receiver) (s : State) : Host.Outcome State Fault Refusal :=
  match s.boot.fwd with
  | some x =>
    if s.resetting || !x.waiting.contains r || decide (s.now < x.closeAt + 20000) then .next s
    else
      let x := { x with waiting := x.waiting.filter (· != r) }
      if x.waiting.isEmpty then .next (fwdGo (3 - x.round) s x)
      else .next { s with boot := { s.boot with fwd := some x } }
  | none => .next s

end Sys2Proof.Machine
end

