-- ==== Sys2Proof/Machine/Kv.lean ====
section
/-! DEFINITION. The KV agent's commands (10.2 to 10.4): OPEN, APPEND, COMMIT, END and LENGTHS. -/

namespace Sys2Proof.Machine

/-- A KV command (Table 10-6). -/
structure KvCmd where
  op : Nat
  resv : Nat
  seq : Nat
  arg0 : Nat
  arg1 : Nat
deriving DecidableEq, Repr

/-- Read a command's fields. -/
def parseKv (b : List Byte) : KvCmd :=
  { op := rd b 0 1, resv := rd b 1 1, seq := rd b 2 2, arg0 := rd b 4 4, arg1 := rd b 8 8 }

/-- The result of a command that met no error until its operation was tried, and its effect. -/
abbrev KvEffect := Nat × State

/-- Arguments in range, LENGTHS' list apart (Tables 10-6 to 10-8). -/
def kvArgsOk (k : KvLayout) (ring : Nat) (c : KvCmd) : Bool :=
  c.resv == 0 && decide (c.arg1 < 2 ^ 40) &&
  match c.op with
  | 1 => decide (c.seq < k.seqMax) && decide (c.arg0 < ring) && decide (1 ≤ c.arg1) && decide (c.arg1 ≤ k.maxPositions)
  | 2 => decide (c.seq < k.seqMax) && decide (1 ≤ c.arg0) && decide (c.arg0 ≤ 65536) && c.arg1 == 0
  | 3 => decide (c.seq < k.seqMax) && c.arg1 == 0
  | 4 => decide (c.seq < k.seqMax) && c.arg0 == 0 && c.arg1 == 0
  | 5 => c.seq == 0 && decide (1 ≤ c.arg0) && decide (c.arg0 ≤ 256)
  | _ => false

/-- OPEN (R202): c = f = 0, pages reserved for the positions in every layer, or 0x05 with nothing reserved. -/
def kvDoOpen (s : State) (n : Nat) (k : KvLayout) (c : KvCmd) : KvEffect :=
  let v := s.kv n
  let x := v.seq c.seq
  let pools := List.range k.pools.length
  let need := fun p => pagesNeeded k c.arg1 p
  if x.state = 1 then (2, s)
  else if pools.any fun p => decide (v.unreserved (k.pools.getD p ⟨0, 0, 0, 0, 0, 0, 0⟩) p < need p) then (5, s)
  else
    let resv := (pools.map fun p => (p, need p)).filter fun e => e.2 != 0
    let v := { v with reserved := resv.foldl (fun t (e : Nat × Nat) => tupd 0 t e.1 (· + e.2)) v.reserved }
    let v := v.setSeq c.seq { state := 1, slot := c.arg0, reserve := c.arg1, resv := resv, stamp := s.now }
    (0, s.setKv n v)

/-- Allocate the pages of a list of page-table indices; none where one finds no free page. -/
def allocPages (k : KvLayout) (v : Kv) (x : Seq) : List (Nat × Nat × Nat × Nat) → Option (Kv × Seq × List Nat)
  | [] => some (v, x, [])
  | (idx, key, _, pool) :: ts =>
    let p := k.pools.getD pool ⟨0, 0, 0, 0, 0, 0, 0⟩
    match placePage v p pool key with
    | none => none
    | some (col, i) =>
      let c := v.col pool col
      let v := v.setCol pool col { c with used := i :: c.used }
      let pg : KvPage := { held := true, tentative := true, pool := pool, column := col,
                           addr := p.base + col * p.columnBytes + i * p.pageBytes }
      (allocPages k v { x with pages := tput {} x.pages idx pg } ts).map fun r => (r.1, r.2.1, idx :: r.2.2)

/-- APPEND (R202, R207): pages the sequence still holds are reused before any is allocated. -/
def kvDoAppend (s : State) (n : Nat) (k : KvLayout) (c : KvCmd) : KvEffect :=
  let v := s.kv n
  let x := v.seq c.seq
  let f := x.f + c.arg0
  if x.state ≠ 1 then (2, s)
  else if x.reserve < f ∨ k.maxPositions < f then (3, s)
  else
    let need := (pagesBelow k f).filter fun t => !(tget {} x.pages t.1).held
    match allocPages k v x need with
    | none => (5, s)
    | some (v, x, idxs) =>
      let s := s.setKv n (v.setSeq c.seq { x with f := f })
      (0, idxs.foldl (fun s i => writePt s n c.seq i) s)

/-- Tentative bits after c has moved (R207): set for every page whose first position is at or above c. The
indices whose bit changed are answered too. -/
def retag (k : KvLayout) (x : Seq) : Seq × List Nat :=
  let firsts := pagesBelow k k.maxPositions
  firsts.foldl (fun (a : Seq × List Nat) t =>
    let pg := tget {} a.1.pages t.1
    let tent := decide (x.c ≤ t.2.2.1)
    if pg.held && pg.tentative != tent then
      ({ a.1 with pages := tput {} a.1.pages t.1 { pg with tentative := tent } }, a.2 ++ [t.1])
    else a) (x, [])

/-- COMMIT publishes items into the slot's status word (R205, R214). -/
def publish (s : State) (n slot m : Nat) : State :=
  if m = 0 then s
  else
    let s := updReq s n slot fun r => { r with items := sat 16 (r.items + m) }
    match findReq s n slot with
    | some r => writeStatus s n slot r.code 0 r.items r.commit
    | none => s

/-- COMMIT (R202, R207): c = c + keep, then f = c. -/
def kvDoCommit (s : State) (n : Nat) (k : KvLayout) (c : KvCmd) : KvEffect :=
  let v := s.kv n
  let x := v.seq c.seq
  let keep := c.arg0 % 65536
  let items := c.arg0 / 65536
  let maxItems := ((s.streamRec n).map (·.maxItems)).getD 0
  if x.state ≠ 1 then (2, s)
  else if x.f - x.c < keep ∨ maxItems < x.items + items then (4, s)
  else
    let y := { x with c := x.c + keep, f := x.c + keep, items := x.items + items, commits := (x.commits + 1) % 2 ^ 32,
                      discarded := (x.discarded + (x.f - (x.c + keep))) % 2 ^ 32 }
    let r := retag k y
    let s := s.setKv n (v.setSeq c.seq r.1)
    let s := r.2.foldl (fun s i => writePt s n c.seq i) s
    (0, publish s n x.slot items)

/-- END (R202): also of a lost sequence. -/
def kvDoEnd (s : State) (n : Nat) (c : KvCmd) : KvEffect :=
  if ((s.kv n).seq c.seq).state = 0 then (2, s) else (0, closeSeq s n c.seq)

/-- The sequences a LENGTHS list names; none where the list cannot be read. The agent reaches the ranges of Table 12-2
(R240). -/
def lengthsList (s : State) (n : Nat) (c : KvCmd) : Option (List Nat) × State :=
  let r := devRead s true (s.streamClass n) c.arg1 (2 * c.arg0)
  match r.1 with
  | .ok b => (some ((List.range c.arg0).map fun i => rd b (2 * i) 2), r.2)
  | .error _ => (none, r.2)

/-- LENGTHS (R210): the length table at the list address + 0x200. -/
def kvDoLengths (s : State) (n : Nat) (c : KvCmd) : KvEffect :=
  let r := lengthsList s n c
  match r.1 with
  | none => (1, r.2)
  | some qs =>
    let v := s.kv n
    let seqs := qs.map v.seq
    if !decide qs.Nodup || seqs.any fun x => x.state != 1 then (1, r.2)
    else
      let qlen := fun (x : Seq) => x.f - x.c
      let maxKv := seqs.foldl (fun m x => max m x.f) 0
      let head := leBytes 2 c.arg0 ++ leBytes 2 0 ++ leBytes 4 ((seqs.map qlen).sum) ++ leBytes 4 maxKv ++ leBytes 4 0
      let rows := (List.range qs.length).flatMap fun i =>
        let x := seqs.getD i {}
        leBytes 2 (qs.getD i 0) ++ leBytes 2 0 ++ leBytes 4 (((seqs.take i).map qlen).sum) ++ leBytes 4 x.f ++ leBytes 4 (qlen x)
      (0, devWrite r.2 (s.streamClass n) (c.arg1 + 0x200) (head ++ rows))

/-- One command's result and effect, the checks in the order of R203. -/
def kvRun (s : State) (n : Nat) (k : KvLayout) (c : KvCmd) : KvEffect :=
  let ring := ((s.streamRec n).map (·.ringSlots)).getD 0
  if !kvArgsOk k ring c then (1, s)
  else if c.op ≠ 5 ∧ c.op ≠ 4 ∧ ((s.kv n).seq c.seq).state = 2 then (6, s)
  else match c.op with
    | 1 => kvDoOpen s n k c
    | 2 => kvDoAppend s n k c
    | 3 => kvDoCommit s n k c
    | 4 => kvDoEnd s n c
    | _ => kvDoLengths s n c

/-- Write a command's result: KV_STATE, KV_ERR, and the sequence record or the header of the length table
(R203). -/
def kvResult (s : State) (n : Nat) (k : KvLayout) (c : KvCmd) (res : Nat) : State :=
  let v := { s.kv n with last := res }
  let v := if res = 0 ∨ res = 5 then v else v.fail res c.op
  if c.op = 5 then
    let s := s.setKv n v
    if res = 0 then s else devWrite s (s.streamClass n) (c.arg1 % 2 ^ 40 + 0x202) (leBytes 1 res)
  else if c.seq < k.seqMax then
    writeSeqRecord (s.setKv n (v.setSeq c.seq { v.seq c.seq with last := res })) n c.seq
  else s.setKv n v

/-- A store to KV_CMD is accepted: its access needs it no more (R141, R202). -/
def kvAccept (s : State) (src : Src) : State :=
  answer s { src := src, kind := .write [], addr := 0, len := 16, cls := 0 } (.ok [])

/-- A command's accesses can go: its limits and Cuffs let them (R258 kind 0x2, R314), and the host holds no line of a list
it reads in classes 1–7 (R270). -/
def kvMay (s : State) (n : Nat) (k : KvLayout) (c : KvCmd) : Bool × State :=
  let cls := s.streamClass n
  if c.op = 5 then
    let m := mayAccess s 2 cls c.arg1 0x1210 false
    if m.1 then snoopRead m.2 cls c.arg1 (2 * c.arg0) else m
  else mayAccess s 2 cls (k.seqBase + 64 * c.seq) 64 true

/-- The command at the head of a stream's queue takes effect where its op is `op`, or is reserved (R203,
R204). A group that meets result 0x06 has its request ended failed (R208). -/
def kvTake (s : State) (n op : Nat) : State :=
  match (s.kv n).queue, s.kvLayout n with
  | (src, req, b) :: rest, some k =>
    let c := parseKv b
    if c.op = op ∨ c.op = 0 ∨ 5 < c.op then
      let go := kvMay s n k c
      if !go.1 then go.2
      else
        let s := go.2.setKv n { go.2.kv n with queue := rest }
        let r := kvRun s n k c
        let s := kvAccept (kvResult r.2 n k c r.1) src
        match r.1, req with
        | 6, some (m, slot, commit) => if (findReq s m slot).any fun q => q.commit == commit then endLost s m slot else s
        | _, _ => s
    else s
  | _, _ => s

/-- KV_OPEN. -/
def execKvOpen (n : Fin 64) (s : State) : Host.Outcome State Fault Refusal := .next (kvTake s n 1)
/-- KV_APPEND. -/
def execKvAppend (n : Fin 64) (s : State) : Host.Outcome State Fault Refusal := .next (kvTake s n 2)
/-- KV_COMMIT. -/
def execKvCommit (n : Fin 64) (s : State) : Host.Outcome State Fault Refusal := .next (kvTake s n 3)
/-- KV_END. -/
def execKvEnd (n : Fin 64) (s : State) : Host.Outcome State Fault Refusal := .next (kvTake s n 4)
/-- KV_LENGTHS. -/
def execKvLengths (n : Fin 64) (s : State) : Host.Outcome State Fault Refusal := .next (kvTake s n 5)

end Sys2Proof.Machine
end

