-- ==== Sys2Proof/Machine/Warm.lean ====
section
/-! DEFINITION. Warm and cold resets of the module: their sources (15.1), the sequence of Table 15-2, what survives (R309,
15.6), the pins of R373, the watchdogs, and power-on. -/

namespace Sys2Proof.Machine

/-! ### What a warm reset leaves (R309, and the registers kept through warm reset) -/

/-- A core. -/
def keepCore (c : Core) : Core :=
  { codeBase := c.codeBase, descSets := c.descSets, trapSets := c.trapSets,
    sfu := { corrected := c.sfu.corrected, refetched := c.sfu.refetched } }

/-- A Palm engine. -/
def keepEngine (e : Engine) : Engine :=
  { errSets := e.errSets, refetches := e.refetches, replays := e.replays }

/-- A slice. -/
def keepSlice (x : Slice) : Slice :=
  { hits := x.hits, misses := x.misses, merges := x.merges, mcasts := x.mcasts, deadSets := x.deadSets,
    corrected := x.corrected, refetched := x.refetched, poisonSets := x.poisonSets }

/-- A memory controller. The dies keep their failed words. -/
def keepCtlr (m : Ctlr) : Ctlr :=
  { bad := m.bad, corrected := m.corrected, aux := m.aux, errSets := m.errSets, served := m.served }

/-- A table with every entry changed. -/
def tmap {α : Type} [DecidableEq α] (d : α) (t : Tab α) (f : α → α) : Tab α := (t.map (·.1)).foldl (fun u k => tupd d u k f) t

/-- Images and profiles: flash, shadows without verdicts, and the bundles resident in bonded DRAM (R40). -/
def keepImg (i : Img) : Img :=
  { loadSets := i.loadSets, loadFailed := i.loadFailed, active := i.active, psel := i.psel, cmdEn := i.cmdEn, slots := i.slots, fwA := i.fwA, fwB := i.fwB,
    fwRunB := i.fwRunB, shadows := i.shadows.map fun e => (e.1, { e.2 with current := false })
    resident := i.resident.filter fun r => match place r.2.1 with
      | .bonded .. => true
      | _ => false }

/-- The Fitting: its counts and the refusal record. -/
def keepFit (f : Fit) : Fit :=
  { refusedSets := f.refusedSets, shedSets := f.shedSets, voidSets := f.voidSets, refused := f.refused, refusal := f.refusal,
    hiLatch := f.hiLatch }

/-- The host link: the lanes that failed, the management port, which stays lit (R379). -/
def keepHlk (h : Hlk) : Hlk :=
  { upCount := h.upCount, evtSets := h.evtSets, lanesDown := h.lanesDown, mgmtUp := h.mgmtUp,
    mgmtLit := h.mgmtLit }

/-- Security: what lies in flash, and the counts. Every session has ended (R350). -/
def keepSec (c : Sec) : Sec :=
  { op := c.op, opA := c.opA, opAValid := c.opAValid, opB := c.opB, opBValid := c.opBValid, journalA := c.journalA,
    journalB := c.journalB, journalOnB := c.journalOnB, codeT := c.codeT, hotPolicy := c.hotPolicy, mgmtPort := c.mgmtPort,
    mac := c.mac, ipv4 := c.ipv4, ipv6 := c.ipv6, authSets := c.authSets, nextSession := c.nextSession }

/-- The event log; a lockstep event is still to be written (R360). -/
def keepEvt (e : Evt) : Evt :=
  { e with bits := e.bits - e.bits % 8, opened := [], fatalAt := if e.lockstep then e.fatalAt else none }

/-- The boot record and what R297 put in force. -/
def keepBoot (b : Boot) : Boot :=
  { cur := b.cur, prev := b.prev, slotSkip := b.slotSkip, imageSkip := b.imageSkip, fwAlt := b.fwAlt, linkLimit := b.linkLimit,
    bcHalf := b.bcHalf, lpSlow := b.lpSlow, fwdFenced := b.fwdFenced, warm := true }

/-- Reset is asserted at step 4 of Table 15-2 in everything but what R309 names. -/
def warmClear (s : State) : State :=
  { now := s.now, flp := { s.flp with deferred := [] }, homes := s.homes, mem := s.mem, ctrs := s.ctrs
    cores := tmap {} s.cores keepCore, engines := tmap {} s.engines keepEngine, slices := tmap {} s.slices keepSlice
    bcs := tmap {} s.bcs keepCtlr, lps := tmap {} s.lps keepCtlr
    reg := { overSets := s.reg.overSets }
    img := keepImg s.img, fit := keepFit s.fit
    kvs := tmap {} s.kvs fun v => { errSets := v.errSets }
    hlk := keepHlk s.hlk, sec := keepSec s.sec
    vis := { stores := s.vis.stores, closed := s.vis.closed || s.vis.until_.isSome }
    evt := keepEvt s.evt, boot := keepBoot s.boot
    rst := { s.rst with partials := [], phase := .none, warmCount := satInc 8 s.rst.warmCount, lastCause := s.rst.cause }
    pwr := { s.pwr with capSince := none, regions := tmap {} s.pwr.regions fun r =>
      { trim := r.trim, phasesOk := r.phasesOk } }
    thm := { s.thm with level := [], sampled := false }
    pins := s.pins, out := s.out, freeCtr := s.freeCtr, rngDraws := s.rngDraws, pending := s.pending }

/-! ### The warm reset sequence (Table 15-2) -/

/-- Step 1: the cause is latched, every partial reset ends where it stands (R313), intake and the command-page poll stop. -/
def latchReset (s : State) (cause : Nat) (phase : ResetPhase) : State :=
  { s with rst := { s.rst with cause := cause, since := s.now, partials := [], phase := phase, crownAt := crownTick s } }

/-- The writes at a bonded controller, or held for it at its slices, take effect. -/
def drainBonded (s : State) (c : Nat) : State :=
  let q := (s.bc c).q ++ (s.bc c).held
  (q.filter fun r => r.write.isSome).foldl (fun s r => bondedStore s c r.line (r.write.getD []))
    (s.updMc false c fun m => { m with q := [], held := [] })

/-- A line backed by bonded DRAM. -/
def bondedBacked (l : Line) : Bool := !(channelOf (256 * l.no)).1

/-- Step 2: the Cuffs drain, and slices write back dirty lines homed in bonded DRAM. -/
def drainAll (s : State) : State :=
  let ns := (s.slices.map (·.1)).filter fun n => s.inService 3 n
  let s := ns.foldl (fun s n => drainSlice s n) s
  let s := ns.foldl (fun s n => writeDirty s n bondedBacked) s
  (s.bcs.map (·.1)).foldl drainBonded s

/-- The Crown finishes the floor plan changes it had put off or begun (R39, Table 11-3). -/
def settleChanges (s : State) : State :=
  let s := applyDeferred { s with img := { s.img with switch := none } }
  (s.slices.map (·.1)).foldl (fun s n =>
    match (s.slice n).fencing with
    | some (reason, detail) => fenceSlice s n reason detail
    | none => s) s

/-- Step 3: the Crown writes backup registers 0 to 3 (Table 15-8); floor plan record and event tail stand in the Lining
as they are. -/
def crownSave (s : State) : State :=
  let r := s.rst
  let put := fun (t : Tab DWord) (i v : Nat) => tput 0 t i (BitVec.ofNat 64 v)
  let b0 := s.img.active + 2 ^ 8 * r.cause + 2 ^ 12 * b2n s.sec.hotPolicy
  let b1 := s.boot.cur.number % 2 ^ 16 + 2 ^ 16 * (r.since % 2 ^ 48)
  { s with rst := { r with backup := put (put (put (put r.backup 0 b0) 1 b1) 2 (bootAlt s.boot)) 3 s.flp.cur.generation } }

/-- Steps 4 and 5: reset is held while RESET_N is low (R373), and then boot step 1 begins. -/
def assertReset (s : State) (env : BootEnv) : State :=
  let cause := s.rst.cause
  let t := warmClear s
  if s.rst.pinLow then { t with rst := { t.rst with phase := .held } } else runBoot t true cause env

/-- Step 4 waits for the end of a flash pulse (R312). -/
def enterFour (s : State) (env : BootEnv) : State :=
  if s.img.pulse then { s with rst := { s.rst with phase := .pulseWait } } else assertReset s env

/-- The module is up, so a reset can be requested; one already pending is joined (R313). -/
def canReset (s : State) : Bool := s.pins.pwrGood && !s.pwr.off && !s.resetting

/-- A warm reset that the Crown answers. -/
def warmReset (s : State) (cause : Nat) (env : BootEnv) : State :=
  if canReset s then enterFour (crownSave (settleChanges (drainAll (endVisor (latchReset s cause .pulseWait))))) env else s

/-- A warm reset with no Crown to answer: step 3 is awaited until 1 ms. -/
def crownlessReset (s : State) (cause : Nat) : State :=
  if canReset s then drainAll (latchReset s cause .crownWait) else s

/-! ### Sources -/

/-- MODULE_RESET: complete is written before step 1 (Table 15-4). -/
def execModuleReset (entry : Fin 32) (env : BootEnv) (s : State) : Host.Outcome State Fault Refusal :=
  match newJob s entry 0x0F02 with
  | none => .next s
  | some j =>
    if j.malformed 0 then .next (refuseCmd s j 1)
    else .next (warmReset (endCmd (startCmd s j) j.entry true 0) 4 env)

/-- FATAL_RESET_TIMER: 10 ms after step 1 of R360. -/
def execFatalResetTimer (env : BootEnv) (s : State) : Host.Outcome State Fault Refusal :=
  match s.evt.fatalAt with
  | some t => if t + 10000000 ≤ s.now ∧ !s.evt.lockstep then .next (warmReset s 4 env) else .next s
  | none => .next s

/-- CROWN_LOCKSTEP_MISMATCH: the reset controller drives FAULT_N low, sets lockstep and resets with cause 0x03 (R360). -/
def execCrownLockstepMismatch (s : State) : Host.Outcome State Fault Refusal :=
  if canReset s then
    let s := { s with pins := { s.pins with faultN := false }
                      evt := { s.evt with lockstep := true, fatalSource := 0x11, fatalCode := 0, fatalAt := some s.now } }
    .next (crownlessReset s 3)
  else .next s

/-- CROWN_WATCHDOG_EXPIRY: a Crown firmware hang in service (R309, Table 15-1). -/
def execCrownWatchdogExpiry (s : State) : Host.Outcome State Fault Refusal :=
  if s.boot.ready then .next (crownlessReset s 3) else .next s

/-- WARM_RESET_CROWN_TIMEOUT: 1 ms without the Crown's answer, the reset goes on to step 4. -/
def execWarmResetCrownTimeout (env : BootEnv) (s : State) : Host.Outcome State Fault Refusal :=
  if s.rst.phase = .crownWait ∧ !s.pwr.off ∧ s.rst.since + 1000000 ≤ s.now then .next (enterFour s env) else .next s

/-- FLASH_PULSE_END (R312): the reset that waits for it goes on; one that still waits for the Crown no longer has to. A
module without power does neither (R339). -/
def execFlashPulseEnd (env : BootEnv) (s : State) : Host.Outcome State Fault Refusal :=
  if s.pwr.off then .next s
  else match s.rst.phase with
    | .pulseWait => .next (assertReset s env)
    | .crownWait => .next { s with img := { s.img with pulse := false } }
    | _ => .next s

/-- The boot step whose limit runs: the first that has started and not ended. -/
def runningStep (r : BootRec) : Option Nat := ((List.range 14).map (· + 1)).find? fun k => (bootStepAt r k).outcome == 1

/-- When a step's watchdog began to count: its start, and for step 14 the end of step 10 if later (Table 14-5). -/
def armedAt (r : BootRec) (k : Nat) : Nat :=
  if k = 14 then max (bootStepAt r 14).start (bootStepAt r 10).stop else (bootStepAt r k).start

/-- BOOT_WATCHDOG_EXPIRY: the limit of the running step has passed (R295); the reset does without the Crown. -/
def execBootWatchdogExpiry (env : BootEnv) (s : State) : Host.Outcome State Fault Refusal :=
  match runningStep s.boot.cur with
  | some k =>
    if s.boot.ready || s.boot.terminal || !canReset s || decide (s.now < armedAt s.boot.cur k + stepLimit k) then .next s
    else
      let s := { s with boot := { s.boot with cur := { s.boot.cur with wdStep := k } } }
      .next (enterFour (drainAll (latchReset s 3 .pulseWait)) env)
  | none => .next s

/-! ### RESET_N (R373) -/

/-- A low of `ns` is taken: always from 1 µs, never below 200 ns, as the pin decides between. -/
def lowTaken (ns : Nat) (taken : Bool) : Bool := decide (1000 ≤ ns) || (decide (200 ≤ ns) && taken)

/-- RESET_N_ASSERT. -/
def execResetNAssert (ns : Nat) (taken : Bool) (env : BootEnv) (s : State) : Host.Outcome State Fault Refusal :=
  if lowTaken ns taken then .next (warmReset { s with rst := { s.rst with pinLow := true } } 2 env) else .next s

/-- RESET_N_RELEASE: a held reset goes on; a cold one is released now (R373). -/
def execResetNRelease (env : BootEnv) (s : State) : Host.Outcome State Fault Refusal :=
  let s := { s with rst := { s.rst with pinLow := false } }
  if s.rst.phase = .held ∧ s.pins.pwrGood ∧ !s.pwr.off then
    let t := { s with rst := { s.rst with phase := .none } }
    .next (runBoot t (decide (s.rst.cause ≠ 1)) s.rst.cause env)
  else .next s

/-! ### Power-on (R325, Table 16-2) -/

/-- What outlives a loss of power: flash with its directory, the provisioning area, what the outside holds (log 5). -/
def coldState (s : State) : State :=
  { img := { slots := s.img.slots, fwA := s.img.fwA, fwB := s.img.fwB }
    sec := { op := s.sec.op, opA := s.sec.opA, opAValid := s.sec.opAValid, opB := s.sec.opB, opBValid := s.sec.opBValid,
             journalA := s.sec.journalA, journalB := s.sec.journalB, journalOnB := s.sec.journalOnB }
    flp := { cur := { s.flp.delivered with generation := 0 }, delivered := s.flp.delivered }
    rst := { pinLow := s.rst.pinLow, cause := 1 }
    pins := { pwrGood := true }
    out := s.out, freeCtr := s.freeCtr, rngDraws := s.rngDraws, pending := s.pending }

/-- The input's return powers the module up: it is not up, and after a trip the input has gone (R325, R339). -/
def canPowerUp (s : State) : Bool := if s.pwr.off then s.pwr.inputGone else !s.pins.pwrGood

/-- POWER_ON_RESET: the rails come up and cold reset is released; RESET_N low delays the release (R373). -/
def execPowerOnReset (env : BootEnv) (s : State) : Host.Outcome State Fault Refusal :=
  if !canPowerUp s then .next s
  else
    let t := coldState s
    if t.rst.pinLow then .next { t with rst := { t.rst with phase := .held } } else .next (runBoot t false 1 env)

end Sys2Proof.Machine
end

