-- ==== Sys2Proof/Machine/Link.lean ====
section
/-! DEFINITION. What the host does over the link (13.1 to 13.6): CXL.mem accesses through the HDM firewall and the
write path of the rings, BAR and configuration writes under R264, back-invalidation answers, link loss and training,
hot reset, and IDE. -/

namespace Sys2Proof.Machine

/-! ### Back-invalidations (R270, R271) -/

/-- The oldest back-invalidation outstanding for a line, and those left without it. -/
def takeSnp (s : State) (l : Nat) : Option ((Bool × Nat × Nat) × State) :=
  (takeFirst (fun b => b.2.1 == l) s.hlk.biOut).map fun r =>
    let dir := if r.1.1 then s.hlk.dir.filter (· != l) else s.hlk.dir
    (r.1, { s with hlk := { s.hlk with biOut := r.2, dir := dir } })

/-- The HDM offset of a device line; none outside every window. -/
def hdmOf (s : State) (a : Nat) : Option Nat :=
  ((deviceWindows s).find? fun w => decide (w.devBase ≤ a) && decide (a < w.devBase + w.size)).map
    fun w => w.hdmOffset + (a - w.devBase)

/-- A line's back-invalidation is answered: what waited for it at the home slice goes on (R270, R283), and so do polls. -/
def snpAnswered (s : State) (line : Nat) : State :=
  resumePolls (match resolve s true (64 * line) with
    | .ok h => release s h.slice
    | .error _ => s)

/-- BI_RESPONSE: the line is no longer listed, and data that comes with the answer is a host write of it, discarded while
the module takes none (R286). What waited for the line goes on after that write; an answer whose write a Cuff or a limit holds
waits at the host link with them (R283, R314; log 78). -/
def execBiResponse (line : Nat) (data : Option (List Byte)) (s : State) : Host.Outcome State Fault Refusal :=
  match takeSnp s line with
  | none => .next s
  | some r =>
    match data, hdmOf r.2 (64 * line) with
    | some d, some off =>
      let a := HostAcc.write off (slice d 0 64)
      let m := hostMay s a
      if !m.1 then .next m.2
      else .next (snpAnswered (if s.hlk.up then hostServe r.2 a else r.2) line)
    | _, _ => .next (snpAnswered r.2 line)

/-- BI_TIMEOUT: 4000 ticks without an answer (R271). -/
def execBiTimeout (line : Nat) (s : State) : Host.Outcome State Fault Refusal :=
  match takeSnp s line with
  | none => .next s
  | some r =>
    if r.1.2.2 + 4000 ≤ s.now then
      let t := r.2
      .next (snpAnswered (hlkEvent { t with hlk := { t.hlk with biTimeouts := satInc 12 t.hlk.biTimeouts } } 5) line)
    else .next s

/-! ### BAR and configuration writes (R263, R264, R281) -/

/-- A BAR2 write that is no write of W1C fields and none of a Visor register is ignored and counted. -/
def regWrite (s : State) (off v : Nat) : State :=
  match w1cWrite s off v with
  | some t => t
  | none =>
    if 0x800000 ≤ off ∧ off < 0x900000 then (visorWrite s (off - 0x800000) v).getD (dropCtl s) else dropCtl s

/-- REGISTER_WRITE (R263). -/
def execRegisterWrite (offset : BitVec 28) (value : Word) (s : State) : Host.Outcome State Fault Refusal :=
  .next (barWrite s fun s => regWrite s offset.toNat value.toNat)

/-- W1C_CLEAR_WRITE: a bit that is set in the same cycle stays set (R366). -/
def execW1cClearWrite (offset : BitVec 28) (value sets : Word) (s : State) : Host.Outcome State Fault Refusal :=
  .next (barWrite s fun s => regWrite s offset.toNat (value &&& ~~~sets).toNat)

/-- FIT_COUNT_LO_READ: the low half of the intake counter, and the high half latched (R43); a BAR access the module does
not serve yet completes as unsupported request (R286, R308). -/
def execFitCountLoRead (s : State) : Host.Outcome State Fault Refusal :=
  if !s.hlk.up then .next s
  else if !hostOpen s then .next (s.emit .unsupported)
  else .next ((latchCount s).emit (.regData [BitVec.ofNat 32 s.now]))

/-- The status word of a command entry (Table 13-8). -/
def entryWord (e : CmdEntry) : Nat := e.state + 2 ^ 8 * e.status + 2 ^ 32 * e.progress

/-- Table 13-6 for a command entry (R281). One that the Crown has taken is posted no longer. -/
def entryTaken (e : CmdEntry) (left : Nat) : Bool :=
  left == entryWord e || (e.state == 0 && left == 1) ||
  (((e.state == 1 && !e.taken) || (decide (3 ≤ e.state) && decide (e.state ≤ 5))) && left == 0)

/-- A host write to a command entry, judged part by part against the status held before it (R281). -/
def entryWrite (s : State) (entry off : Nat) (bs : List Byte) : State :=
  let e := s.entry entry
  let put := fun (old : List Byte) (at_ : Nat) => old.zipIdx.map fun b =>
    if off ≤ at_ + b.2 ∧ at_ + b.2 < off + bs.length then bs.getD (at_ + b.2 - off) 0 else b.1
  let left := leNat (put (leBytes 8 (entryWord e)) 0)
  let onStatus := decide (off < 8)
  let onBody := decide (8 < off + bs.length)
  let okBody := e.state == 0
  let t := if onBody && okBody then { e with body := put (slice e.body 0 248) 8 } else e
  let t := if onStatus && entryTaken e left && left != entryWord e then { t with state := left, status := 0, progress := 0 } else t
  let s := s.setEntry entry t
  if (onStatus && !entryTaken e left) || (onBody && !okBody) then
    hlkEvent { s with hlk := { s.hlk with dropSlot := satInc 16 s.hlk.dropSlot } } 2
  else s

/-- HOST_COMMAND_ENTRY_WRITE. -/
def execHostCommandEntryWrite (entry : Fin 16) (offset : Fin 256) (bytes : List Byte) (s : State) :
    Host.Outcome State Fault Refusal :=
  .next (barWrite s fun s => entryWrite s entry offset bytes)

/-- Bits of a word of configuration space that a write changes: none of the identification words, and of a BAR those above
its size (Table 13-2); the places of the header's words are the PCI header's (PRESUMED; log 79). -/
def cfgWritable (o : Nat) : Word :=
  match o with
  | 0 => 0
  | 8 => 0
  | 0x10 => 0xFFFE0000
  | 0x18 => 0xF0000000
  | _ => 0xFFFFFFFF

/-- What a word of configuration space holds that no write changes: Device and Vendor ID, class code 0x12_0000 with
Revision ID 0xB0, and in BAR0 and BAR2 their type, 64-bit and non-prefetchable (13.1). -/
def cfgFixed (o : Nat) : Word :=
  match o with
  | 0 => 0x07600000 ||| Config.vendorId.setWidth 32
  | 8 => 0x120000B0
  | 0x10 => 4
  | 0x18 => 4
  | _ => 0

/-- A word of configuration space (13.1). -/
def cfgReg (s : State) (o : Nat) : Word := cfgFixed o ||| (tget 0 s.hlk.cfg o &&& cfgWritable o)

/-- CONFIG_WRITE: configuration retry before the module is ready (R308); beyond 64 in 100,000 ticks discarded. -/
def execConfigWrite (offset : BitVec 12) (value : Word) (s : State) : Host.Outcome State Fault Refusal :=
  let ts := recent s s.hlk.cfgTicks
  let o := offset.toNat / 4 * 4
  if !s.hlk.up then .next s
  else if !s.boot.ready then .next (s.emit .retry)
  else if 64 ≤ ts.length then .next (hlkEvent (dropCtl s) 3)
  else
    .next { s with hlk := { s.hlk with cfgTicks := ts ++ [s.now], cfg := tput 0 s.hlk.cfg o (value &&& cfgWritable o) } }

/-! ### Link loss, training and hot reset (R284, R285, R350, R351) -/

/-- Body copies in flight fail with reason 0x44, and test 5 finds its bodies unreachable (R277, R284). -/
def failHostReads (s : State) : State :=
  let s := s.streamIds.foldl (fun s n =>
    ((s.stream n).reqs.filter fun r => r.copying.isSome).foldl (fun s r => failCopy s n r) s) s
  abortGoesOn (s.streamIds.foldl (fun s n => if (s.stream n).test5.any fun t => t.ended.isNone then endTest5 s n false else s) s)

/-- What a link loss, a hot reset and FLR all end: the directory, outstanding back-invalidations (answered with no data), the
host's waiting accesses, host-memory bindings, DOE sessions and the programmed keys. -/
def hostLost (s : State) : State :=
  let s := { s with hlk := { s.hlk with dir := [], biOut := [], binds := [], keys := [], queue := [] }
                    sec := { s.sec with sessions := s.sec.sessions.filter fun x => x.port != Port.doe } }
  let s := failHostReads { s with hlk := { s.hlk with ide := ideState s } }
  resumePolls ((s.slices.map (·.1)).foldl release s)

/-- link_down and its event (Table 13-11). -/
def linkEvent (s : State) : State := logEvent (hlkEvent s 0) { cls := 0, source := 0xA, stream := 0xFF }

/-- The link goes down (R284). -/
def loseLink (s : State) : State :=
  linkEvent (hostLost { s with hlk := { s.hlk with up := false, width := 0, rate := 0 } })

/-- LINK_DOWN. -/
def execLinkDown (s : State) : Host.Outcome State Fault Refusal := if s.hlk.up then .next (loseLink s) else .next s

/-- The lasers are lit, so the link trains: step 11 of the boot has ended (R378). -/
def linkLit (s : State) : Bool :=
  s.pins.pwrGood && !s.pwr.off && !s.resetting && decide (2 ≤ (bootStepAt s.boot.cur 11).outcome)

/-- LINK_UP. -/
def execLinkUp (width rate : Nat) (s : State) : Host.Outcome State Fault Refusal :=
  if !s.hlk.up && linkLit s then .next (trainLink s width rate) else .next s

/-- Hot reset and FLR: configuration space with the BARs, the HDM decoder and the entries still posted go too (R285). -/
def hotState (s : State) : State :=
  let s := { s with hlk := { s.hlk with cfg := [], hdmBase := none } }
  let s := (List.range 16).foldl (fun s e =>
    if (s.entry e).state = 1 ∧ !(s.entry e).taken then writeEntry s e 0 0 else s) s
  linkEvent (hostLost s)

/-- HOT_RESET: under policy 1 a hot reset is also a warm reset of the module; FLR never is. -/
def execHotReset (kind : HotReset) (env : BootEnv) (s : State) : Host.Outcome State Fault Refusal :=
  if !s.hlk.up then .next s
  else
    let t := hotState s
    match kind with
    | .flr => .next t
    | .hot => if t.sec.hotPolicy then .next (warmReset t 5 env) else .next t

/-- OPTICAL_LANE_FAILURE: the link down-trains to the lanes left, or is lost (R262, R378). -/
def execOpticalLaneFailure (lane : Fin 16) (s : State) : Host.Outcome State Fault Refusal :=
  let s := { s with hlk := { s.hlk with lanesDown := setBit s.hlk.lanesDown lane } }
  let w := min s.hlk.width (lanesLeft s.hlk.lanesDown)
  if !s.hlk.up then .next s
  else if w = 0 then .next (loseLink s)
  else .next { s with hlk := { s.hlk with width := w } }

/-- MALFORMED_TLP_OR_FLIT: dropped, or answered as unsupported request; AER and a corrected event (Table 13-11). -/
def execMalformedTlpOrFlit (answered : Bool) (s : State) : Host.Outcome State Fault Refusal :=
  if !s.hlk.up then .next s
  else
    let s := if answered then s.emit .unsupported else s
    .next (correction (s.emit .aer) 0xA 0 0)

/-! ### IDE (R286, R351) -/

/-- An established session of a transport. -/
def sessionAt (s : State) (p : Port) (id : Nat) : Option Session :=
  s.sec.sessions.find? fun x => x.port == p && x.id == id && x.established

/-- Traffic on a session. -/
def touchSession (s : State) (p : Port) (id : Nat) : State :=
  { s with sec := { s.sec with sessions := s.sec.sessions.map fun x =>
      if x.port == p && x.id == id then { x with last := s.now } else x } }

/-- The info string of R351. -/
def ideInfo (x : IdeStream) : List Byte :=
  [0x43#8, 0x56#8, 0x49#8, 0x44#8, 0x45#8, x.stream, BitVec.ofNat 8 (b2n x.dir), BitVec.ofNat 8 (b2n x.keySet)]

/-- HLK_STATUS.ide follows the keys, but an integrity failure shows until the streams are keyed again. -/
def ideUpdate (s : State) : State :=
  if s.hlk.ide = 3 ∧ !ideKeyed s then s else { s with hlk := { s.hlk with ide := ideState s } }

/-- IDE_KEY_PROG: a non-zero key field programs nothing; a zero one programs the derived key. -/
def execIdeKeyProg (session : Nat) (ide : IdeStream) (key : List Byte) (s : State) : Host.Outcome State Fault Refusal :=
  match sessionAt s .doe session with
  | none => .next s
  | some x =>
    let s := touchSession s .doe session
    if !allZero key then .next (s.emit (.ideKm 1))
    else
      let k : IdeKey := { ide := ide, key := hkdfExpand (Config.exportSecret x.draw) (ideInfo ide) 32, active := false }
      let s := { s with hlk := { s.hlk with keys := (s.hlk.keys.filter fun y => y.ide != ide) ++ [k] } }
      .next ((ideUpdate s).emit (.ideKm 0))

/-- The other key set of the same stream and direction. -/
def otherSet (x y : IdeStream) : Bool := x == { y with keySet := !y.keySet }

/-- IDE_K_SET_GO: the key-set switch: the programmed keys are in force, those of the other set no longer. -/
def execIdeKSetGo (session : Nat) (ide : IdeStream) (s : State) : Host.Outcome State Fault Refusal :=
  match sessionAt s .doe session with
  | none => .next s
  | some _ =>
    let s := touchSession s .doe session
    if !s.hlk.keys.any fun k => k.ide == ide then .next (s.emit (.ideKm 1))
    else
      let s := { s with hlk := { s.hlk with keys := s.hlk.keys.map fun k =>
        if k.ide = ide then { k with active := true } else if otherSet k.ide ide then { k with active := false } else k } }
      .next ((ideUpdate s).emit (.ideKm 0))

/-- IDE_K_SET_STOP. -/
def execIdeKSetStop (session : Nat) (ide : IdeStream) (s : State) : Host.Outcome State Fault Refusal :=
  match sessionAt s .doe session with
  | none => .next s
  | some _ =>
    let s := touchSession s .doe session
    let s := { s with hlk := { s.hlk with keys := s.hlk.keys.filter fun y => y.ide != ide } }
    .next ((ideUpdate s).emit (.ideKm 0))

/-- IDE_INTEGRITY_FAILURE: the streams are to be keyed again (R286). -/
def execIdeIntegrityFailure (s : State) : Host.Outcome State Fault Refusal :=
  if s.hlk.keys.any (·.active) then
    let s := { s with hlk := { s.hlk with keys := [], ide := if s.sec.op.state = 0 then 0 else 3 } }
    .next (logEvent (hlkEvent s 4) { cls := 0, source := 0xA, stream := 0xFF })
  else .next s

end Sys2Proof.Machine
end

