-- ==== Sys2Proof/Machine/Mgmt.lean ====
section
/-! DEFINITION. The management port (13.7), SPDM on both transports with attestation and sessions (17.3, 17.4), and the
DOE mailbox's own protocols (Table 13-1). Message codes and block layouts of SPDM and DOE are those of their standards
(log 43). -/

namespace Sys2Proof.Machine

/-! ### The transports -/

/-- The Crown's firmware runs: step 2 has passed and no reset holds it (R288, R298). -/
def crownUp (s : State) : Bool :=
  s.pins.pwrGood && !s.resetting && decide (2 ≤ (bootStepAt s.boot.cur 2).outcome) &&
  (bootStepAt s.boot.cur 2).outcome != 7

/-- The management port is synchronised and served. -/
def mgmtOpen (s : State) : Bool := s.hlk.mgmtUp && crownUp s

/-- A datagram discarded under R289. -/
def mgmtDrop (s : State) : State := { s with hlk := { s.hlk with mgmtDropped := satInc 16 s.hlk.mgmtDropped } }

/-- A datagram arrives: at most 2000 in one second are taken (R289). -/
def mgmtIn (s : State) (f : State → State) : State :=
  let ts := s.hlk.mgmtTicks.filter fun t => decide (s.now < t + 1000000000)
  if !mgmtOpen s then s
  else if ts.length < 2000 then f { s with hlk := { s.hlk with mgmtTicks := ts ++ [s.now] } }
  else mgmtDrop s

/-- A request arrives on the DOE mailbox, which lies in configuration space: retry status before ready (R308). -/
def doeIn (s : State) (f : State → State) : State :=
  if !s.hlk.up || s.resetting then s else if !s.boot.ready then s.emit .retry else f s

/-- An SPDM message arrives on a transport. -/
def spdmIn (s : State) (p : Port) (f : State → State) : State :=
  match p with
  | .doe => doeIn s f
  | .mgmt => mgmtIn s f

/-- An SPDM ERROR response. -/
def spdmError (s : State) (p : Port) (code : Nat) : State := s.emit (.spdm p 0x7F [BitVec.ofNat 8 code])

/-- SessionLimitExceeded, as R350 names it. -/
def sessionLimitExceeded : Nat := 0x0A
/-- InvalidRequest. -/
def invalidRequest : Nat := 0x01
/-- UnexpectedRequest. -/
def unexpectedRequest : Nat := 0x04
/-- Unspecified. -/
def unspecified : Nat := 0x05
/-- DecryptError. -/
def decryptError : Nat := 0x06

/-- A message that belongs in a session arrives for one that is not established: discarded and counted on the management
port (R289), an error on the mailbox. -/
def noSession (s : State) (p : Port) : State :=
  match p with
  | .mgmt => mgmtDrop s
  | .doe => spdmError s p unexpectedRequest

/-- A message within an established session. -/
def inSession (s : State) (p : Port) (id : Nat) (f : State → State) : State :=
  spdmIn s p fun s => if (sessionAt s p id).isSome then f (touchSession s p id) else noSession s p

/-! ### Requests without a session (Table 17-5) -/

/-- VERSION: 1.2 only. -/
def sendVersion (s : State) (p : Port) : State := s.emit (.spdm p 0x04 (leBytes 2 0x1200))
/-- CAPABILITIES. -/
def sendCapabilities (s : State) (p : Port) : State := s.emit (.spdm p 0x61 (Config.spdmPayload 0x61 0))
/-- ALGORITHMS. -/
def sendAlgorithms (s : State) (p : Port) : State := s.emit (.spdm p 0x63 (Config.spdmPayload 0x63 0))
/-- DIGESTS: slot 0 only. -/
def sendDigests (s : State) (p : Port) : State := s.emit (.spdm p 0x01 (sha256 Config.certChain))

/-- CERTIFICATE: a portion of the chain of slot 0, with how much is left. -/
def sendCertificate (s : State) (p : Port) (slot offset len : Nat) : State :=
  let chain := Config.certChain
  if slot ≠ 0 ∨ chain.length ≤ offset then spdmError s p invalidRequest
  else
    let n := min len (chain.length - offset)
    s.emit (.spdm p 0x02 (leBytes 2 n ++ leBytes 2 (chain.length - offset - n) ++ slice chain offset n))

/-- CHALLENGE_AUTH: chain digest, nonce and the identity key's signature. -/
def sendChallenge (s : State) (p : Port) (nonce : BitVec 256) : State :=
  let d := s.draw
  let body := sha256 Config.certChain ++ leBytes 32 d.1.toNat
  d.2.emit (.spdm p 0x03 (body ++ Config.identitySign s.rngDraws (leBytes 32 nonce.toNat ++ body)))

/-! ### Measurements (Table 17-6, R348, R349) -/

/-- Index 3: the firmware copy that is not running. -/
def otherCopy (s : State) : List Byte :=
  let c := s.img.fw (!s.img.fwRunB)
  let state := if c.state = 1 then 1 else if stagedFw s.img then 2 else 0
  let digest := if c.state = 2 then sha256 c.bytes else leBytes 32 0
  leBytes 1 state ++ leBytes 3 0 ++ leBytes 4 (if c.state = 2 then c.version else 0) ++ leBytes 8 0 ++ digest

/-- Index 4: the running image. -/
def imageState (s : State) : List Byte :=
  leBytes 8 (b2n s.img.switch.isSome + 2 * b2n s.shownDigest.isNone) ++ slice s.imageDigest 0 32

/-- Operator key and signer table, as the operator record holds them (Table 17-2). -/
def operatorTable (o : OpRec) : List Byte :=
  leBytes 32 o.opX ++ leBytes 32 o.opY ++ (List.range 8).flatMap fun i =>
    let g : Signer := tget {} o.signers i
    leBytes 32 g.x ++ leBytes 32 g.y ++ leBytes 4 g.floor ++ leBytes 28 (b2n g.valid)

/-- Index 5: provisioning. -/
def hardwareState (s : State) : List Byte :=
  leBytes 8 (b2n (s.sec.op.state != 0) + 2 ^ 8 * s.hlk.ide) ++ sha256 (operatorTable s.sec.op) ++
  leBytes 4 s.sec.op.fwFloor ++ leBytes 20 0

/-- Index 6: the Visor. -/
def debugState (s : State) : List Byte :=
  leBytes 4 s.sec.op.debugEpoch ++ leBytes 4 (b2n s.vis.until_.isSome + 2 * b2n s.vis.altered) ++
  leBytes 4 s.vis.stores ++ leBytes 4 0

/-- The units a partial reset holds: its own unit, and each core within a cluster or partition (R349). -/
def heldUnits : UnitRef → List UnitRef
  | .cluster c => .cluster c :: (List.finRange 272).filterMap fun (k : Fin 272) => if clusterOf k = c.val then some (.core k) else none
  | .partition q => (List.finRange 272).filterMap fun (k : Fin 272) => if partOfCore k = q.val then some (.core k) else none
  | u => [u]

/-- Index 7: floor plan generation and the units in reset. -/
def resetState (s : State) : List Byte :=
  leBytes 8 s.flp.cur.generation ++ leBytes 64 (unitBits (s.rst.partials.flatMap fun q => heldUnits q.unit))

/-- Index 8: the digests of the resident bundles in ascending reference index. -/
def bundleDigests (s : State) : List Byte :=
  (s.bundleRefs.filter fun b => s.img.resident.any fun r => r.1 == b.digest).flatMap (·.digest)

/-- The measurements: index, DMTF type, and value; a raw value's type has bit 7. -/
def measurements (s : State) : List (Nat × Nat × List Byte) :=
  [(1, 0x00, Config.romDigest), (2, 0x01, sha256 (s.img.fw s.img.fwRunB).bytes), (3, 0x83, otherCopy s),
   (4, 0x83, imageState s), (5, 0x82, hardwareState s), (6, 0x85, debugState s), (7, 0x82, resetState s),
   (8, 0x03, sha256 (bundleDigests s))]

/-- A measurement block. -/
def measureBlock (m : Nat × Nat × List Byte) : List Byte :=
  let n := m.2.2.length
  leBytes 1 m.1 ++ leBytes 1 1 ++ leBytes 2 (n + 3) ++ leBytes 1 m.2.1 ++ leBytes 2 n ++ m.2.2

/-- MEASUREMENTS: every index from one snapshot, a nonce, and the signature (R348). -/
def sendMeasurements (s : State) (p : Port) (nonce : BitVec 256) : State :=
  let d := s.draw
  let body := (measurements s).flatMap measureBlock ++ leBytes 32 d.1.toNat
  d.2.emit (.spdm p 0x60 (body ++ Config.identitySign s.rngDraws (leBytes 32 nonce.toNat ++ body)))

/-! ### Sessions (R350) -/

/-- The random source has failed its health tests: no new session (R352). Before step 9 it has not been tested. -/
def rngRefuses (s : State) : Bool := !s.sec.rngOk && decide (2 ≤ (bootStepAt s.boot.cur 9).outcome)

/-- The public part of the ephemeral key of a draw, x then y big-endian. -/
def ephemeral (d : BitVec 256) : List Byte :=
  match ecMul 256 (d.toNat % (p256n - 1) + 1) (some p256g) with
  | some q => beBytes 32 q.1 ++ beBytes 32 q.2
  | none => []

/-- KEY_EXCHANGE: at most four sessions a transport. -/
def startSession (s : State) (p : Port) (x : List Byte) : State :=
  if rngRefuses s then spdmError s p unspecified
  else if 4 ≤ sessionsOn s p then spdmError s p sessionLimitExceeded
  else if !onCurve (beNat (slice x 0 32), beNat (slice x 32 32)) then spdmError s p invalidRequest
  else
    let d := s.draw
    let id := s.sec.nextSession
    let t := d.2
    let ses : Session := { port := p, id := id, established := false, last := s.now, draw := s.rngDraws }
    let t := { t with sec := { t.sec with sessions := t.sec.sessions ++ [ses], nextSession := id + 1 } }
    let body := leBytes 2 id ++ ephemeral d.1
    t.emit (.spdm p 0x64 (body ++ Config.identitySign s.rngDraws (x ++ body)))

/-- Change a session. -/
def updSession (s : State) (p : Port) (id : Nat) (f : Session → Session) : State :=
  { s with sec := { s.sec with sessions := s.sec.sessions.map fun x => if x.port == p && x.id == id then f x else x } }

/-- A session ends. -/
def dropSession (s : State) (p : Port) (id : Nat) : State :=
  { s with sec := { s.sec with sessions := s.sec.sessions.filter fun x => !(x.port == p && x.id == id) } }

/-- FINISH: the session that KEY_EXCHANGE started is established, or ends where the host's proof fails. -/
def finishSession (s : State) (p : Port) (id : Nat) (valid : Bool) : State :=
  if !s.sec.sessions.any fun x => x.port == p && x.id == id && !x.established then spdmError s p unexpectedRequest
  else if !valid then spdmError (dropSession s p id) p decryptError
  else
    let s := updSession s p id fun x => { x with established := true, last := s.now }
    s.emit (.spdm p 0x65 [])

/-- GET_VERSION. -/
def execGetVersion (port : Port) (s : State) : Host.Outcome State Fault Refusal :=
  .next (spdmIn s port fun s => sendVersion s port)

/-- GET_CAPABILITIES. -/
def execGetCapabilities (port : Port) (s : State) : Host.Outcome State Fault Refusal :=
  .next (spdmIn s port fun s => sendCapabilities s port)

/-- NEGOTIATE_ALGORITHMS. -/
def execNegotiateAlgorithms (port : Port) (s : State) : Host.Outcome State Fault Refusal :=
  .next (spdmIn s port fun s => sendAlgorithms s port)

/-- GET_DIGESTS. -/
def execGetDigests (port : Port) (s : State) : Host.Outcome State Fault Refusal :=
  .next (spdmIn s port fun s => sendDigests s port)

/-- GET_CERTIFICATE. -/
def execGetCertificate (port : Port) (slot offset len : Nat) (s : State) : Host.Outcome State Fault Refusal :=
  .next (spdmIn s port fun s => sendCertificate s port slot offset len)

/-- CHALLENGE. -/
def execChallenge (port : Port) (nonce : BitVec 256) (s : State) : Host.Outcome State Fault Refusal :=
  .next (spdmIn s port fun s => sendChallenge s port nonce)

/-- GET_MEASUREMENTS. -/
def execGetMeasurements (port : Port) (nonce : BitVec 256) (s : State) : Host.Outcome State Fault Refusal :=
  .next (spdmIn s port fun s => sendMeasurements s port nonce)

/-- KEY_EXCHANGE. -/
def execKeyExchange (port : Port) (exchange : List Byte) (s : State) : Host.Outcome State Fault Refusal :=
  .next (spdmIn s port fun s => startSession s port exchange)

/-- FINISH. -/
def execFinish (port : Port) (session : Nat) (valid : Bool) (s : State) : Host.Outcome State Fault Refusal :=
  .next (spdmIn s port fun s => finishSession s port session valid)

/-- END_SESSION: IDE keys the session programmed stay in force (R351). -/
def execEndSession (port : Port) (session : Nat) (s : State) : Host.Outcome State Fault Refusal :=
  .next (inSession s port session fun s => (dropSession s port session).emit (.spdm port 0x6C []))

/-- HEARTBEAT. -/
def execHeartbeat (port : Port) (session : Nat) (s : State) : Host.Outcome State Fault Refusal :=
  .next (inSession s port session fun s => s.emit (.spdm port 0x68 []))

/-- KEY_UPDATE. -/
def execKeyUpdate (port : Port) (session : Nat) (s : State) : Host.Outcome State Fault Refusal :=
  .next (inSession s port session fun s =>
    let s := updSession s port session fun x => { x with updates := x.updates + 1 }
    s.emit (.spdm port 0x6A []))

/-- SESSION_TIMEOUT: 180 s without traffic. -/
def execSessionTimeout (port : Port) (session : Nat) (s : State) : Host.Outcome State Fault Refusal :=
  match s.sec.sessions.find? fun x => x.port == port && x.id == session with
  | some x => if x.last + 180000000000 ≤ s.now then .next (dropSession s port session) else .next s
  | none => .next s

/-! ### The management port (R288, R289) -/

/-- A management datagram of the module: header of Table 13-12 and payload. -/
def datagramOut (type seq : Nat) (payload : List Byte) : List Byte :=
  leBytes 4 0x504D5643 ++ leBytes 1 1 ++ leBytes 1 type ++ leBytes 2 payload.length ++ leBytes 4 seq ++ leBytes 4 0 ++ payload

/-- Discovery: part_id, stepping and the running firmware's version. -/
def discover (s : State) (seq : Nat) : State :=
  s.emit (.mgmt 3 (datagramOut 3 seq (leBytes 2 0x0760 ++ leBytes 2 0xB0 ++ leBytes 4 (s.img.fw s.img.fwRunB).version)))

/-- The header of a datagram is right (Table 13-12). -/
def headerOk (b : List Byte) : Bool :=
  decide (16 ≤ b.length) && rd b 0 4 == 0x504D5643 && rd b 4 1 == 1 && decide (1 ≤ rd b 5 1) && decide (rd b 5 1 ≤ 3) &&
  decide (rd b 6 2 ≤ 1400) && b.length == 16 + rd b 6 2 && rd b 12 4 == 0

/-- An SPDM message outside a session, by its request code; one the module does not allow there is discarded. -/
def plainSpdm (s : State) (m : List Byte) : State :=
  match rd m 1 1 with
  | 0x84 => sendVersion s .mgmt
  | 0xE1 => sendCapabilities s .mgmt
  | 0xE3 => sendAlgorithms s .mgmt
  | 0x81 => sendDigests s .mgmt
  | 0x82 => sendCertificate s .mgmt (rd m 2 1) (rd m 4 2) (rd m 6 2)
  | 0x83 => sendChallenge s .mgmt (BitVec.ofNat 256 (rd m 4 32))
  | 0xE0 => sendMeasurements s .mgmt (BitVec.ofNat 256 (rd m 4 32))
  | 0xE4 => startSession s .mgmt (slice m 40 64)
  | 0xE5 => s
  | _ => mgmtDrop s

/-- A datagram that arrived: discarded, or dispatched by its type. What a secured message says once it is decrypted comes
as a command of its own. -/
def dispatchDatagram (s : State) (b : List Byte) : State :=
  if !headerOk b then mgmtDrop s
  else match rd b 5 1 with
    | 1 => plainSpdm s (b.drop 16)
    | 2 => if (sessionAt s .mgmt (rd b 16 4)).isSome then touchSession s .mgmt (rd b 16 4) else mgmtDrop s
    | _ => discover s (rd b 8 4)

/-- MGMT_DATAGRAM. -/
def execMgmtDatagram (bytes : List Byte) (s : State) : Host.Outcome State Fault Refusal :=
  .next (mgmtIn s fun s => dispatchDatagram s bytes)

/-- MGMT_DISCOVERY. -/
def execMgmtDiscovery (seq : Word) (s : State) : Host.Outcome State Fault Refusal :=
  .next (mgmtIn s fun s => discover s seq.toNat)

/-- Post a command in a management entry that is free or has ended; before the module is ready it is refused (Table
14-10). -/
def postMgmt (s : State) (e : Nat) (bs : List Byte) : State :=
  let x := s.entry e
  if x.state = 1 ∨ x.state = 2 then s
  else if s.boot.ready then s.setEntry e { state := 1, body := slice bs 0 248 }
  else s.setEntry e { state := 4, status := 3, body := slice bs 0 248 }

/-- MGMT_COMMAND. -/
def execMgmtCommand (session : Nat) (entry : Fin 16) (bytes : List Byte) (s : State) : Host.Outcome State Fault Refusal :=
  .next (inSession s .mgmt session fun s => postMgmt s (16 + entry.val) bytes)

/-- MGMT_STATUS_QUERY. -/
def execMgmtStatusQuery (session : Nat) (entry : Fin 16) (s : State) : Host.Outcome State Fault Refusal :=
  .next (inSession s .mgmt session fun s => s.emit (.mgmt 2 (leBytes 8 (entryWord (s.entry (16 + entry.val))))))

/-- MGMT_CONTROL_READ: 1 to 64 words of control space; a count outside them is no message of kind 0x0003 and has no answer
(log 81). -/
def execMgmtControlRead (session : Nat) (offset : BitVec 28) (count : Nat) (s : State) : Host.Outcome State Fault Refusal :=
  .next (inSession s .mgmt session fun s =>
    if 1 ≤ count ∧ count ≤ 64 then
      let r := loadCtl s (offset.toNat / 4 * 4) (4 * count)
      r.2.emit (.mgmt 2 r.1)
    else s)

/-- MGMT_PORT_SYNC_GAINED: the port lights at boot step 2 and stays lit through warm resets (R379). -/
def execMgmtPortSyncGained (s : State) : Host.Outcome State Fault Refusal :=
  if s.hlk.mgmtLit && s.pins.pwrGood && !s.pwr.off then .next { s with hlk := { s.hlk with mgmtUp := true } } else .next s

/-- MGMT_PORT_SYNC_LOST. -/
def execMgmtPortSyncLost (s : State) : Host.Outcome State Fault Refusal :=
  .next { s with hlk := { s.hlk with mgmtUp := false } }

/-! ### IP (13.7) -/

/-- The link-local address derived from the MAC (modified EUI-64). -/
def linkLocal (mac : Nat) : Nat :=
  0xFE80 * 2 ^ 112 + (mac / 2 ^ 24 ^^^ 0x020000) * 2 ^ 40 + 0xFFFE * 2 ^ 24 + mac % 2 ^ 24

/-- ARP_REQUEST: answered with the MAC for the static IPv4 address. -/
def execArpRequest (target : BitVec 32) (s : State) : Host.Outcome State Fault Refusal :=
  if mgmtOpen s && target.toNat == s.sec.ipv4 then
    .next (s.emit (.mgmt 0x10 (beBytes 6 s.sec.mac ++ beBytes 4 s.sec.ipv4)))
  else .next s

/-- NEIGHBOUR_SOLICITATION: answered for the static and the link-local IPv6 address. -/
def execNeighbourSolicitation (target : BitVec 128) (s : State) : Host.Outcome State Fault Refusal :=
  if mgmtOpen s && (target.toNat == s.sec.ipv6 || target.toNat == linkLocal s.sec.mac) then
    .next (s.emit (.mgmt 0x11 (beBytes 6 s.sec.mac ++ beBytes 16 target.toNat)))
  else .next s

/-- ICMP_ECHO_REQUEST: the payload comes back. -/
def execIcmpEchoRequest (payload : List Byte) (s : State) : Host.Outcome State Fault Refusal :=
  if mgmtOpen s then .next (s.emit (.mgmt 0x12 payload)) else .next s

/-! ### The DOE mailbox (Table 13-1) -/

/-- Vendor ID and type of each data object protocol: Discovery, CMA/SPDM, Secured CMA/SPDM, Table Access. -/
def doeProtocols : List (Nat × Nat) := [(0x0001, 0), (0x0001, 1), (0x0001, 2), (0x1E98, 2)]

/-- DOE_DISCOVERY: the protocol of an index and the index of the next, 0 after the last. -/
def execDoeDiscovery (index : Nat) (s : State) : Host.Outcome State Fault Refusal :=
  .next (doeIn s fun s =>
    match doeProtocols[index]? with
    | some q => s.emit (.doe 0 (leBytes 2 q.1 ++ leBytes 1 q.2 ++ leBytes 1 ((index + 1) % doeProtocols.length)))
    | none => s.emit (.doe 0 (leBytes 2 0xFFFF ++ leBytes 2 0)))

/-- CDAT_TABLE_ACCESS: an entry of the table. -/
def execCdatTableAccess (handle : Nat) (s : State) : Host.Outcome State Fault Refusal :=
  .next (doeIn s fun s => s.emit (.doe 2 (leBytes 2 handle ++ Config.cdatTable)))

end Sys2Proof.Machine
end

