-- ==== Sys2Proof/Machine/Dispatch.lean ====
section
/-! DEFINITION. One arm for each command, each a direct call of its meaning. -/

namespace Sys2Proof.Machine

/-- The effect of a command on everything but the queue. -/
def exec (i : Instr) (s : State) : Host.Outcome State Fault Refusal :=
  match i with
  | .iadd core grp ecc => Sys2Proof.Machine.execIadd core grp ecc s
  | .isub core grp ecc => Sys2Proof.Machine.execIsub core grp ecc s
  | .imul core grp ecc => Sys2Proof.Machine.execImul core grp ecc s
  | .imulhiU core grp ecc => Sys2Proof.Machine.execImulhiU core grp ecc s
  | .imulhiS core grp ecc => Sys2Proof.Machine.execImulhiS core grp ecc s
  | .and core grp ecc => Sys2Proof.Machine.execAnd core grp ecc s
  | .or core grp ecc => Sys2Proof.Machine.execOr core grp ecc s
  | .xor core grp ecc => Sys2Proof.Machine.execXor core grp ecc s
  | .shl core grp ecc => Sys2Proof.Machine.execShl core grp ecc s
  | .shr core grp ecc => Sys2Proof.Machine.execShr core grp ecc s
  | .sar core grp ecc => Sys2Proof.Machine.execSar core grp ecc s
  | .iminS core grp ecc => Sys2Proof.Machine.execIminS core grp ecc s
  | .imaxS core grp ecc => Sys2Proof.Machine.execImaxS core grp ecc s
  | .iminU core grp ecc => Sys2Proof.Machine.execIminU core grp ecc s
  | .imaxU core grp ecc => Sys2Proof.Machine.execImaxU core grp ecc s
  | .isetp core grp ecc => Sys2Proof.Machine.execIsetp core grp ecc s
  | .sel core grp ecc => Sys2Proof.Machine.execSel core grp ecc s
  | .mov core grp ecc => Sys2Proof.Machine.execMov core grp ecc s
  | .fadd core grp ecc => Sys2Proof.Machine.execFadd core grp ecc s
  | .fsub core grp ecc => Sys2Proof.Machine.execFsub core grp ecc s
  | .fmul core grp ecc => Sys2Proof.Machine.execFmul core grp ecc s
  | .ffma core grp ecc => Sys2Proof.Machine.execFfma core grp ecc s
  | .fmin core grp ecc => Sys2Proof.Machine.execFmin core grp ecc s
  | .fmax core grp ecc => Sys2Proof.Machine.execFmax core grp ecc s
  | .fsetp core grp ecc => Sys2Proof.Machine.execFsetp core grp ecc s
  | .cvt core grp ecc => Sys2Proof.Machine.execCvt core grp ecc s
  | .cvtScale core grp ecc => Sys2Proof.Machine.execCvtScale core grp ecc s
  | .ld core grp ecc => Sys2Proof.Machine.execLd core grp ecc s
  | .st core grp ecc => Sys2Proof.Machine.execSt core grp ecc s
  | .atomAdd core grp ecc => Sys2Proof.Machine.execAtomAdd core grp ecc s
  | .atomMinS core grp ecc => Sys2Proof.Machine.execAtomMinS core grp ecc s
  | .atomMaxS core grp ecc => Sys2Proof.Machine.execAtomMaxS core grp ecc s
  | .atomMinU core grp ecc => Sys2Proof.Machine.execAtomMinU core grp ecc s
  | .atomMaxU core grp ecc => Sys2Proof.Machine.execAtomMaxU core grp ecc s
  | .atomAnd core grp ecc => Sys2Proof.Machine.execAtomAnd core grp ecc s
  | .atomOr core grp ecc => Sys2Proof.Machine.execAtomOr core grp ecc s
  | .atomXor core grp ecc => Sys2Proof.Machine.execAtomXor core grp ecc s
  | .atomXchg core grp ecc => Sys2Proof.Machine.execAtomXchg core grp ecc s
  | .atomCas core grp ecc => Sys2Proof.Machine.execAtomCas core grp ecc s
  | .atomFadd core grp ecc => Sys2Proof.Machine.execAtomFadd core grp ecc s
  | .fenceD core grp ecc => Sys2Proof.Machine.execFenceD core grp ecc s
  | .cacheRetire core grp ecc => Sys2Proof.Machine.execCacheRetire core grp ecc s
  | .mxIssue core grp ecc => Sys2Proof.Machine.execMxIssue core grp ecc s
  | .dmaIssue core grp ecc => Sys2Proof.Machine.execDmaIssue core grp ecc s
  | .palmIssue core grp ecc => Sys2Proof.Machine.execPalmIssue core grp ecc s
  | .wait core grp ecc => Sys2Proof.Machine.execWait core grp ecc s
  | .waitComplete core grp => Sys2Proof.Machine.execWaitComplete core grp s
  | .fragOpen core grp ecc => Sys2Proof.Machine.execFragOpen core grp ecc s
  | .fragLdb core grp ecc => Sys2Proof.Machine.execFragLdb core grp ecc s
  | .fragMma core grp ecc => Sys2Proof.Machine.execFragMma core grp ecc s
  | .fragRound core grp ecc => Sys2Proof.Machine.execFragRound core grp ecc s
  | .bra core grp ecc => Sys2Proof.Machine.execBra core grp ecc s
  | .jmp core grp ecc => Sys2Proof.Machine.execJmp core grp ecc s
  | .jmpc core grp ecc => Sys2Proof.Machine.execJmpc core grp ecc s
  | .jmpi core grp ecc => Sys2Proof.Machine.execJmpi core grp ecc s
  | .exit core grp ecc => Sys2Proof.Machine.execExit core grp ecc s
  | .trap core grp ecc => Sys2Proof.Machine.execTrap core grp ecc s
  | .nop core grp ecc => Sys2Proof.Machine.execNop core grp ecc s
  | .barSync core grp ecc => Sys2Proof.Machine.execBarSync core grp ecc s
  | .barArrive core grp ecc => Sys2Proof.Machine.execBarArrive core grp ecc s
  | .epochRd core grp ecc => Sys2Proof.Machine.execEpochRd core grp ecc s
  | .sfEval core grp ecc => Sys2Proof.Machine.execSfEval core grp ecc s
  | .rowstat core grp ecc => Sys2Proof.Machine.execRowstat core grp ecc s
  | .instructionFetch core grp => Sys2Proof.Machine.execInstructionFetch core grp s
  | .deviceAccessReply core grp => Sys2Proof.Machine.execDeviceAccessReply core grp s
  | .blockStart stream step => Sys2Proof.Machine.execBlockStart stream step s
  | .groupDrainEnd core grp => Sys2Proof.Machine.execGroupDrainEnd core grp s
  | .descriptorStart core => Sys2Proof.Machine.execDescriptorStart core s
  | .descriptorComplete core stopRow => Sys2Proof.Machine.execDescriptorComplete core stopRow s
  | .dmaStart core => Sys2Proof.Machine.execDmaStart core s
  | .dmaComplete core lmRow => Sys2Proof.Machine.execDmaComplete core lmRow s
  | .fragMmaResult core => Sys2Proof.Machine.execFragMmaResult core s
  | .launchDispatch core lmError => Sys2Proof.Machine.execLaunchDispatch core lmError s
  | .launchStart slice ev => Sys2Proof.Machine.execLaunchStart slice ev s
  | .launchComplete core => Sys2Proof.Machine.execLaunchComplete core s
  | .context1Resume slice => Sys2Proof.Machine.execContext1Resume slice s
  | .windowStagingStart win => Sys2Proof.Machine.execWindowStagingStart win s
  | .restageComplete slice => Sys2Proof.Machine.execRestageComplete slice s
  | .kvOpen stream => Sys2Proof.Machine.execKvOpen stream s
  | .kvAppend stream => Sys2Proof.Machine.execKvAppend stream s
  | .kvCommit stream => Sys2Proof.Machine.execKvCommit stream s
  | .kvEnd stream => Sys2Proof.Machine.execKvEnd stream s
  | .kvLengths stream => Sys2Proof.Machine.execKvLengths stream s
  | .sliceRead slice ev => Sys2Proof.Machine.execSliceRead slice ev s
  | .sliceWrite slice ev => Sys2Proof.Machine.execSliceWrite slice ev s
  | .lineRetire slice => Sys2Proof.Machine.execLineRetire slice s
  | .fillArrival slice => Sys2Proof.Machine.execFillArrival slice s
  | .sliceFence slice => Sys2Proof.Machine.execSliceFence slice s
  | .bondedRead ch ev => Sys2Proof.Machine.execBondedRead ch ev s
  | .bondedWrite ch ev => Sys2Proof.Machine.execBondedWrite ch ev s
  | .lpddr6Read ch noise => Sys2Proof.Machine.execLpddr6Read ch noise s
  | .lpddr6Write ch => Sys2Proof.Machine.execLpddr6Write ch s
  | .mergeEntryTimeout ch => Sys2Proof.Machine.execMergeEntryTimeout ch s
  | .mergeDrainComplete ch noise => Sys2Proof.Machine.execMergeDrainComplete ch noise s
  | .levelCodePublish ctl peaks => Sys2Proof.Machine.execLevelCodePublish ctl peaks s
  | .levelCodeStale kind ctl => Sys2Proof.Machine.execLevelCodeStale kind ctl s
  | .budgetWindow ctl => Sys2Proof.Machine.execBudgetWindow ctl s
  | .intakePoll stream => Sys2Proof.Machine.execIntakePoll stream s
  | .test5ReadComplete stream data => Sys2Proof.Machine.execTest5ReadComplete stream data s
  | .test5ReadTimeout stream => Sys2Proof.Machine.execTest5ReadTimeout stream s
  | .bodyCopyComplete stream data => Sys2Proof.Machine.execBodyCopyComplete stream data s
  | .bodyCopyTimeout stream => Sys2Proof.Machine.execBodyCopyTimeout stream s
  | .completionWrite stream => Sys2Proof.Machine.execCompletionWrite stream s
  | .recheck => Sys2Proof.Machine.execRecheck s
  | .fullRefit => Sys2Proof.Machine.execFullRefit s
  | .shadowRefit => Sys2Proof.Machine.execShadowRefit s
  | .faultClears => Sys2Proof.Machine.execFaultClears s
  | .maintenanceSlot part mismatch correctedRows => Sys2Proof.Machine.execMaintenanceSlot part mismatch correctedRows s
  | .fieldTestTurn index => Sys2Proof.Machine.execFieldTestTurn index s
  | .profileSwitch entry => Sys2Proof.Machine.execProfileSwitch entry s
  | .profileSwitchDrainEnd => Sys2Proof.Machine.execProfileSwitchDrainEnd s
  | .slotWrite entry data => Sys2Proof.Machine.execSlotWrite entry data s
  | .slotErase entry => Sys2Proof.Machine.execSlotErase entry s
  | .fwWrite entry data => Sys2Proof.Machine.execFwWrite entry data s
  | .flashWriteComplete => Sys2Proof.Machine.execFlashWriteComplete s
  | .bundleLoad entry data => Sys2Proof.Machine.execBundleLoad entry data s
  | .bundleStage entry => Sys2Proof.Machine.execBundleStage entry s
  | .bundleEvict entry => Sys2Proof.Machine.execBundleEvict entry s
  | .stageAtStart ref => Sys2Proof.Machine.execStageAtStart ref s
  | .sfTableLoad entry data fwd => Sys2Proof.Machine.execSfTableLoad entry data fwd s
  | .sfCommit entry => Sys2Proof.Machine.execSfCommit entry s
  | .hostWindowBind entry => Sys2Proof.Machine.execHostWindowBind entry s
  | .resetUnit entry => Sys2Proof.Machine.execResetUnit entry s
  | .moduleReset entry env => Sys2Proof.Machine.execModuleReset entry env s
  | .liningWrite entry => Sys2Proof.Machine.execLiningWrite entry s
  | .provClaim entry => Sys2Proof.Machine.execProvClaim entry s
  | .signerSet entry => Sys2Proof.Machine.execSignerSet entry s
  | .signerClear entry => Sys2Proof.Machine.execSignerClear entry s
  | .floorRaise entry => Sys2Proof.Machine.execFloorRaise entry s
  | .settingWrite entry => Sys2Proof.Machine.execSettingWrite entry s
  | .operatorReplace entry => Sys2Proof.Machine.execOperatorReplace entry s
  | .provRelease entry => Sys2Proof.Machine.execProvRelease entry s
  | .visorOpen entry => Sys2Proof.Machine.execVisorOpen entry s
  | .visorClose entry => Sys2Proof.Machine.execVisorClose entry s
  | .visorSessionExpiry => Sys2Proof.Machine.execVisorSessionExpiry s
  | .visorHalt => Sys2Proof.Machine.execVisorHalt s
  | .visorResume => Sys2Proof.Machine.execVisorResume s
  | .visorStep ecc => Sys2Proof.Machine.execVisorStep ecc s
  | .visorAbort => Sys2Proof.Machine.execVisorAbort s
  | .visorAccessLoad value => Sys2Proof.Machine.execVisorAccessLoad value s
  | .visorAccessStore value => Sys2Proof.Machine.execVisorAccessStore value s
  | .coreSwReset core => Sys2Proof.Machine.execCoreSwReset core s
  | .palmSwReset slice => Sys2Proof.Machine.execPalmSwReset slice s
  | .sliceSwReset slice => Sys2Proof.Machine.execSliceSwReset slice s
  | .controllerSwReset lpddr ch => Sys2Proof.Machine.execControllerSwReset lpddr ch s
  | .fitCountLoRead => Sys2Proof.Machine.execFitCountLoRead s
  | .w1cClearWrite offset value sets => Sys2Proof.Machine.execW1cClearWrite offset value sets s
  | .registerWrite offset value => Sys2Proof.Machine.execRegisterWrite offset value s
  | .commandPagePoll => Sys2Proof.Machine.execCommandPagePoll s
  | .hostCommandEntryWrite entry offset bytes => Sys2Proof.Machine.execHostCommandEntryWrite entry offset bytes s
  | .hostMemRead offset len => Sys2Proof.Machine.execHostMemRead offset len s
  | .hostMemWrite offset bytes => Sys2Proof.Machine.execHostMemWrite offset bytes s
  | .configWrite offset value => Sys2Proof.Machine.execConfigWrite offset value s
  | .biResponse line data => Sys2Proof.Machine.execBiResponse line data s
  | .biTimeout line => Sys2Proof.Machine.execBiTimeout line s
  | .linkDown => Sys2Proof.Machine.execLinkDown s
  | .linkUp width rate => Sys2Proof.Machine.execLinkUp width rate s
  | .hotReset kind env => Sys2Proof.Machine.execHotReset kind env s
  | .ideKeyProg session ide key => Sys2Proof.Machine.execIdeKeyProg session ide key s
  | .ideKSetStop session ide => Sys2Proof.Machine.execIdeKSetStop session ide s
  | .ideIntegrityFailure => Sys2Proof.Machine.execIdeIntegrityFailure s
  | .mgmtDatagram bytes => Sys2Proof.Machine.execMgmtDatagram bytes s
  | .mgmtDiscovery seq => Sys2Proof.Machine.execMgmtDiscovery seq s
  | .mgmtCommand session entry bytes => Sys2Proof.Machine.execMgmtCommand session entry bytes s
  | .mgmtStatusQuery session entry => Sys2Proof.Machine.execMgmtStatusQuery session entry s
  | .mgmtControlRead session offset count => Sys2Proof.Machine.execMgmtControlRead session offset count s
  | .getVersion port => Sys2Proof.Machine.execGetVersion port s
  | .getCapabilities port => Sys2Proof.Machine.execGetCapabilities port s
  | .negotiateAlgorithms port => Sys2Proof.Machine.execNegotiateAlgorithms port s
  | .getDigests port => Sys2Proof.Machine.execGetDigests port s
  | .getCertificate port slot offset len => Sys2Proof.Machine.execGetCertificate port slot offset len s
  | .challenge port nonce => Sys2Proof.Machine.execChallenge port nonce s
  | .getMeasurements port nonce => Sys2Proof.Machine.execGetMeasurements port nonce s
  | .keyExchange port exchange => Sys2Proof.Machine.execKeyExchange port exchange s
  | .finish port session valid => Sys2Proof.Machine.execFinish port session valid s
  | .endSession port session => Sys2Proof.Machine.execEndSession port session s
  | .heartbeat port session => Sys2Proof.Machine.execHeartbeat port session s
  | .keyUpdate port session => Sys2Proof.Machine.execKeyUpdate port session s
  | .sessionTimeout port session => Sys2Proof.Machine.execSessionTimeout port session s
  | .powerOnReset env => Sys2Proof.Machine.execPowerOnReset env s
  | .imageStart => Sys2Proof.Machine.execImageStart s
  | .bootWatchdogExpiry env => Sys2Proof.Machine.execBootWatchdogExpiry env s
  | .fwdAnswerTimeout unit => Sys2Proof.Machine.execFwdAnswerTimeout unit s
  | .resetNAssert ns taken env => Sys2Proof.Machine.execResetNAssert ns taken env s
  | .resetNRelease env => Sys2Proof.Machine.execResetNRelease env s
  | .warmResetCrownTimeout env => Sys2Proof.Machine.execWarmResetCrownTimeout env s
  | .flashPulseEnd env => Sys2Proof.Machine.execFlashPulseEnd env s
  | .cuffTimeout unit => Sys2Proof.Machine.execCuffTimeout unit s
  | .partialResetComplete unit => Sys2Proof.Machine.execPartialResetComplete unit s
  | .partialResetTimeout unit => Sys2Proof.Machine.execPartialResetTimeout unit s
  | .unitPollTimeout unit => Sys2Proof.Machine.execUnitPollTimeout unit s
  | .fatalResetTimer env => Sys2Proof.Machine.execFatalResetTimer env s
  | .crownLockstepMismatch => Sys2Proof.Machine.execCrownLockstepMismatch s
  | .inputUndervoltage => Sys2Proof.Machine.execInputUndervoltage s
  | .inputOvervoltage => Sys2Proof.Machine.execInputOvervoltage s
  | .busConverterFail conv => Sys2Proof.Machine.execBusConverterFail conv s
  | .stageTwoPhaseLoss vcache => Sys2Proof.Machine.execStageTwoPhaseLoss vcache s
  | .onDiePhaseLoss cluster phase => Sys2Proof.Machine.execOnDiePhaseLoss cluster phase s
  | .regionSwitchOn cluster measured => Sys2Proof.Machine.execRegionSwitchOn cluster measured s
  | .switchOnForced cluster => Sys2Proof.Machine.execSwitchOnForced cluster s
  | .thermalSample diode reading => Sys2Proof.Machine.execThermalSample diode reading s
  | .thermistorSample input reading => Sys2Proof.Machine.execThermistorSample input reading s
  | .powerSample watts volts => Sys2Proof.Machine.execPowerSample watts volts s
  | .rngHealthFail => Sys2Proof.Machine.execRngHealthFail s
  | .modePrepareComplete => Sys2Proof.Machine.execModePrepareComplete s
  | .modeCommitComplete => Sys2Proof.Machine.execModeCommitComplete s
  | .modePrepareTimeout => Sys2Proof.Machine.execModePrepareTimeout s
  | .modeCommitTimeout late => Sys2Proof.Machine.execModeCommitTimeout late s
  | .crownWatchdogExpiry => Sys2Proof.Machine.execCrownWatchdogExpiry s
  | .controlStateUncorrectable unit => Sys2Proof.Machine.execControlStateUncorrectable unit s
  | .fenceByCrownCommand unit => Sys2Proof.Machine.execFenceByCrownCommand unit s
  | .mgmtPortSyncGained => Sys2Proof.Machine.execMgmtPortSyncGained s
  | .mgmtPortSyncLost => Sys2Proof.Machine.execMgmtPortSyncLost s
  | .opticalLaneFailure lane => Sys2Proof.Machine.execOpticalLaneFailure lane s
  | .malformedTlpOrFlit answered => Sys2Proof.Machine.execMalformedTlpOrFlit answered s
  | .ideKSetGo session ide => Sys2Proof.Machine.execIdeKSetGo session ide s
  | .doeDiscovery index => Sys2Proof.Machine.execDoeDiscovery index s
  | .cdatTableAccess handle => Sys2Proof.Machine.execCdatTableAccess handle s
  | .arpRequest target => Sys2Proof.Machine.execArpRequest target s
  | .neighbourSolicitation target => Sys2Proof.Machine.execNeighbourSolicitation target s
  | .icmpEchoRequest payload => Sys2Proof.Machine.execIcmpEchoRequest payload s
  | .regionSwitchOnEnd cluster => Sys2Proof.Machine.execRegionSwitchOnEnd cluster s

end Sys2Proof.Machine
end

