-- ==== Sys2Proof/Safety.lean ====
section
/-! DEFINITION. What counts as a safe run, and the words the statements are made in: which states are well kept, what
an instruction of a group leaves alone, and when a group issues a given word. -/

namespace Sys2Proof

open Machine

/-- A step goes on. -/
def Goes (s : State) : Prop := ∃ t, step s = .next t

/-- A state code that Table 1-8 uses for units of this type: 0 enabled and 3 fenced for all, 1 (reduced, half width or reduced
rate) for all but cores, 2 (Palm engine fenced) for slices. -/
def codeOk (ut v : Nat) : Prop := v = 0 ∨ v = 3 ∨ (v = 1 ∧ ut ≠ 2) ∨ (v = 2 ∧ ut = 3)

/-- Every unit has a state code that Table 1-8 uses for its type. -/
def codesOk (f : FloorPlan) : Prop := ∀ ut id, codeOk ut (f.get ut id)

/-- A unit's state has not improved (R21): it is the same, or the unit was whole, or it is fenced. -/
def Worse (old new : Nat) : Prop := new = old ∨ old = 0 ∨ new = 3

/-- No unit of `t` stands better than it did in `s`; `afresh` allows units that stand as the delivered floor plan has them,
which a cold reset and a loss of the Lining (R322) bring back. -/
def NoBetter (afresh : Prop) (s t : State) : Prop :=
  ∀ ut id, Worse (s.unitState ut id) (t.unitState ut id) ∨ (afresh ∧ Worse (s.flp.delivered.get ut id) (t.unitState ut id))

/-- A command that starts the floor plan afresh: power-on, and a boot with the Lining lost. -/
def startsAfresh : Instr → Prop
  | .powerOnReset _ => True
  | .resetNRelease env => env.liningBad = true
  | .moduleReset _ env => env.liningBad = true
  | .hotReset _ env => env.liningBad = true
  | .bootWatchdogExpiry env => env.liningBad = true
  | .resetNAssert _ _ env => env.liningBad = true
  | .warmResetCrownTimeout env => env.liningBad = true
  | .flashPulseEnd env => env.liningBad = true
  | .fatalResetTimer env => env.liningBad = true
  | _ => False

/-- The invariant of the whole module: bonded DRAM keeps its one canonical form (log 4), and every unit of the floor plan in
force, of the delivered one and of the changes put off (R39) has a code that Table 1-8 uses. -/
def Inv (s : State) : Prop :=
  twf 0#8 s.mem = true ∧ codesOk s.flp.cur ∧ codesOk s.flp.delivered ∧ ∀ d ∈ s.flp.deferred, codeOk d.1 d.2.2.1

/-- What every command keeps: the queue and the delivered floor plan untouched, every unit no better, and the invariant. -/
def Keeps (afresh : Prop) (s t : State) : Prop :=
  t.pending = s.pending ∧ (t.flp.delivered = s.flp.delivered ∧ (Inv s → NoBetter afresh s t)) ∧ (Inv s → Inv t)

/-! ### A group that issues -/

/-- Group `g` of core `c` has come to the word `w` (7.1, R144, R155, R158): it runs and waits for nothing, no descriptor error
is to be taken, it does not stand at its stop address, its PC is in the code region, its fetch buffer holds the word, and no
breakpoint holds it. -/
def Comes (s : State) (c g w : Nat) : Prop :=
  let x := s.grp c g
  s.coreRuns c = true ∧ x.st = .running ∧ (x.stall = .none ∨ x.stall = .retry) ∧ x.pend = none ∧
  x.stop ≠ some x.pc ∧ pcOk (s.core c) x.pc.toNat = true ∧ fetched x x.pc.toNat = some w ∧
  (bpHit (s.core c) g x.pc.toNat = false ∨ x.skipBp = true ∨ class0Core s c = true)

/-- It has come to that word, and the Visor does not step it (R153). -/
def Reaches (s : State) (c g w : Nat) : Prop := Comes s c g w ∧ (s.grp c g).stepping = false

/-- It issues that word now: the word is legal (R159) and none of its operands waits for a device access (R174). -/
def Issues (s : State) (c g w : Nat) : Prop :=
  Reaches s c g w ∧ legal w = true ∧ (s.grp c g).hazard (operandsOf (s.core c) g w) = false

/-- Nothing outside one group has changed. -/
def GroupOnly (s t : State) (c g : Nat) : Prop :=
  { t with cores := s.cores } = s ∧ (∀ k, k ≠ c → t.core k = s.core k) ∧
  { t.core c with groups := (s.core c).groups } = s.core c ∧ ∀ k, k ≠ g → t.grp c k = s.grp c k

/-- A group goes on to the next instruction with nothing but registers changed. -/
def StepsOn (x y : Group) : Prop :=
  { y with v := x.v, u := x.u, pc := x.pc, stall := x.stall, skipBp := x.skipBp } = x ∧
  y.pc = x.pc + 8 ∧ y.stall = .none ∧ y.skipBp = false

/-- The register file `y` is `x` with `n` registers from the selector `sel` written (R160): the value `f l` for each
active lane `l` of a v destination, lowest register first, `f 0` once for a u destination. -/
def Written (x y : Group) (sel n : Nat) (f : Nat → Nat) : Prop :=
  (∀ r l, l < 32 → y.getV r l =
    if selU sel = false ∧ selReg sel ≤ r ∧ r < selReg sel + n ∧ x.mask.getLsbD l = true
    then BitVec.ofNat 32 (f l / 2 ^ (32 * (r - selReg sel))) else x.getV r l) ∧
  (∀ r, y.getU r =
    if selU sel = true ∧ selReg sel ≤ r ∧ r < selReg sel + n
    then BitVec.ofNat 32 (f 0 / 2 ^ (32 * (r - selReg sel))) else x.getU r)

/-- The outcome of an instruction of the ALU format that computes `f` at the width of its operands: the destination
written, the PC moved on, nothing else changed. `f` gets sources a, b (rb or the immediate) and c. -/
def Computes (o : Host.Outcome State Fault Refusal) (s : State) (c g w : Nat)
    (f : (n : Nat) → BitVec n → BitVec n → BitVec n → BitVec n) : Prop :=
  let x := s.grp c g
  let k := if fWide w then 2 else 1
  let n := 32 * k
  ∃ t, o = .next t ∧ GroupOnly s t c g ∧ StepsOn x (t.grp c g) ∧
    Written x (t.grp c g) (fRd w) k fun l =>
      (f n (BitVec.ofNat n (x.rdN (fRa w) l k))
           (if fImmBit w then (if major w < 0x20 then (BitVec.ofNat 16 (fImm w)).signExtend n
                               else (bf16to32 (fImm w)).setWidth n)
            else BitVec.ofNat n (x.rdN (fRb w) l k))
           (BitVec.ofNat n (x.rdN (fRc w) l k))).toNat

/-- The writes `ws`, address and byte in order, are in local memory of core `c`, and every descriptor of the core under way
(`mx` and `dma` name them) and every launch of the core notes what those bytes held (R101). -/
def Stored (s t : State) (c : Nat) (mx dma : List RunDesc) (ws : List (Nat × Byte)) : Prop :=
  let old := ws.map fun w => (w.1, mget (s.core c).lm w.1)
  (t.core c).lm = ws.foldl (fun m w => mput m w.1 w.2) (s.core c).lm ∧
  (t.core c).mxRun = mx.map (fun r => { r with seen := r.seen ++ old }) ∧
  (t.core c).dmaRun = dma.map (fun r => { r with seen := r.seen ++ old }) ∧
  t.launches = s.launches.map fun e => if e.2.core = c then (e.1, { e.2 with seen := e.2.seen ++ old }) else e

/-- Nothing outside one group and its core's local memory has changed, but that descriptors and launches of the core under
way note what was written. -/
def GroupAndLmOnly (s t : State) (c g : Nat) : Prop :=
  { t with cores := s.cores, launches := s.launches } = s ∧ (∀ k, k ≠ c → t.core k = s.core k) ∧
  { t.core c with groups := (s.core c).groups, lm := (s.core c).lm, mxRun := (s.core c).mxRun
                  dmaRun := (s.core c).dmaRun } = s.core c ∧ (∀ k, k ≠ g → t.grp c k = s.grp c k) ∧
  ∃ ws, Stored s t c (s.core c).mxRun (s.core c).dmaRun ws

/-- A local access whose every acting lane is aligned, inside local memory and, for a write, below the code region. -/
def LocalOk (s : State) (c g w : Nat) (write : Bool) : Prop :=
  fWide w = false ∧ ∀ l ∈ accLanes (s.grp c g) w, localFault (s.core c) (s.grp c g) w write l = none

/-- The atomic instructions and their opcodes (Table 8-2). -/
def atomInstr (op : AtomOp) (c : Fin 272) (g : Fin 16) (e : Ecc) : Instr :=
  match op with
  | .add => .atomAdd c g e
  | .minS => .atomMinS c g e
  | .maxS => .atomMaxS c g e
  | .minU => .atomMinU c g e
  | .maxU => .atomMaxU c g e
  | .and => .atomAnd c g e
  | .or => .atomOr c g e
  | .xor => .atomXor c g e
  | .xchg => .atomXchg c g e
  | .cas => .atomCas c g e
  | .fadd => .atomFadd c g e

/-- Opcode of an atomic. -/
def atomCode : AtomOp → Nat
  | .add => 0x42
  | .minS => 0x43
  | .maxS => 0x44
  | .minU => 0x45
  | .maxU => 0x46
  | .and => 0x47
  | .or => 0x48
  | .xor => 0x49
  | .xchg => 0x4A
  | .cas => 0x4B
  | .fadd => 0x4C

/-- A word of `n` bits after the lanes `ls` of an atomic have acted on it one after another. -/
def atomAfter (op : AtomOp) (x : Group) (w n old : Nat) (ls : List Nat) : Nat :=
  ls.foldl (fun v l => atomApply op n v (x.rdN (fRb w) l (dataRegs (fCond w))) (x.rdN (fRc w) l (dataRegs (fCond w)))) old

/-- The request that a part of a device access makes: lane, address and kind. -/
def partReq (s : State) (c g w : Nat) (p : Nat × Nat × ReqKind) : Req :=
  { src := .group c g (s.grp c g).nextAcc p.1, kind := p.2.2, addr := (homeOf s p.2.1).backing, len := accBytes w
    cls := s.coreClass c }

/-- A device access that nothing holds back: the group is not sending one begun before, no lane traps, no part of it lies in
control space, no limit, no full or held slice and no line that the host has still to give back stops any of its requests.
`parts` lists them. -/
def SendsNow (s : State) (c g w : Nat) (retire : Bool) (parts : List (Nat × Nat × ReqKind)) : Prop :=
  (s.grp c g).sending = none ∧ (∀ a ∈ (s.grp c g).outst, a.id ≠ (s.grp c g).nextAcc) ∧
  (∀ l ∈ accLanes (s.grp c g) w, deviceFault s (s.grp c g) w retire l = none) ∧
  (∀ p ∈ parts, isControl p.2.1 = false) ∧
  ∀ p ∈ parts, let n := (homeOf s p.2.1).slice
    outstanding s (clusterOf c) (s.coreClass c) + parts.length ≤ sliceLimit s 0 n (s.coreClass c) ∧
    sliceHeld s n = false ∧ (s.slice n).held = [] ∧ awaitsHost s (partReq s c g w p) = false ∧
    sliceRoom s n (s.coreClass c) (parts.filter fun q => (homeOf s q.2.1).slice == n).length = true

/-- The access record that a group keeps of what it has sent: `parts` requests in all, those of `unsent` still to go. -/
def accOf (x : Machine.Group) (w : Nat) (load : Bool) (regs left : Nat) (unsent : List (Nat × Req)) : DevAcc :=
  { id := x.nextAcc, pc := x.pc, rd := fRd w, regs := regs, size := accBytes w, sext := fImmBit w, load := load
    left := left, got := [], err := none, unsent := unsent }

/-- Slice `n` has these requests more at the end of its input queue, which its highest use follows (R257), and is otherwise as
it was. -/
def Queued (s t : State) (n : Nat) (rs : List Req) : Prop :=
  let sl := { s.slice n with inq := (s.slice n).inq ++ rs }
  { t.slice n with peak := (s.slice n).peak } = sl ∧
  ∀ k, k < 8 → tget 0 (t.slice n).peak k =
    if rs = [] then tget 0 (s.slice n).peak k
    else max (tget 0 (s.slice n).peak k) (partUse sl.inUse (resvEntries s 3 n) k)

/-- The outcome of a device access that is sent: each home slice has its requests at the end of its input queue in the
order of the parts; the group notes the access, which owes an answer for each part, and goes on. -/
def Sends (o : Host.Outcome State Fault Refusal) (s : State) (c g w : Nat) (load : Bool) (regs : Nat)
    (parts : List (Nat × Nat × ReqKind)) : Prop :=
  let x := s.grp c g
  ∃ t, o = .next t ∧ { t with cores := s.cores, slices := s.slices } = s ∧
    (∀ k, k ≠ c → t.core k = s.core k) ∧ { t.core c with groups := (s.core c).groups } = s.core c ∧
    (∀ k, k ≠ g → t.grp c k = s.grp c k) ∧
    (∀ n, Queued s t n ((parts.filter fun p => (homeOf s p.2.1).slice == n).map (partReq s c g w))) ∧
    t.grp c g = { x with
      pc := x.pc + 8, stall := .none, skipBp := false, nextAcc := x.nextAcc + 1
      outst := x.outst ++ [accOf x w load regs parts.length []] }

/-- The outcome of a device access with a first request that its cluster's limit stops (R258): nothing has gone, the group
tries again, and the wait is counted. -/
def HeldBack (o : Host.Outcome State Fault Refusal) (s : State) (c g w : Nat) (load : Bool) (regs : Nat)
    (parts : List (Nat × Nat × ReqKind)) : Prop :=
  let x := s.grp c g
  ∃ t, o = .next t ∧ { t with cores := s.cores, reg := s.reg } = s ∧
    (∀ k, k ≠ c → t.core k = s.core k) ∧ { t.core c with groups := (s.core c).groups } = s.core c ∧
    (∀ k, k ≠ g → t.grp c k = s.grp c k) ∧
    t.reg = { s.reg with held := tupd 0 s.reg.held (s.coreClass c) fun n => (n + 1) % 2 ^ 32 } ∧
    t.grp c g = { x with
      stall := .retry, nextAcc := x.nextAcc + 1
      outst := x.outst ++ [accOf x w load regs parts.length
        (parts.map fun p => ((homeOf s p.2.1).slice, partReq s c g w p))] }

/-- Nothing outside one group and one fragment bank of its core has changed, but that A0 is taken for some cycles (R109). -/
def GroupAndBankOnly (s t : State) (c g j cycles : Nat) : Prop :=
  { t with cores := s.cores } = s ∧ (∀ k, k ≠ c → t.core k = s.core k) ∧
  { t.core c with groups := (s.core c).groups, banks := (s.core c).banks, a0Free := (s.core c).a0Free } = s.core c ∧
  (t.core c).a0Free = max s.now (s.core c).a0Free + cycleTicks cycles ∧
  (∀ k, k ≠ g → t.grp c k = s.grp c k) ∧ ∀ k, k ≠ j → (t.core c).bankAt k = (s.core c).bankAt k

/-- A group that does nothing but go on. -/
def Group.passes (x : Machine.Group) : Machine.Group := { x with pc := x.pc + 8, stall := .none, skipBp := false }

/-! ### The memory system -/

/-- Nothing outside slices, memory controllers, memory, the host-line directory and the event log has changed. -/
def MemoryOnly (s t : State) : Prop :=
  { t with slices := s.slices, bcs := s.bcs, lps := s.lps, mem := s.mem, pages := s.pages, ctrs := s.ctrs, hlk := s.hlk
           evt := s.evt, fit := s.fit, out := s.out } = s

/-- The access a request came from has one answer more, with the values `vs`; one that returns nothing is over once every
part of it is answered. -/
def Answered (s t : State) (src : Src) (vs : List (Nat × Nat)) : Prop :=
  ∀ c g id lane, src = .group c g id lane → t.grp c g = { s.grp c g with
    outst := ((s.grp c g).outst.map fun a => if a.id = id then { a with left := a.left - 1, got := a.got ++ vs } else a).filter
      fun a => !(a.left == 0 && a.regs == 0 && a.err.isNone) }

/-- The access a request came from has one answer more, the bus error of this detail, which stays with its lowest lane. -/
def Failed (s t : State) (src : Src) (detail : Nat) : Prop :=
  ∀ c g id lane, src = .group c g id lane → t.grp c g = { s.grp c g with
    outst := ((s.grp c g).outst.map fun a =>
      if a.id = id then { a with
        left := a.left - 1
        err := some (match a.err with
          | some e => if e.1 ≤ lane then e else (lane, detail)
          | none => (lane, detail)) }
      else a).filter fun a => !(a.left == 0 && a.regs == 0 && a.err.isNone) }

/-- A request waits at the controller of its line, or at its slice for it. -/
def Asked (s : State) (q : MemReq) : Prop :=
  let cc := channelOf (256 * q.line)
  q ∈ (s.mc cc.1 cc.2).q ++ (s.mc cc.1 cc.2).held

/-- The host holds no line of a range of bytes. -/
def NotListed (s : State) (a n : Nat) : Prop := ∀ l ∈ lines64 a n, l ∉ s.hlk.dir

/-- The next request of slice `k` is `r`, at place `i` of its queue, and its line waits for no fill. -/
def NextAt (s : State) (k i : Nat) (r : Req) (h : Home) : Prop :=
  nextReqAt s k (fun _ => true) = some (i, r) ∧ (s.slice k).missing (r.addr / 256) = false ∧
  resolve s true r.addr = .ok h ∧ h.slice = k ∧ NotListed s r.addr r.len

/-! ### Commands -/

/-- The host may write a BAR now: the link is up, the module answers, and fewer than 4096 BAR writes fall in the last 100,000
ticks (R264, R308). -/
def BarOpen (s : State) : Prop :=
  s.hlk.up = true ∧ hostOpen s = true ∧ (recent s s.hlk.barTicks).length < 4096

/-- The entry of a command after the command has ended or begun to run. -/
def EntryIs (t : State) (e state status : Nat) : Prop := (t.entry e).state = state ∧ (t.entry e).status = status

/-- The signature of an authorised command holds (R344). -/
def authentic (s : State) (j : Job) : Bool :=
  ecdsaVerify (s.sec.op.opX, s.sec.op.opY) j.signed (rd j.args 0xB8 32) (rd j.args 0xD8 32)

/-- An authorised command in order (R344, R345): with its signature and a counter above the record's it is complete with
its effect `q`; without, it is refused, auth_fail is set, and the operator record is as it was. -/
def Authorised (s t : State) (j : Job) (q : Prop) : Prop :=
  if authentic s j = true ∧ s.sec.op.authCounter < rd j.args 0xA8 8 then EntryIs t j.entry 3 0 ∧ q
  else EntryIs t j.entry 4 (if authentic s j then 0x102 else 0x101) ∧ t.sec.authFail = true ∧ t.sec.op = s.sec.op

/-- Datagrams of the last second (R289). -/
def arrivals (s : State) : Nat := (s.hlk.mgmtTicks.filter fun t => decide (s.now < t + 1000000000)).length

/-- A message on a transport reaches the Crown: the mailbox once the module is ready, the port while it is served and
within its rate. -/
def arrives (s : State) (p : Port) : Prop :=
  match p with
  | .doe => s.hlk.up = true ∧ s.resetting = false ∧ s.boot.ready = true
  | .mgmt => mgmtOpen s = true ∧ arrivals s < 2000

/-- The state with that arrival noted. -/
def arrived (s : State) (p : Port) : State :=
  match p with
  | .doe => s
  | .mgmt => { s with hlk := { s.hlk with
      mgmtTicks := (s.hlk.mgmtTicks.filter fun t => decide (s.now < t + 1000000000)) ++ [s.now] } }

end Sys2Proof
end

