-- ==== Sys2Proof/WellFormed.lean ====
section
/-! DEFINITION. Which commands the outside can send: lengths, ranges and combinations that the operand types
alone do not rule out. exec is total on every command; these checks say which of them the spec describes. -/

namespace Sys2Proof

/-- Boot steps whose tests, training or delivery fail unit by unit (Table 14-2); what receivers meet at step 12 is given
round by round. -/
def failSteps : List Nat := [4, 6, 7, 8, 9, 13]

/-- A link width of Table 13-1 (×16, ×8, ×4) with the code of a rate it carries data at: 3 to 6 for 8, 16, 32 and
64 GT/s (HLK_STATUS.rate). -/
def linkLegal (width rate : Nat) : Bool :=
  (width == 4 || width == 8 || width == 16) && decide (3 ≤ rate) && decide (rate ≤ 6)

/-- What the outside delivers at a boot. -/
def BootEnv.wf (e : BootEnv) : Bool :=
  (e.fails.all fun f => failSteps.contains f.1) &&
  (match e.hang with
   | some h => decide (1 ≤ h.1) && decide (h.1 ≤ 14)
   | none => true) &&
  (match e.link with
   | some l => linkLegal l.1 l.2
   | none => true)

/-- Noise names symbols of the code word (1366 message and up to 128 parity symbols), each once. -/
def LpNoise.wf (n : LpNoise) : Bool :=
  (n.symbols.all fun p => decide (p.1 < 1494)) && decide ((n.symbols.map (·.1)).Nodup)

/-- Flips lie in the 295 bytes of a transfer, each byte named once; there are one to four attempts. -/
def BcEv.wf : BcEv → Bool
  | .transfer fs => decide (1 ≤ fs.length) && decide (fs.length ≤ 4) &&
      fs.all fun f => (f.all fun b => decide (b.1 < 295)) && decide ((f.map (·.1)).Nodup)
  | _ => true

/-- A weight read's event is one of its channel's. -/
def WeightEv.wf : WeightEv → Bool
  | .bonded _ ev => ev.wf
  | _ => true

/-- A host write lies inside its 256-byte command entry. -/
def inEntry (off : Nat) (bs : List Byte) : Bool := decide (1 ≤ bs.length) && decide (off + bs.length ≤ 256)

/-- The checks. A command they refuse is none that the spec describes. -/
def Instr.wf : Instr → Bool
  | .bondedRead _ ev => ev.wf
  | .bondedWrite _ ev => ev.wf
  | .launchStart _ ev => ev.wf
  | .lpddr6Read _ n => n.wf
  | .mergeDrainComplete _ n => n.wf
  | .levelCodePublish _ peaks => decide (peaks.length = 8)
  | .test5ReadComplete _ (some d) => decide (d.length = 64)
  | .hostCommandEntryWrite _ off bs => inEntry off bs
  | .hostMemRead off len => decide (1 ≤ len) && decide (off.toNat + len ≤ 2 ^ 40)
  | .hostMemWrite off bs => decide (1 ≤ bs.length) && decide (off.toNat + bs.length ≤ 2 ^ 40)
  | .configWrite off _ => decide (off.toNat % 4 = 0)
  | .registerWrite off _ => decide (off.toNat % 4 = 0)
  | .w1cClearWrite off _ _ => decide (off.toNat % 4 = 0)
  | .biResponse _ (some d) => decide (d.length = 64)
  | .linkUp w r => linkLegal w r
  | .mgmtCommand _ _ bs => decide (bs.length ≤ 248)
  | .mgmtDatagram bs => decide (bs.length ≤ 1472)
  | .mgmtControlRead _ off n => decide (off.toNat % 4 = 0) && decide (1 ≤ n) && decide (n ≤ 64)
  | .keyExchange _ x => decide (x.length = 64)
  | .hotReset _ env => env.wf
  | .moduleReset _ env => env.wf
  | .powerOnReset env => env.wf
  | .bootWatchdogExpiry env => env.wf
  | .resetNAssert _ _ env => env.wf
  | .resetNRelease env => env.wf
  | .warmResetCrownTimeout env => env.wf
  | .flashPulseEnd env => env.wf
  | .fatalResetTimer env => env.wf
  | .descriptorComplete _ (some r) => decide (r < 4096)
  | .dmaComplete _ (some r) => decide (r < 4096)
  | _ => true

end Sys2Proof
end

