-- ==== Sys2Proof/Certificates/Slice0/Obligations.lean ====
section
/-! DEFINITION. The statements for the provers, one definition each. -/

open Sys2Proof Sys2Proof.Machine

/-! ### The queue and the whole machine -/

/-- A step with a command waiting is exec of the command at the front with the queue's rest; on an empty queue the module idles,
and only the intake counter moves (the model's choice, log 1). No command changes the queue of those that wait behind it, or
the delivered floor plan. -/
def Obligations.StepRunsTheFrontCommand : Prop :=
  (∀ (s : State) (c : Instr), step { s with pending := c :: s.pending } = exec c { s with pending := s.pending }) ∧
  (∀ s : State, s.pending = [] → ∃ n, step s = .next { s with now := s.now + n } ∧ n ≤ 4) ∧
  ∀ (c : Instr) (s t : State), exec c s = .next t → t.pending = s.pending ∧ t.flp.delivered = s.flp.delivered

/-- At a cold reset the invariant holds and no command waits. -/
def Obligations.ResetKeepsItsForm : Prop := Inv State.reset ∧ State.reset.pending = []

/-- Every step keeps the invariant: bonded DRAM stays in the model's one canonical form (log 4), and every unit of the floor plan
has a state code that Table 1-8 uses for units of its type. -/
def Obligations.EveryStepKeepsTheInvariant : Prop :=
  ∀ s t : State, Inv s → step s = .next t → Inv t

/-! ### Integer and FP32 instructions -/

/-- The integer instructions, ISETP, SEL and MOV (R161, Table 8-4), at either width: wrapping sums and differences, the low
half of a product, the high 32 bits of an unsigned or a signed product, shifts by the low 5 or 6 bits of the count. The FP32
instructions of R88 write the value of the model's IEEE operation of that name on the source words. -/
def Obligations.IntegerAndFloat : Prop :=
  ∀ (s : State) (c : Fin 272) (g : Fin 16) (w : Nat), Issues s c g w →
    (major w = 0x01 → Computes (exec (.iadd c g .ok) s) s c g w fun _ a b _ => a + b) ∧
    (major w = 0x02 → Computes (exec (.isub c g .ok) s) s c g w fun _ a b _ => a - b) ∧
    (major w = 0x03 → Computes (exec (.imul c g .ok) s) s c g w fun _ a b _ => a * b) ∧
    (major w = 0x04 → Computes (exec (.imulhiU c g .ok) s) s c g w fun n a b _ =>
      BitVec.extractLsb' n n (a.zeroExtend (2 * n) * b.zeroExtend (2 * n))) ∧
    (major w = 0x05 → Computes (exec (.imulhiS c g .ok) s) s c g w fun n a b _ =>
      BitVec.extractLsb' n n (a.signExtend (2 * n) * b.signExtend (2 * n))) ∧
    (major w = 0x06 → Computes (exec (.and c g .ok) s) s c g w fun _ a b _ => a &&& b) ∧
    (major w = 0x07 → Computes (exec (.or c g .ok) s) s c g w fun _ a b _ => a ||| b) ∧
    (major w = 0x08 → Computes (exec (.xor c g .ok) s) s c g w fun _ a b _ => a ^^^ b) ∧
    (major w = 0x09 → Computes (exec (.shl c g .ok) s) s c g w fun n a b _ => a <<< (b.toNat % n)) ∧
    (major w = 0x0A → Computes (exec (.shr c g .ok) s) s c g w fun n a b _ => a >>> (b.toNat % n)) ∧
    (major w = 0x0B → Computes (exec (.sar c g .ok) s) s c g w fun n a b _ => a.sshiftRight (b.toNat % n)) ∧
    (major w = 0x0C → Computes (exec (.iminS c g .ok) s) s c g w fun _ a b _ => if a.slt b then a else b) ∧
    (major w = 0x0D → Computes (exec (.imaxS c g .ok) s) s c g w fun _ a b _ => if a.slt b then b else a) ∧
    (major w = 0x0E → Computes (exec (.iminU c g .ok) s) s c g w fun _ a b _ => if a.ult b then a else b) ∧
    (major w = 0x0F → Computes (exec (.imaxU c g .ok) s) s c g w fun _ a b _ => if a.ult b then b else a) ∧
    (major w = 0x10 → Computes (exec (.isetp c g .ok) s) s c g w fun _ a b _ =>
      let holds := match fCond w with
        | 0 => a == b
        | 1 => a != b
        | 2 => a.slt b
        | 3 => a.sle b
        | 4 => b.slt a
        | 5 => b.sle a
        | 6 => a.ult b
        | _ => b.ule a
      if holds then 1 else 0) ∧
    (major w = 0x11 → Computes (exec (.sel c g .ok) s) s c g w fun _ a b d => if a = 0 then d else b) ∧
    (major w = 0x12 → Computes (exec (.mov c g .ok) s) s c g w fun _ a _ _ => a) ∧
    let at32 := fun (f : Word → Word → Word → Word) (n : Nat) (a b d : BitVec n) =>
      (f (a.setWidth 32) (b.setWidth 32) (d.setWidth 32)).setWidth n
    (major w = 0x20 → Computes (exec (.fadd c g .ok) s) s c g w (at32 fun a b _ => fadd32 a b)) ∧
    (major w = 0x21 → Computes (exec (.fsub c g .ok) s) s c g w (at32 fun a b _ => fsub32 a b)) ∧
    (major w = 0x22 → Computes (exec (.fmul c g .ok) s) s c g w (at32 fun a b _ => fmul32 a b)) ∧
    (major w = 0x23 → Computes (exec (.ffma c g .ok) s) s c g w (at32 fun a b d => fma32 a b d)) ∧
    (major w = 0x24 → Computes (exec (.fmin c g .ok) s) s c g w (at32 fun a b _ => fminmax32 false a b)) ∧
    (major w = 0x25 → Computes (exec (.fmax c g .ok) s) s c g w (at32 fun a b _ => fminmax32 true a b)) ∧
    (major w = 0x26 → Computes (exec (.fsetp c g .ok) s) s c g w (at32 fun a b _ => if fcond (fCond w) a b then 1 else 0))

/-- CVT and CVT.SCALE (R163): each written lane gets its converted value, and CVT ORs the flags of the lanes it converts
into CORE_NUMFLAGS, counting a write-back that set any. -/
def Obligations.Conversions : Prop :=
  ∀ (s : State) (c : Fin 272) (g : Fin 16) (w : Nat), Issues s c g w →
    let x := s.grp c g
    (major w = 0x29 → Computes (exec (.cvtScale c g .ok) s) s c g w fun n a _ _ =>
      (scaleTo32 (a.toNat % 256)).setWidth n) ∧
    (major w = 0x28 → ∃ t, exec (.cvt c g .ok) s = .next t ∧ { t with cores := s.cores } = s ∧
      (∀ k, k ≠ c.val → t.core k = s.core k) ∧ (∀ k, k ≠ g.val → t.grp c k = s.grp c k) ∧ StepsOn x (t.grp c g) ∧
      Written x (t.grp c g) (fRd w) 1 (fun l => (cvtLane w (x.rdN (fRa w) l 1)).1) ∧
      let fl := ((if selU (fRd w) then [0] else lanes x.mask).foldl
        (fun f l => f ||| (cvtLane w (x.rdN (fRa w) l 1)).2) 0) % 16
      { t.core c with groups := (s.core c).groups } =
        { s.core c with numFlags := (s.core c).numFlags ||| fl
                        flagSets := if fl = 0 then (s.core c).flagSets else satInc 8 (s.core c).flagSets })

/-! ### Memory instructions -/

/-- A local LD (R164) writes each acting lane's bytes, little-endian, extended where the size is below 4 bytes.
A local ST (R139, R164) writes each active lane's bytes where no higher active lane writes, and no other byte.
A local atomic (R142): at each address the acting lanes are applied in ascending lane order; each lane reads what the
lanes below it at its address left; every byte at no lane's address is as before. -/
def Obligations.LocalAccesses : Prop :=
  (
  ∀ (s : State) (c : Fin 272) (g : Fin 16) (w : Nat), Issues s c g w → major w = 0x40 → LocalOk s c g w false →
    let x := s.grp c g
    ∃ t, exec (.ld c g .ok) s = .next t ∧ GroupOnly s t c g ∧ StepsOn x (t.grp c g) ∧
      Written x (t.grp c g) (fRd w) (dataRegs (fCond w)) fun l =>
        let v := leNat (mread (s.core c).lm (eaLocal x w l) (accBytes w))
        if accBytes w < 4 ∧ fImmBit w then ((BitVec.ofNat (8 * accBytes w) v).signExtend 32).toNat else v) ∧
  (
  ∀ (s : State) (c : Fin 272) (g : Fin 16) (w : Nat), Issues s c g w → major w = 0x41 → LocalOk s c g w true →
    let x := s.grp c g
    let n := accBytes w
    let active := fun l => l < 32 ∧ x.mask.getLsbD l = true
    ∃ t, exec (.st c g .ok) s = .next t ∧ GroupAndLmOnly s t c g ∧
      t.grp c g = { x with pc := x.pc + 8, stall := .none, skipBp := false } ∧
      (∀ a, (∀ l, active l → a < eaLocal x w l ∨ eaLocal x w l + n ≤ a) →
        mget (t.core c).lm a = mget (s.core c).lm a) ∧
      ∀ l i, active l → i < n →
        (∀ k, active k → l < k → eaLocal x w l + i < eaLocal x w k ∨ eaLocal x w k + n ≤ eaLocal x w l + i) →
        mget (t.core c).lm (eaLocal x w l + i) =
          BitVec.ofNat 8 (x.rdN (fRb w) l (dataRegs (fCond w)) / 256 ^ i)) ∧
  (
  ∀ (s : State) (c : Fin 272) (g : Fin 16) (w : Nat) (op : AtomOp), Issues s c g w → major w = atomCode op →
    LocalOk s c g w true →
    let x := s.grp c g
    let ls := accLanes x w
    let n := accBytes w
    let at' := fun l => ls.filter fun k => eaLocal x w k == eaLocal x w l
    let old := fun l => leNat (mread (s.core c).lm (eaLocal x w l) n)
    ∃ t, exec (atomInstr op c g .ok) s = .next t ∧ GroupAndLmOnly s t c g ∧ StepsOn x (t.grp c g) ∧
      (∀ l ∈ ls, leNat (mread (t.core c).lm (eaLocal x w l) n) = atomAfter op x w (8 * n) (old l) (at' l)) ∧
      (∀ a, (∀ l ∈ ls, a < eaLocal x w l ∨ eaLocal x w l + n ≤ a) →
        mget (t.core c).lm a = mget (s.core c).lm a) ∧
      Written x (t.grp c g) (fRd w) (if fNoRet w then 0 else dataRegs (fCond w)) fun l =>
        atomAfter op x w (8 * n) (old l) ((at' l).filter fun k => decide (k < l)))

/-- A device LD, ST, atomic or CACHE.RETIRE that nothing holds back sends its requests to their home slices and goes on;
atomics and retires send one request for each address or line, from its lowest lane (R141, R142, R164, R165). One whose first
request its cluster's limit stops sends nothing yet and is tried again (R258), and a group that is still sending sends what is
left; of lanes that may not access their address, the lowest traps. A load or store of one lane in control space takes effect
at once (7.3, R43). -/
def Obligations.DeviceAccesses : Prop :=
  ∀ (s : State) (c : Fin 272) (g : Fin 16) (w : Nat), Issues s c g w → fWide w = true → accLanes (s.grp c g) w ≠ [] →
    let x := s.grp c g
    let ls := accLanes x w
    let cls := s.coreClass c
    let loads := ls.map fun l => (l, eaDevice x w l, ReqKind.read)
    let stores := ls.map fun l => (l, eaDevice x w l, ReqKind.write (storeBytes x w l))
    let atoms := fun op => (atomGroups (eaDevice x w) (atomArgs x w ls)).map fun a =>
      ((a.2.head?.map (·.1)).getD 0, a.1, ReqKind.atomic op a.2)
    let retires := ((ls.map fun l => eaDevice x w l / 256).eraseDups).map fun L =>
      ((ls.find? fun l => eaDevice x w l / 256 == L).getD 0, 256 * L, ReqKind.retire)
    let fresh := x.sending = none ∧ ∀ a ∈ x.outst, a.id ≠ x.nextAcc
    let form := fun (o : Host.Outcome State Fault Refusal) (load retire : Bool) (regs : Nat)
        (parts : List (Nat × Nat × ReqKind)) =>
      (SendsNow s c g w retire parts → Sends o s c g w load regs parts) ∧
      (∀ p, fresh → (∀ l ∈ ls, deviceFault s x w retire l = none) → (∀ q ∈ parts, isControl q.2.1 = false) →
        parts.head? = some p → sliceLimit s 0 (homeOf s p.2.1).slice cls ≤ outstanding s (clusterOf c) cls →
        HeldBack o s c g w load regs parts) ∧
      (∀ (a : DevAcc) (n : Nat) (r : Req), x.sending = some a → a.unsent = [(n, r)] →
        withinLimit s (clusterOf c) cls n = true → sliceHeld s n = false →
        sliceRoom s n cls 1 = true → r.cls = cls → (s.slice n).held = [] → awaitsHost s r = false → limitHolds s n r = false →
        ∃ t, o = .next t ∧ { t with cores := s.cores, slices := s.slices } = s ∧ Queued s t n [r] ∧
          (∀ k, k ≠ n → t.slice k = s.slice k) ∧ (∀ k, k ≠ g → t.grp c k = s.grp c k) ∧
          (∀ k, k ≠ c.val → t.core k = s.core k) ∧ { t.core c with groups := (s.core c).groups } = s.core c ∧
          t.grp c g = { Group.passes x with outst := x.outst.map fun b => if b.id = a.id then { b with unsent := [] } else b }) ∧
      ∀ l code d, x.sending = none → l ∈ ls → deviceFault s x w retire l = some (code, d) →
        (∀ k ∈ ls, k < l → deviceFault s x w retire k = none) → o = .next (takeTrap s c g code d l 0)
    (major w = 0x40 → form (exec (.ld c g .ok) s) true false (dataRegs (fCond w)) loads) ∧
    (major w = 0x41 → form (exec (.st c g .ok) s) false false 0 stores) ∧
    (∀ op, major w = atomCode op →
      form (exec (atomInstr op c g .ok) s) false false (if fNoRet w then 0 else dataRegs (fCond w)) (atoms op)) ∧
    (major w = 0x4F → form (exec (.cacheRetire c g .ok) s) false true 0 retires) ∧
    ∀ l, ls = [l] → fresh → isControl (eaDevice x w l) = true → deviceFault s x w false l = none →
      let off := eaDevice x w l - 0xF000000000
      let ends := fun (u : State) (more : List DevAcc) => u.updGrp c g fun y =>
        { Group.passes y with nextAcc := y.nextAcc + 1, outst := y.outst ++ more }
      (major w = 0x40 → exec (.ld c g .ok) s = .next (ends (loadCtl s off (accBytes w)).2
        [{ accOf x w true (dataRegs (fCond w)) 0 [] with got := [(l, leNat (loadCtl s off (accBytes w)).1)] }])) ∧
      (major w = 0x41 → kvCmdStream (eaDevice x w l) = none →
        exec (.st c g .ok) s = .next (ends (storeCtl s off (storeBytes x w l)) []))

/-- A local access of a lane that is misaligned, past local memory or a write into the code region takes the trap of that
lane, the lowest first (7.3).
FENCE.D goes on once every earlier store, atomic and retire of the group has been accepted at its home, and waits
until then (R141). -/
def Obligations.LocalFaultsAndFences : Prop :=
  (
  ∀ (s : State) (c : Fin 272) (g : Fin 16) (w : Nat) (l code : Nat), Issues s c g w → fWide w = false →
    l ∈ accLanes (s.grp c g) w → localFault (s.core c) (s.grp c g) w (decide (major w ≠ 0x40)) l = some code →
    (∀ k ∈ accLanes (s.grp c g) w, k < l → localFault (s.core c) (s.grp c g) w (decide (major w ≠ 0x40)) k = none) →
    (major w = 0x40 → exec (.ld c g .ok) s = .next (takeTrap s c g code 0 l 0)) ∧
    (major w = 0x41 → exec (.st c g .ok) s = .next (takeTrap s c g code 0 l 0)) ∧
    ∀ op, major w = atomCode op → exec (atomInstr op c g .ok) s = .next (takeTrap s c g code 0 l 0)) ∧
  (
  ∀ (s : State) (c : Fin 272) (g : Fin 16) (w : Nat), Issues s c g w → major w = 0x4E →
    let x := s.grp c g
    ∃ t, exec (.fenceD c g .ok) s = .next t ∧ GroupOnly s t c g ∧
      ((∀ a ∈ x.outst, a.load = true ∨ a.left = 0) →
        t.grp c g = { x with pc := x.pc + 8, stall := .none, skipBp := false }) ∧
      ((∃ a ∈ x.outst, a.load = false ∧ a.left ≠ 0) → t.grp c g = { x with stall := .retry }))

/-- What stops an instruction before its effect, or comes before it, whatever the effect `body` is (R138, R159, R174, 7.7): an
illegal word traps 0x01 with its opcode; an operand that still waits for a device access holds the instruction back, and
nothing changes; an uncorrectable error in a register that it reads traps 0x0C with that register; a corrected one is counted,
with its row in the quarter of the register file that holds the group, and the instruction goes on. An uncorrectable error of
local memory traps 0x0D where an acting lane meets it, and nothing is stored; a corrected one is counted. In the table banks a
corrected coefficient is counted, and an entry read again is counted, with an event, before SF.EVAL gives its value (R191). -/
def Obligations.ErrorsAndHazards : Prop :=
  ∀ (s : State) (c : Fin 272) (g : Fin 16) (w : Nat), Reaches s c g w →
    let x := s.grp c g
    let os := operandsOf (s.core c) g w
    let free := legal w = true ∧ x.hazard os = false
    let noted := fun (u : State) (kind row : Nat) =>
      let n := satInc 3 (tget 0 (s.core c).rowCorr (6 * row + kind))
      (∀ k, k ≠ c.val → u.core k = s.core k) ∧ tget 0 (u.core c).rowCorr (6 * row + kind) = n ∧
      (n ≠ 4 → u.rst = s.rst) ∧
      (n = 4 → (c.val, kind, row) ∉ s.rst.corrections → s.rst.corrections.length < 64 →
        u.rst = { s.rst with corrections := s.rst.corrections ++ [(c.val, kind, row)] })
    let seen := fun (u : State) (kind row : Nat) => noted u kind row ∧ u.evt.bits.testBit 0 = true ∧
      { u with cores := s.cores, rst := s.rst, evt := s.evt } = s ∧
      { u.core c with lmCorrected := (s.core c).lmCorrected, rowCorr := (s.core c).rowCorr } = s.core c ∧
      (u.core c).lmCorrected = satInc 16 (s.core c).lmCorrected
    (∀ (e : Ecc) (body : Body), let o := issueAs (major w) c g e s body
      (legal w = false → o = takeTrap s c g 1 (major w) 0 0) ∧
      (legal w = true → x.hazard os = true → o = s) ∧
      (free → ∀ r : Fin 128, e = .regUncorrectable r →
        (∃ p ∈ os, p.dst = false ∧ selU p.sel = false ∧ selReg p.sel ≤ r.val ∧ r.val < selReg p.sel + p.n) →
        o = takeTrap s c g 0x0C r 0 0) ∧
      (free → ∀ row, e = .regCorrected row → ∃ u, seen u (g.val % 4) row ∧ o = body u c g w e)) ∧
    (free → ∀ l : Fin 32, l.val ∈ accLanes x w →
      let bad := takeTrap s c g 0x0D 0 l 0
      (major w = 0x40 → LocalOk s c g w false → exec (.ld c g (.lmUncorrectable l)) s = .next bad) ∧
      (major w = 0x41 → LocalOk s c g w true → exec (.st c g (.lmUncorrectable l)) s = .next bad) ∧
      ∀ op, major w = atomCode op → LocalOk s c g w true → exec (atomInstr op c g (.lmUncorrectable l)) s = .next bad) ∧
    (free → ∀ row,
      (major w = 0x40 → LocalOk s c g w false →
        ∃ u, seen u 4 row ∧ exec (.ld c g (.lmCorrected row)) s = exec (.ld c g .ok) u) ∧
      (major w = 0x41 → LocalOk s c g w true →
        ∃ u, seen u 4 row ∧ exec (.st c g (.lmCorrected row)) s = exec (.st c g .ok) u) ∧
      ∀ op, major w = atomCode op → LocalOk s c g w true →
        ∃ u, seen u 4 row ∧ exec (atomInstr op c g (.lmCorrected row)) s = exec (atomInstr op c g .ok) u) ∧
    (free → major w = 0xA0 → 0x20 ≤ fRc w →
      (∀ row, ∃ u, noted u 5 row ∧ u.evt = s.evt ∧ (u.core c).sfu.corrected = satInc 16 (s.core c).sfu.corrected ∧
        exec (.sfEval c g (.tableCorrected row)) s = exec (.sfEval c g .ok) u) ∧
      ∃ u, (u.core c).sfu = { (s.core c).sfu with refetched := satInc 16 (s.core c).sfu.refetched } ∧
        u.evt.head = (s.evt.head + 1) % 4096 ∧ u.evt.bits.testBit 2 = true ∧
        { u with cores := s.cores, evt := s.evt, fit := s.fit } = s ∧
        exec (.sfEval c g .tableRefetched) s = exec (.sfEval c g .ok) u)

/-! ### Control flow, barriers and waits -/

/-- JMP, JMPC, JMPI, NOP, EPOCH.RD and TRAP (R156, R169, R170). EXIT (R145): the active lanes leave every mask; the group goes
on at the topmost entry that still has lanes, and with none left it ends. -/
def Obligations.JumpsAndExit : Prop :=
  ∀ (s : State) (c : Fin 272) (g : Fin 16) (w : Nat), Issues s c g w →
    let x := s.grp c g
    let goes := fun (o : Host.Outcome State Fault Refusal) (pc : Word) =>
      ∃ t, o = .next t ∧ GroupOnly s t c g ∧ t.grp c g = { x with pc := pc, stall := .none, skipBp := false }
    (major w = 0x81 → goes (exec (.jmp c g .ok) s) (BitVec.ofNat 32 (8 * fld w 40 24))) ∧
    (major w = 0x82 → goes (exec (.jmpc c g .ok) s)
      (if (x.reg (fRd w) 0 = 0) ↔ bit w 16 = true then BitVec.ofNat 32 (8 * fld w 40 24) else x.pc + 8)) ∧
    (major w = 0x83 → goes (exec (.jmpi c g .ok) s) (x.reg (fRd w) 0)) ∧
    (major w = 0x86 → goes (exec (.nop c g .ok) s) (x.pc + 8)) ∧
    (major w = 0x8A → ∃ t, exec (.epochRd c g .ok) s = .next t ∧ GroupOnly s t c g ∧ StepsOn x (t.grp c g) ∧
      Written x (t.grp c g) (fRd w) 1 fun _ => (s.core c).sfu.epoch % 65536 +
        (if (s.core c).sfu.compat then 0x10000 else 0) + (if (s.core c).sfu.bank then 0x20000 else 0)) ∧
    (major w = 0x85 → exec (.trap c g .ok) s = .next (takeTrap s c g 0x0E (fRd w) 0 0)) ∧
    (major w = 0x84 →
      (∀ above e below, x.stack = above ++ e :: below → (∀ a ∈ above, a.mask &&& ~~~x.mask = 0) →
        e.mask &&& ~~~x.mask ≠ 0 →
        ∃ t, exec (.exit c g .ok) s = .next t ∧ GroupOnly s t c g ∧
          t.grp c g = { x with
            pc := e.pc, mask := e.mask &&& ~~~x.mask, stop := e.stop, live := x.live &&& ~~~x.mask
            stack := below.map fun b => { b with mask := b.mask &&& ~~~x.mask }
            stall := .none, skipBp := false }) ∧
      ((∀ a ∈ x.stack, a.mask &&& ~~~x.mask = 0) → exec (.exit c g .ok) s = .next (endGroup s c g)))

/-- BRA (R144): with every active lane taken it jumps, with none it goes on; else the fall-through lanes run first, and
the entries for the reconvergence point and the taken path lie on the stack; a push past 32 entries traps 0x0B. Before any
instruction issues, the group pops its stack while its PC is the stop address, and issues from what it popped last. -/
def Obligations.DivergentBranch : Prop :=
  (∀ (s : State) (c : Fin 272) (g : Fin 16) (w : Nat), Issues s c g w → major w = 0x80 →
    let x := s.grp c g
    let tgt := BitVec.ofNat 32 (8 * fld w 40 24)
    let rpc := BitVec.ofNat 32 (8 * fld w 57 41)
    let taken := fun l => ¬((x.reg (fRd w) l = 0) ↔ bit w 16 = false)
    let active := fun l => l < 32 ∧ x.mask.getLsbD l = true
    ((∀ l, active l → taken l) → ∃ t, exec (.bra c g .ok) s = .next t ∧ GroupOnly s t c g ∧
      t.grp c g = { x with pc := tgt, stall := .none, skipBp := false }) ∧
    ((∃ l, active l) → (∀ l, active l → ¬taken l) → ∃ t, exec (.bra c g .ok) s = .next t ∧ GroupOnly s t c g ∧
      t.grp c g = { x with pc := x.pc + 8, stall := .none, skipBp := false }) ∧
    ((∃ l, active l ∧ taken l) → (∃ l, active l ∧ ¬taken l) →
      (x.stack.length ≤ 30 → ∃ t fall take, exec (.bra c g .ok) s = .next t ∧ GroupOnly s t c g ∧
        (∀ l, l < 32 → (BitVec.getLsbD fall l = true ↔ active l ∧ ¬taken l) ∧
          (BitVec.getLsbD take l = true ↔ active l ∧ taken l)) ∧
        t.grp c g = { x with
          pc := x.pc + 8, stall := .none, skipBp := false, mask := fall, stop := some rpc
          stack := ⟨tgt, take, some rpc⟩ :: ⟨rpc, x.mask, x.stop⟩ :: x.stack }) ∧
      (30 < x.stack.length → exec (.bra c g .ok) s = .next (takeTrap s c g 0x0B 0 0 0)))) ∧
  ∀ (s : State) (c : Fin 272) (g : Fin 16) (w : Nat) (above below : List StackEnt) (e : StackEnt),
    let x := s.grp c g
    let u := s.setGrp c g { x with pc := e.pc, mask := e.mask, stop := e.stop, stack := below }
    x.stack = above ++ e :: below → x.stack.length ≤ 32 → x.stop = some x.pc → (∀ a ∈ above, a.stop = some a.pc) →
    Issues u c g w →
    ∀ body : Body, issueAs (major w) c g .ok s body = body u c g w .ok

/-- BAR.SYNC and BAR.ARRIVE at an owned barrier that others of the block have still to reach (R146): the group counts as
arrived; it waits at the barrier, or goes on. The last arrival resets the barrier, and every group of the block that waits
there goes on. A part of the group's lanes traps 0x09; a barrier that the block does not own, or at which the group has
arrived, traps 0x0A.
WAIT (R167): with its test bit it writes which of the named tokens still count; without it, once every named count is
zero it writes their flags and errors, clears them and goes on, an error left for the next instruction; else it waits.
WAIT_COMPLETE does the same for a WAIT that waits. -/
def Obligations.BarriersAndTokens : Prop :=
  (
  ∀ (s : State) (c : Fin 272) (g : Fin 16) (w : Nat), Issues s c g w →
    let x := s.grp c g
    let b := fld w 10 8
    let br := (s.core c).bar b
    let arrivedCore := fun (y : Group) => (((s.core c).setGrp g y).setBar b { br with arrived := setBit br.arrived g })
    let bars := fun (p : Host.Outcome State Fault Refusal → Prop) =>
      (major w = 0x88 → p (exec (.barSync c g .ok) s)) ∧ (major w = 0x89 → p (exec (.barArrive c g .ok) s))
    let rest := fun (t : State) => { t with cores := s.cores } = s ∧ (∀ k, k ≠ c.val → t.core k = s.core k) ∧
      { t.core c with groups := (s.core c).groups, bars := (s.core c).bars } = s.core c ∧
      ∀ k, k ≠ b → (t.core c).bar k = (s.core c).bar k
    (x.mask ≠ x.live → bars fun o => o = .next (takeTrap s c g 9 b 0 0)) ∧
    (x.mask = x.live → br.owned = false ∨ br.base ≠ x.base ∨ bit x.arrived b = true →
      bars fun o => o = .next (takeTrap s c g 0x0A b 0 0)) ∧
    (x.mask = x.live → br.owned = true → br.base = x.base → bit x.arrived b = false →
      let waits := { x with stall := .barrier b, arrived := setBit x.arrived b, skipBp := false }
      let goes := { x with stall := .none, arrived := setBit x.arrived b, skipBp := false, pc := x.pc + 8 }
      let counted := fun (y : Group) => barCount (arrivedCore y) { br with arrived := setBit br.arrived g } x.size
      let arrives := fun (y : Group) (o : Host.Outcome State Fault Refusal) =>
        (counted y ≠ x.size → ∃ t, o = .next t ∧ rest t ∧ (∀ k, k ≠ g.val → t.grp c k = s.grp c k) ∧ t.grp c g = y ∧
          (t.core c).bar b = { br with arrived := setBit br.arrived g }) ∧
        (counted y = x.size → g.val ∈ x.slots → ∃ t, o = .next t ∧ rest t ∧
          (t.core c).bar b = { br with phase := !br.phase, arrived := 0 } ∧
          t.grp c g = { goes with arrived := clrBit goes.arrived b } ∧
          ∀ k, k ≠ g.val →
            let y := s.grp c k
            let z := { y with arrived := clrBit y.arrived b }
            (k ∉ x.slots ∨ y.st = .idle ∨ y.st = .draining → t.grp c k = y) ∧
            (k ∈ x.slots → y.st = .running → y.stall = .barrier b → t.grp c k = { z with stall := .none, pc := y.pc + 8 }) ∧
            (k ∈ x.slots → y.st = .halted ∨ y.st = .trapped ∨ (y.st = .running ∧ ∀ i, y.stall ≠ .barrier i) →
              t.grp c k = z))
      (major w = 0x88 → arrives waits (exec (.barSync c g .ok) s)) ∧
      (major w = 0x89 → arrives goes (exec (.barArrive c g .ok) s)))) ∧
  (
  ∀ (s : State) (c : Fin 272) (g : Fin 16) (w : Nat),
    let x := s.grp c g
    let done := fun (o : Host.Outcome State Fault Refusal) (sel m : Nat) =>
      let er := (tokensOf m).filter fun k => (x.token k).err
      ∃ t, o = .next t ∧ GroupOnly s t c g ∧
        (∀ k, (t.grp c g).token k = if k < 8 ∧ bit m k = true then {} else x.token k) ∧
        { t.grp c g with v := x.v, u := x.u, tokens := x.tokens, pend := x.pend } =
          { x with pc := x.pc + 8, stall := .none, skipBp := false } ∧
        (t.grp c g).pend = er.head?.map (fun k => (k, (x.token k).why)) ∧
        Written x (t.grp c g) sel 1 fun _ =>
          (tokensOf m).foldl (fun f k => f ||| (x.token k).flags) 0 % 16 + (if er = [] then 0 else 16) +
            256 * (er.map fun k => 2 ^ k).sum
    (Issues s c g w → major w = 0x63 → bit w 24 = true →
      ∃ t, exec (.wait c g .ok) s = .next t ∧ GroupOnly s t c g ∧ StepsOn x (t.grp c g) ∧
        Written x (t.grp c g) (fRd w) 1 fun _ =>
          (((tokensOf (fld w 23 16)).filter fun k => (x.token k).count != 0).map fun k => 2 ^ k).sum) ∧
    (Issues s c g w → major w = 0x63 → bit w 24 = false → countsZero x (fld w 23 16) = true →
      done (exec (.wait c g .ok) s) (fRd w) (fld w 23 16)) ∧
    (Issues s c g w → major w = 0x63 → bit w 24 = false → countsZero x (fld w 23 16) = false →
      ∃ t, exec (.wait c g .ok) s = .next t ∧ GroupOnly s t c g ∧
        t.grp c g = { x with stall := .tokens (fRd w) (fld w 23 16) }) ∧
    (∀ sel m, x.st = .running → x.stall = .tokens sel m → selU sel = true → selOk sel 1 1 = true → countsZero x m = true →
      done (exec (.waitComplete c g) s) sel m))

/-! ### Descriptors and launches -/

/-- MX.ISSUE, DMA.ISSUE and PALM.ISSUE of a well-placed descriptor that passes its checks (R99, R119): its 64 bytes join
the queue, its token counts one more, and the group goes on; with the queue of 16 full or the token at 15 the group waits.
A malformed descriptor traps 0x02 at its issue with its cause in CORE_DESC_ERR, and joins no queue (R98, R99). -/
def Obligations.DescriptorIssueAndErrors : Prop :=
  (
  ∀ (s : State) (c : Fin 272) (g : Fin 16) (w : Nat), Issues s c g w →
    let x := s.grp c g
    let co := s.core c
    let bytes := mread co.lm (descAddr x w) 64
    let q := fun (o : Host.Outcome State Fault Refusal) (k : Nat) (palm : Bool) (depth : Nat) (queued : QEnt → Core) =>
      descPlaceOk (descAddr x w) = true →
      (depth < 16 → (x.token k).count < 15 → ∃ t, o = .next t ∧ { t with cores := s.cores } = s ∧
        (∀ j, j ≠ c.val → t.core j = s.core j) ∧ (∀ j, j ≠ g.val → t.grp c j = s.grp c j) ∧
        { t.core c with groups := co.groups } = queued { grp := g, bytes := bytes, palm := palm, bad := false } ∧
        { t.grp c g with tokens := x.tokens } = { x with pc := x.pc + 8, stall := .none, skipBp := false } ∧
        ∀ j, (t.grp c g).token j =
          if j = k then { x.token k with count := (x.token k).count + 1 } else x.token j) ∧
      (16 ≤ depth ∨ 15 ≤ (x.token k).count →
        ∃ t, o = .next t ∧ GroupOnly s t c g ∧ t.grp c g = { x with stall := .retry })
    (major w = 0x60 → checkMx bytes (4096 * co.codeBase) = none →
      q (exec (.mxIssue c g .ok) s) (fld (rd bytes 3 1) 6 4) false co.mq.length fun e => { co with mq := co.mq ++ [e] }) ∧
    (major w = 0x61 → checkDma bytes (4096 * co.codeBase) = none →
      q (exec (.dmaIssue c g .ok) s) (fld (rd bytes 1 1) 6 4) false co.dq.length fun e => { co with dq := co.dq ++ [e] }) ∧
    (major w = 0x62 → q (exec (.palmIssue c g .ok) s) (fld (rd bytes 1 1) 6 4) true co.dq.length fun e => { co with dq := co.dq ++ [e] })) ∧
  (
  ∀ (s : State) (c : Fin 272) (g : Fin 16) (w cause : Nat), Issues s c g w →
    let bytes := mread (s.core c).lm (descAddr (s.grp c g) w) 64
    let limit := 4096 * (s.core c).codeBase
    (descPlaceOk (descAddr (s.grp c g) w) = false →
      (major w = 0x60 → exec (.mxIssue c g .ok) s = .next (descTrap s c g 2 7)) ∧
      (major w = 0x61 → exec (.dmaIssue c g .ok) s = .next (descTrap s c g 2 7)) ∧
      (major w = 0x62 → exec (.palmIssue c g .ok) s = .next (descTrap s c g 2 7))) ∧
    (descPlaceOk (descAddr (s.grp c g) w) = true →
      (major w = 0x60 → checkMx bytes limit = some cause →
        exec (.mxIssue c g .ok) s = .next (descTrap s c g 2 cause)) ∧
      (major w = 0x61 → checkDma bytes limit = some cause →
        exec (.dmaIssue c g .ok) s = .next (descTrap s c g 2 cause))))

/-- The heads of the queues start (R96, R109, R110): a matrix-queue descriptor, where its predecessor has the same kind
and mode or has ended and A0 is free for it; a DMA descriptor, where the engine is free. -/
def Obligations.DescriptorsStart : Prop :=
  ∀ (s : State) (c : Fin 272) (e : QEnt) (rest : List QEnt), s.coreRuns c = true →
    let co := s.core c
    let only := fun (o : Host.Outcome State Fault Refusal) (co' : Core) =>
      ∃ t, o = .next t ∧ { t with cores := s.cores } = s ∧ (∀ k, k ≠ c.val → t.core k = s.core k) ∧ t.core c = co'
    (co.mq = e :: rest → (co.lastKind = none ∨ co.lastKind = some e.shape ∨ co.mxRun = []) →
      (bit (parseMx e.bytes).mask 0 = false ∨ a0Busy s c = false) →
      only (exec (.descriptorStart c) s) { co with
        mq := rest, mxRun := co.mxRun ++ [{ ent := e, since := s.now }], lastKind := some e.shape
        mode := if (parseMx e.bytes).ew then co.mode else (parseMx e.bytes).mode }) ∧
    (co.dq = e :: rest → e.palm = false → co.dmaRun = [] →
      only (exec (.dmaStart c) s) { co with dq := rest, dmaRun := [{ ent := e }] })

/-- FRAG.OPEN, FRAG.LDB and FRAG.MMA of a group with every lane active, A0 free (R107, R108, R168): a free bank is claimed
and zeroed; the held bank gets its tile from the registers; the products of the tile set off to the bank. A0 is taken for the
cycles of Table 5-4. -/
def Obligations.FragmentsToTheBank : Prop :=
  ∀ (s : State) (c : Fin 272) (g : Fin 16) (w j : Nat), Issues s c g w → (s.grp c g).mask = 0xFFFFFFFF →
    a0Desc s c = false →
    let x := s.grp c g
    let b := (s.core c).bankAt j
    let r := selReg (fRd w)
    let sets := fun (o : Host.Outcome State Fault Refusal) (cycles : Nat) (b' : Bank) =>
      ∃ t, o = .next t ∧ GroupAndBankOnly s t c g j cycles ∧ t.grp c g = Group.passes x ∧ (t.core c).bankAt j = b'
    (major w = 0x70 → heldBank (s.core c) g = none →
      (List.range 2).find? (fun k => ((s.core c).bankAt k).owner.isNone) = some j →
      sets (exec (.fragOpen c g .ok) s) 1
        { owner := some g, m := fld w 12 8 + 1, n := fld w 20 16 + 1, fmtA := fld w 27 24, fmtB := fld w 31 28 }) ∧
    (major w = 0x71 → heldBank (s.core c) g = some j → (b.fmtA = 0 ∨ r + fragRegs b.fmtA (fld w 20 16 + 1) ≤ 128) →
      sets (exec (.fragLdb c g .ok) s) (32 * fragRate b.fmtA)
        { b with k := fld w 20 16 + 1
                 tile := some ((List.range b.n).map fun t => fragElems x r t b.fmtA (fld w 20 16 + 1)) }) ∧
    (major w = 0x72 → heldBank (s.core c) g = some j → b.tile.isSome = true → r + fragRegs b.fmtB b.k ≤ 128 →
      sets (exec (.fragMma c g .ok) s) (max 32 (b.m * fragRate b.fmtA))
        { b with flight := b.flight ++
            [(nextFlight (s.core c), fragProducts b ((List.range b.m).map fun t => fragElems x r t b.fmtB b.k))] } ∧
        ∀ i e, i < 2 → e ∈ ((s.core c).bankAt i).flight → e.1 < nextFlight (s.core c))

/-- FRAG_MMA_RESULT adds to its bank the products that started first among those on their way (R107); FRAG.ROUND of a bank with
none on their way writes row t of the bank, rounded, to thread t, ORs the flags into CORE_NUMFLAGS and its u register, and
zeroes the bank or gives it back (R168). What threads at or beyond M receive is left open. -/
def Obligations.FragmentsFromTheBank : Prop :=
  (∀ (s : State) (c : Fin 272) (j : Nat) (f : Nat × Tab Acc) (fs : List (Nat × Tab Acc)), j < 2 →
    ((s.core c).bankAt j).flight = f :: fs →
    (∀ i e, i < 2 → i ≠ j → ((s.core c).bankAt i).flight.head? = some e → f.1 < e.1) →
    ∃ t, exec (.fragMmaResult c) s = .next t ∧ { t with cores := s.cores } = s ∧
      (∀ k, k ≠ c.val → t.core k = s.core k) ∧ { t.core c with banks := (s.core c).banks } = s.core c ∧
      (∀ k, k ≠ j → (t.core c).bankAt k = (s.core c).bankAt k) ∧
      (t.core c).bankAt j = { (s.core c).bankAt j with
        flight := fs
        acc := f.2.foldl (fun a e => tupd {} a e.1 fun v => v.combine (family ((s.core c).bankAt j).fmtA) e.2)
          ((s.core c).bankAt j).acc }) ∧
  ∀ (s : State) (c : Fin 272) (g : Fin 16) (w j : Nat), Issues s c g w → major w = 0x73 →
    (s.grp c g).mask = 0xFFFFFFFF → a0Desc s c = false → heldBank (s.core c) g = some j →
    let x := s.grp c g
    let b := (s.core c).bankAt j
    let r := selReg (fRd w)
    let fmt := fld w 27 24
    let n := roundRegs fmt b.n
    let fl := (List.range b.m).foldl (fun f i => f ||| (roundRow b fmt i).2) 0
    b.flight = [] → r + n ≤ 128 → b.m ≤ 32 →
    ∃ t, exec (.fragRound c g .ok) s = .next t ∧
      (∀ k, k ≠ c.val → t.core k = s.core k) ∧ (∀ k, k ≠ g.val → t.grp c k = s.grp c k) ∧
      (∀ k, k ≠ j → (t.core c).bankAt k = (s.core c).bankAt k) ∧
      (t.core c).bankAt j = (if bit w 28 then { b with acc := [] } else {}) ∧
      { t.grp c g with v := x.v, u := x.u } = Group.passes x ∧
      (fmt = 0 → ∀ i k, i < b.m → k < b.n → (t.grp c g).getV (r + k) i = BitVec.ofNat 32 ((roundRow b fmt i).1.getD k 0)) ∧
      (fmt ≠ 0 → ∀ i k, i < b.m → 2 * k + 1 < b.n → (t.grp c g).getV (r + k) i =
        BitVec.ofNat 32 ((roundRow b fmt i).1.getD (2 * k) 0 + 65536 * (roundRow b fmt i).1.getD (2 * k + 1) 0)) ∧
      (∀ q l, l < 32 → (q < r ∨ r + n ≤ q) → (t.grp c g).getV q l = x.getV q l) ∧
      (∀ q, (t.grp c g).getU q = if q = selReg (fRa w) then BitVec.ofNat 32 fl else x.getU q) ∧
      (t.core c).numFlags = (s.core c).numFlags ||| fl % 16

/-- SF.EVAL and ROWSTAT (R171, R172, R194): the result of the model's function in the destination, its flags ORed into
CORE_NUMFLAGS, and the count of evaluations or rows. A free value an evaluation may need is drawn for each lane. -/
def Obligations.SpecialFunctions : Prop :=
  ∀ (s : State) (c : Fin 272) (g : Fin 16) (w : Nat), Issues s c g w →
    let x := s.grp c g
    let co := s.core c
    let lane := fun l => sfLane co.sfu (fRc w) (x.reg (fRa w) l) (if fRc w = 9 then x.reg (fRb w) l else 0)
      (Config.freeWord (s.freeCtr + l))
    let a := (x.reg (fRa w) 0).toNat
    let n := (x.reg (fRb w) 0).toNat
    let e := if fld w 39 36 = 1 then 2 else 4
    let row := rowStat (fld w 35 32) (rowElems co.lm (fld w 39 36 == 1) a n) (x.reg (fRd w + 1) 0)
    let flags := fun (sf : Sfu) (fl : Nat) => { co with
      sfu := sf, numFlags := co.numFlags ||| fl % 16
      flagSets := if fl % 16 = 0 then co.flagSets else satInc 8 co.flagSets }
    (major w = 0xA0 → ∃ t, exec (.sfEval c g .ok) s = .next t ∧
      { t with cores := s.cores, freeCtr := s.freeCtr } = s ∧
      (∀ k, k ≠ c.val → t.core k = s.core k) ∧ (∀ k, k ≠ g.val → t.grp c k = s.grp c k) ∧ StepsOn x (t.grp c g) ∧
      Written x (t.grp c g) (fRd w) 1 (fun l => (lane l).1.toNat) ∧
      { t.core c with groups := co.groups } = flags { co.sfu with evals := (co.sfu.evals + 1) % 2 ^ 32 }
        ((if selU (fRd w) then [0] else lanes x.mask).foldl (fun f l => f ||| (lane l).2) 0)) ∧
    (major w = 0xA8 → 0 < n → n ≤ 65536 → a + n * e ≤ 0x100000 → a % e = 0 →
      ∃ t, exec (.rowstat c g .ok) s = .next t ∧ { t with cores := s.cores } = s ∧
      (∀ k, k ≠ c.val → t.core k = s.core k) ∧ (∀ k, k ≠ g.val → t.grp c k = s.grp c k) ∧ StepsOn x (t.grp c g) ∧
      Written x (t.grp c g) (fRd w) 2 (fun _ => row.1.toNat + 2 ^ 32 * row.2.1.toNat) ∧
      { t.core c with groups := co.groups } = flags { co.sfu with rows := (co.sfu.rows + 1) % 2 ^ 32 } row.2.2)

/-! ### Groups and blocks -/

/-- INSTRUCTION_FETCH and GROUP_DRAIN_END complete in every state, whatever it holds. INSTRUCTION_FETCH (R158): a group that
may issue and has no descriptor error to take first leaves the divergence paths that end at its PC; if its PC then lies in
the code region at a multiple of 8, the 64-byte unit of the PC comes to the front of the fetch buffer as local memory holds
it, at most four units stay, and the word at the PC is there to issue; if not, the group takes trap 0x01 with detail 0x00;
any other group is left alone (a command with nothing to act on leaves everything alone, the model's choice, log 2).
GROUP_DRAIN_END (R134): an ended group whose tokens count nothing leaves its slot idle, tokens at zero and no block, and, the
model's choice (log 4), every register zero; the block's barriers return to the core with its last group and not
before; nothing else changes but that the step of its request, if it was the last block, completes; a group that has not
ended or whose tokens still count is left alone. -/
def Obligations.FetchAndDrain : Prop :=
  (
  ∀ (s : State) (c : Fin 272) (g : Fin 16),
    let x := s.grp c g
    let y := popStops 33 x
    let u := y.pc.toNat / 64
    (mayIssue s c g = false ∨ x.pend ≠ none → exec (.instructionFetch c g) s = .next s) ∧
    (x.stop ≠ some x.pc → y = x) ∧
    (mayIssue s c g = true → x.pend = none → pcOk (s.core c) y.pc.toNat = true →
      ∃ t, exec (.instructionFetch c g) s = .next t ∧ GroupOnly s t c g ∧
        t.grp c g = { y with
          fetch := ((u, mread (s.core c).lm (64 * u) 64) :: y.fetch.filter fun e => e.1 != u).take 4 } ∧
        fetched (t.grp c g) y.pc.toNat = some (leNat (mread (s.core c).lm y.pc.toNat 8))) ∧
    (mayIssue s c g = true → x.pend = none → pcOk (s.core c) y.pc.toNat = false →
      exec (.instructionFetch c g) s = .next (takeTrap (s.setGrp c g y) c g 1 0 0 0))) ∧
  (
  ∀ (s : State) (c : Fin 272) (g : Fin 16),
    let x := s.grp c g
    let last := (blockSlots x.base x.size).all fun k => decide (k = g.val) || (s.grp c k).st == .idle || (s.grp c k).base != x.base
    ((x.st ≠ .draining ∨ x.quiet = false) → exec (.groupDrainEnd c g) s = .next s) ∧
    (x.st = .draining → x.quiet = true →
      ∃ t, exec (.groupDrainEnd c g) s = .next (stepEnd t x.req) ∧ (t.grp c g).st = .idle ∧
        (∀ r l, (t.grp c g).getV r l = 0) ∧ (∀ r, (t.grp c g).getU r = 0) ∧ (∀ k, (t.grp c g).token k = {}) ∧
        (t.grp c g).req = none ∧ (t.grp c g).size = 0 ∧
        (∀ i, i < 8 → (t.core c).bar i = if last && ((s.core c).bar i).owned && ((s.core c).bar i).base == x.base
          then {} else (s.core c).bar i) ∧
        { t with cores := s.cores } = s ∧ { t.core c with groups := (s.core c).groups, bars := (s.core c).bars } = s.core c ∧
        (∀ k, k ≠ c.val → t.core k = s.core k) ∧ ∀ k, k ≠ g.val → t.grp c k = s.grp c k))

/-- DEVICE_ACCESS_REPLY (R141): the oldest access with every answer in writes the values that came back, lane by lane,
and is outstanding no longer; one with a bus error makes the group trap 0x08 with its PC on the access. -/
def Obligations.DeviceReplies : Prop :=
  ∀ (s : State) (c : Fin 272) (g : Fin 16) (a : DevAcc),
    let x := s.grp c g
    let y := { x with outst := x.outst.filter fun b => b.id != a.id }
    x.st = .running ∨ x.st = .halted → x.outst.find? (fun b => b.left == 0) = some a →
    (a.err = none → a.got.length ≤ 32 → (a.got.map (·.1)).Nodup → selOk a.rd a.regs a.regs = true →
      (∀ v ∈ a.got, v.1 < 32 ∧ (selU a.rd = true → v.1 = 0)) →
      ∃ t, exec (.deviceAccessReply c g) s = .next t ∧ GroupOnly s t c g ∧
        { t.grp c g with v := x.v, u := x.u } = y ∧
        (∀ r l, l < 32 → (t.grp c g).getV r l =
          match a.got.find? fun v => v.1 == l with
          | some v => if selU a.rd = false ∧ selReg a.rd ≤ r ∧ r < selReg a.rd + a.regs
              then BitVec.ofNat 32 (loadValue a.size a.sext v.2 / 2 ^ (32 * (r - selReg a.rd))) else x.getV r l
          | none => x.getV r l) ∧
        (selU a.rd = true → ∀ v ∈ a.got, ∀ j, j < a.regs → (t.grp c g).getU (selReg a.rd + j) =
          BitVec.ofNat 32 (loadValue a.size a.sext v.2 / 2 ^ (32 * j)))) ∧
    (∀ l d, a.err = some (l, d) →
      exec (.deviceAccessReply c g) s = .next (takeTrap (s.setGrp c g { y with pc := a.pc }) c g 8 d l 0))

/-- BLOCK_START of the oldest request's step (R132, Table 7-1): every group of each of its blocks runs at the block's
entry with all 32 lanes, its number of groups, its own number, the argument and its stream and class in u0 to u3, its
thread numbers in v0 and zero in every other register; the block owns the barriers it names, at phase 0; no other barrier or
group is changed; the request has started and runs that step. -/
def Obligations.BlocksStart : Prop :=
  ∀ (s : State) (n : Fin 64) (step : Nat) (r : ReqSt) (sp : StepRec),
    stopped s = false → (s.stream n).state ≠ 2 → (s.stream n).state ≠ 3 → streamDrained s n = true →
    barriersFree s sp = true → nextReq (s.stream n) = some r →
    ((s.graphOf n).bind fun g => g.steps[step]?) = some sp → placesFree s sp = true → sp.blocks ≠ [] →
    ∃ t, exec (.blockStart n step) s = .next t ∧
      (∃ q ∈ (t.stream n).reqs, q.slot = r.slot ∧ q.step = some step ∧ q.started = true) ∧
      (∀ b ∈ sp.blocks, ∀ c, blockCore s b = some c →
        (∀ b' ∈ sp.blocks, b' = b ∨ blockCore s b' ≠ some c ∨
          (b.barriers &&& b'.barriers = 0 ∧ ∀ k k', k < b.n → k' < b'.n → b.base + k ≠ b'.base + k')) →
        (∀ k, k < b.n →
          let x := t.grp c (b.base + k)
          x.st = .running ∧ x.base = b.base ∧ x.size = b.n ∧
          x.pc = BitVec.ofNat 32 (4096 * (s.core c).codeBase + b.entry) ∧
          x.mask = 0xFFFFFFFF ∧ x.live = 0xFFFFFFFF ∧ x.req = some (n.val, r.slot) ∧ x.stack = [] ∧ x.stop = none ∧
          x.stall = .none ∧ x.outst = [] ∧ x.tokens = [] ∧
          (∀ q, x.getU q =
            if q = 0 then BitVec.ofNat 32 b.n else if q = 1 then BitVec.ofNat 32 k
            else if q = 2 then BitVec.ofNat 32 b.arg
            else if q = 3 then BitVec.ofNat 32 (n.val + 256 * s.streamClass n) else 0) ∧
          ∀ q l, l < 32 → x.getV q l = if q = 0 then BitVec.ofNat 32 (32 * k + l) else 0) ∧
        ∀ i, i < 8 → bit b.barriers i = true → (t.core c).bar i = { owned := true, base := b.base }) ∧
      ∀ c i, (∀ b ∈ sp.blocks, blockCore s b ≠ some c ∨ bit b.barriers i = false) → (t.core c).bar i = (s.core c).bar i

/-! ### Completion of descriptors and launches -/

/-- DESCRIPTOR_COMPLETE and DMA_COMPLETE of the oldest running descriptor (R101 to R103, R110): it runs no longer, its
writes are in local memory, its flags are in CORE_NUMFLAGS and its token, whose count falls by one; a stopped one leaves
its token's error bit, a DMA transfer with its reason, be it a bus error of a row, local bytes that it could not read, or a
request that R320 answered. An operand byte that changed while it ran, or that another under way writes, and a byte that
another wrote as well, is the model's free choice among those it held (`mixMem`, `landWrites`). -/
def Obligations.DescriptorsComplete : Prop :=
  (∀ (s : State) (c : Fin 272) (r : RunDesc) (rs : List RunDesc) (stop : Option Nat),
    let co := s.core c
    let d := parseMx r.ent.bytes
    let mx := mixMem (r.seen ++ comingDma s c ++ comingLaunches s c none) co.lm s.freeCtr
    let o := d.run mx.1 (stop.getD d.m)
    let x := s.grp c r.ent.grp
    co.mxRun = r :: rs → s.coreHeld c = false → x.st ≠ .draining →
    ∃ t, exec (.descriptorComplete c stop) s = .next t ∧
      Stored s t c rs co.dmaRun (landWrites r.seen co.lm mx.2 (byteWrites o.1)).1 ∧
      (r.seen = [] → (landWrites r.seen co.lm mx.2 (byteWrites o.1)).1 = byteWrites o.1) ∧
      (t.core c).numFlags = co.numFlags ||| o.2 % 16 ∧
      (t.core c).mq = co.mq ∧ (t.core c).dq = co.dq ∧ (t.core c).perfDesc = (co.perfDesc + 1) % 2 ^ 32 ∧
      (∀ k, k ≠ c.val → t.core k = s.core k) ∧ (∀ k, k ≠ r.ent.grp → t.grp c k = s.grp c k) ∧
      { t.grp c r.ent.grp with tokens := x.tokens } = x ∧
      (∀ k, k ≠ d.token → (t.grp c r.ent.grp).token k = x.token k) ∧
      ((t.grp c r.ent.grp).token d.token).count = (x.token d.token).count - 1 ∧
      ((t.grp c r.ent.grp).token d.token).flags = (x.token d.token).flags ||| o.2 % 16 ∧
      ((t.grp c r.ent.grp).token d.token).err = ((x.token d.token).err || stop.isSome) ∧
      (stop = none → { t with cores := s.cores, freeCtr := s.freeCtr, launches := s.launches } = s)) ∧
  ∀ (s : State) (c : Fin 272) (r : RunDesc) (rs : List RunDesc) (lmRow : Option Nat),
    let co := s.core c
    let d := parseDma r.ent.bytes
    let cls := s.coreClass c
    let al := dmaAllowed d cls s
    let sn := if d.out then (true, al.2) else dmaSnoop d cls al.2
    let mx := mixMem (r.seen ++ if d.out then comingMx s c ++ comingLaunches s c none else []) co.lm s.freeCtr
    let lost := if d.out then lmRow.filter fun k => decide (k < r.cut.getD d.rows) else none
    let stop := lost.orElse fun _ => r.cut
    let moved := dmaRows c cls d mx.1 r.seen (stop.getD d.rows) 0
      ({ sn.2 with freeCtr := mx.2 }.updCore c fun co => { co with dmaRun := rs, perfDesc := (co.perfDesc + 1) % 2 ^ 32 })
    let why := moved.1.getD (if lost.isSome then 9 else if r.cut.isSome then 8 else 0)
    co.dmaRun = r :: rs → al.1 = true → sn.1 = true → (moved.2.grp c r.ent.grp).st ≠ .draining →
    ∃ t, exec (.dmaComplete c lmRow) s = .next t ∧ t.mem = moved.2.mem ∧ t.slices = moved.2.slices ∧
      (t.core c).lm = (moved.2.core c).lm ∧ (t.core c).dmaRun = (moved.2.core c).dmaRun ∧
      (t.grp c r.ent.grp).token d.token =
        ((moved.2.grp c r.ent.grp).token d.token).finish 0 (moved.1.isSome || lost.isSome || r.cut.isSome) why ∧
      (moved.1 = none → lost.isSome = true →
        t.evt.head = (moved.2.evt.head + 1) % 4096 ∧ t.evt.bits.testBit 2 = true)

/-- Palm launches (R119 to R123, R127, R129): a launch at the head of the DMA queue goes to every engine of its window, each
with room; an engine takes a launch whose descriptor passes its checks into its context, and one whose source-1 lines it
cannot read fails with cause 0x21; a ready launch that met no cause completes by its core's token, and one that met a cause by
its token's error bit with nothing written; a suspended context 1 goes on; a staging of a window goes on once no earlier
launch is left; an engine that left service holds nothing after its shares are dealt, and no launch in flight counts on it.
When a launch reads and writes is the model's choice (logs 45 and 46), as is the order of waiting stagings (log 64). -/
def Obligations.PalmLaunches : Prop :=
  (∀ (s : State) (c : Fin 272) (q : QEnt) (qs : List QEnt),
    let es := engineList s (parsePalm q.bytes).window
    let cls := s.coreClass c
    (s.core c).dq = q :: qs → q.palm = true → q.bad = false → s.coreRuns c = true →
    (∀ n ∈ es, palmResetting s n = false ∧ (if cls = 0 then (s.engine n).q0 else (s.engine n).q1).length < 8) →
    ∃ t, exec (.launchDispatch c false) s = .next t ∧ t.core c = { s.core c with dq := qs } ∧
      (∀ k, k ≠ c.val → t.core k = s.core k) ∧ t.nextLaunch = s.nextLaunch + 1 ∧
      t.launches = s.launches ++ [(s.nextLaunch,
        { core := c, grp := q.grp, cls := cls, bytes := q.bytes, engines := es, started := [], cause := 0 })] ∧
      (es.Nodup → ∀ n, t.engine n = if n ∈ es then (s.engine n).take cls s.nextLaunch else s.engine n) ∧
      { t with cores := s.cores, launches := s.launches, nextLaunch := s.nextLaunch, engines := s.engines } = s) ∧
  (∀ (s : State) (n : Fin 128) (id : Nat) (zero : Bool) (L : Launch),
    let e := s.engine n
    let d := parsePalm L.bytes
    s.engineOn n = true → palmResetting s n = false → e.pick s = some (id, zero) →
    s.launch id = some L → palmCheck s L.bytes L.moved (4096 * (s.core L.core).codeBase) = none → L.cause = 0 →
    let shs := e.sharesOf d.window d.id
    let ls := sourceLines shs (if d.op = 2 then some d.row else none)
    let sn := snoopRanges s L.cls (ls.map fun l => (256 * l, 256))
    let u := (updLaunch sn.2 id fun L => { L with started := L.started ++ [n.val] }).updEngine n fun e => e.start id zero
    poisonedShares s n shs = [] → ls.any (lineHeld s) = false → sourcesAllowed s L.cls ls = true → sn.1 = true →
    ∃ t, exec (.launchStart n .ok) s = .next t ∧ (∀ k, k ≠ n.val → t.engine k = s.engine k) ∧
      t.engine n = (if zero then { e with q0 := e.q0.filter (· != id), run0 := some id }
                    else { e with q1 := e.q1.filter (· != id), run0 := none, run1 := some id }) ∧
      t.launch id = some { L with
        started := L.started ++ [n.val], cause := if (readSources u L.cls ls none).1 then 0 else 0x21 } ∧
      t.cores = s.cores ∧ (ls = [] → { t with launches := s.launches, engines := s.engines } = s)) ∧
  (∀ (s : State) (c : Fin 272) (id : Nat) (L0 : Launch),
    let w := if L0.cause = 0 then readWeights s id L0 else (true, s)
    let u := w.2
    let L := (u.launch id).getD L0
    let d := parsePalm L.bytes
    let x := u.grp c L.grp
    let s' := { u with launches := u.launches.filter fun e => e.1 != id }
    let mx := mixMem (L.seen ++ comingMx s' c ++ comingDma s' c ++ comingLaunches s' c (some id)) (u.core c).lm u.freeCtr
    let o := palmRun s' d mx.1
    (s.launches.find? fun e => launchReady s c e.1 e.2) = some (id, L0) → w.1 = true → L.engines ≠ [] → L.grp ≠ 16 →
    u.coreHeld c = false → x.st ≠ .draining →
    ∃ t, exec (.launchComplete c) s = .next t ∧
      ((t.grp c L.grp).token d.token).count = (x.token d.token).count - 1 ∧
      (∀ n ∈ L.engines, (t.engine n).run0 ≠ some id ∧ (t.engine n).run1 ≠ some id) ∧
      (L.cause ≠ 0 → (t.core c).lm = (u.core c).lm ∧ ((t.grp c L.grp).token d.token).err = true) ∧
      (L.cause = 0 →
        Stored s' t c (u.core c).mxRun (u.core c).dmaRun (landWrites L.seen (u.core c).lm mx.2 (byteWrites o.1)).1 ∧
        (L.seen = [] → (landWrites L.seen (u.core c).lm mx.2 (byteWrites o.1)).1 = byteWrites o.1) ∧
        ((t.grp c L.grp).token d.token).flags = (x.token d.token).flags ||| o.2.foldl (fun a p => a ||| p.2) 0 % 16 ∧
        ((t.grp c L.grp).token d.token).err = (x.token d.token).err)) ∧
  (∀ (s : State) (n : Fin 128), (s.engine n).suspended = true →
    (∀ id ∈ (s.engine n).q0, launchHeld s id = true) →
    exec (.context1Resume n) s = .next (s.setEngine n { s.engine n with suspended := false, run0 := none })) ∧
  (∀ (s : State) (win : Fin 64) (i : Nat) (evicts : Bool) (entry : Option Nat) (mark : Nat)
      (rest : List (Nat × Nat × Bool × Option Nat × Nat)),
    s.img.stagings = (win.val, i, evicts, entry, mark) :: rest → (stagingMay s win i evicts mark).1 = true →
    let u := (stagingMay s win i evicts mark).2
    let s' := { u with img := { u.img with stagings := rest } }
    (evicts = true → windowLaunches s win mark = false → u = s) ∧
    exec (.windowStagingStart win) s = .next (if evicts then runEviction s' i entry else runStaging s' i entry)) ∧
  ∀ (s : State) (n : Fin 128), s.engineOn n = false → (s.engine n).shares ≠ [] → restageHeld s n = false →
    ∃ t, exec (.restageComplete n) s = .next t ∧ (t.engine n).shares = [] ∧ (t.engine n).q0 = [] ∧
      (t.engine n).q1 = [] ∧ (t.engine n).run0 = none ∧ (t.engine n).run1 = none ∧
      ∀ e ∈ t.launches, n.val ∉ e.2.engines

/-! ### The KV agent -/

/-- The command at the head of a stream's KV queue takes effect and met result 0: it has left the queue, KV_STATE shows
the result, and no other sequence has changed (R202, R203, R207, R210). OPEN reserves pages for its positions in every
pool; APPEND raises f and holds a page for every position below it, keeping those it held; COMMIT moves c by keep, drops
the rest, and leaves exactly the pages at or above c tentative; END closes the sequence; LENGTHS writes its table 0x200
above the list. -/
def Obligations.KvCommandsTakeEffect : Prop :=
  ∀ (s : State) (n : Fin 64) (src : Src) (req : Option (Nat × Nat × Nat)) (b : List Byte)
      (rest : List (Src × Option (Nat × Nat × Nat) × List Byte)) (k : KvLayout),
    let c := parseKv b
    let v := s.kv n
    let x := v.seq c.seq
    let done := fun (t : State) => (t.kv n).queue = rest ∧ (t.kv n).last = 0 ∧
      ∀ j, j ≠ c.seq → (t.kv n).seq j = v.seq j
    v.queue = (src, req, b) :: rest → s.kvLayout n = some k → (kvMay s n k c).1 = true →
    kvArgsOk k (((s.streamRec n).map (·.ringSlots)).getD 0) c = true →
    let need := fun p => pagesNeeded k c.arg1 p
    (c.op = 1 → x.state = 0 →
      (∀ p, p < k.pools.length → need p ≤ v.unreserved (k.pools.getD p ⟨0, 0, 0, 0, 0, 0, 0⟩) p) →
      ∃ t, exec (.kvOpen n) s = .next t ∧ done t ∧
        ((t.kv n).seq c.seq).state = 1 ∧ ((t.kv n).seq c.seq).c = 0 ∧ ((t.kv n).seq c.seq).f = 0 ∧
        ((t.kv n).seq c.seq).slot = c.arg0 ∧ ((t.kv n).seq c.seq).reserve = c.arg1 ∧
        ∀ p, tget 0 (t.kv n).reserved p = tget 0 v.reserved p + (if p < k.pools.length then need p else 0)) ∧
    (let f := x.f + c.arg0
     c.op = 2 → x.state = 1 → f ≤ x.reserve → f ≤ k.maxPositions →
      (allocPages k v x ((pagesBelow k f).filter fun e => !(tget {} x.pages e.1).held)).isSome = true →
      ∃ t, exec (.kvAppend n) s = .next t ∧ done t ∧
        ((t.kv n).seq c.seq).f = f ∧ ((t.kv n).seq c.seq).c = x.c ∧ ((t.kv n).seq c.seq).state = 1 ∧
        (∀ e ∈ pagesBelow k f, (tget {} ((t.kv n).seq c.seq).pages e.1).held = true) ∧
        ∀ i, (tget {} x.pages i).held = true → tget {} ((t.kv n).seq c.seq).pages i = tget {} x.pages i) ∧
    (let keep := c.arg0 % 65536
     let items := c.arg0 / 65536
     c.op = 3 → x.state = 1 → keep ≤ x.f - x.c → x.items + items ≤ ((s.streamRec n).map (·.maxItems)).getD 0 →
      ∃ t, exec (.kvCommit n) s = .next t ∧ done t ∧
        ((t.kv n).seq c.seq).c = x.c + keep ∧ ((t.kv n).seq c.seq).f = x.c + keep ∧
        ((t.kv n).seq c.seq).items = x.items + items ∧ ((t.kv n).seq c.seq).state = 1 ∧
        (((pagesBelow k k.maxPositions).map (·.1)).Nodup → ∀ e ∈ pagesBelow k k.maxPositions,
          (tget {} x.pages e.1).held = true →
          tget {} ((t.kv n).seq c.seq).pages e.1 =
            { tget {} x.pages e.1 with tentative := decide (x.c + keep ≤ e.2.2.1) })) ∧
    (c.op = 4 → x.state ≠ 0 →
      ∃ t, exec (.kvEnd n) s = .next t ∧ done t ∧
        ((t.kv n).seq c.seq).state = 0 ∧ ((t.kv n).seq c.seq).c = x.c ∧ ((t.kv n).seq c.seq).f = x.c ∧
        ((t.kv n).seq c.seq).reserve = 0 ∧ ∀ i, (tget {} ((t.kv n).seq c.seq).pages i).held = false) ∧
    ∀ qs, c.op = 5 →
      let u := (kvMay s n k c).2.setKv n { v with queue := rest }
      (lengthsList u n c).1 = some qs → qs.Nodup → (∀ q ∈ qs, (v.seq q).state = 1) →
      let seqs := qs.map v.seq
      let row := fun i => let y := seqs.getD i {}
        leBytes 2 (qs.getD i 0) ++ leBytes 2 0 ++ leBytes 4 (((seqs.take i).map fun y => y.f - y.c).sum) ++
        leBytes 4 y.f ++ leBytes 4 (y.f - y.c)
      let table := leBytes 2 c.arg0 ++ leBytes 2 0 ++ leBytes 4 ((seqs.map fun y => y.f - y.c).sum) ++
        leBytes 4 (seqs.foldl (fun m y => max m y.f) 0) ++ leBytes 4 0 ++ (List.range qs.length).flatMap row
      exec (.kvLengths n) s = .next (kvAccept
        ((devWrite (lengthsList u n c).2 (s.streamClass n) (c.arg1 + 0x200) table).setKv n
          { v with queue := rest, last := 0 }) src)

/-! ### Slices -/

/-- The next request of a slice is served where its line lies (R221 to R224, R231 to R235): a read gives the bytes of its line
to the access it came from, and an atomic also changes its word; a read without its bytes takes a miss register, a place in
its set by the replacement rules and a request to its channel, or joins the register that its line has; a write puts its
bytes into the line, in a place of its own where it had none, valid and dirty, and takes the line from the dead-tag filter, or
goes on with its mask; a retire drops the line with no write-back and enters it there. A read of a dead line is reported, and a
bus error where its window says so; a poisoned line gives a bus error, an uncorrectable error poisons a dirty line and
refetches a clean one, and one in the tags is fatal. What the slice's sources hold for it may then enter its queue
(`release`). -/
def Obligations.SliceRequests : Prop :=
  ∀ (s : State) (k : Fin 128) (i : Nat) (r : Req) (h : Home),
    let L := r.addr / 256
    let off := r.addr % 256
    let sl := s.slice k
    let w := windowAt s h.backing
    let run := fun (ev : SramEv) => match r.kind with
      | .read => exec (.sliceRead k ev) s
      | .retire => exec (.lineRetire (k, ev)) s
      | _ => exec (.sliceWrite k ev) s
    let gives := fun (ev : SramEv) (p : State → Prop) => ∃ t, run ev = .next (release t k) ∧
      (t.slice k).inq = sl.inq.eraseIdx i ∧ (t.slice k).held = sl.held ∧ (∀ j, j ≠ k.val → t.slice j = s.slice j) ∧ p t
    let quiet := fun (t : State) => { t with slices := s.slices, cores := s.cores, reg := s.reg } = s
    let here := fun (t : State) => quiet t ∧ tget 0 (t.slice k).hits r.cls = (tget 0 sl.hits r.cls + 1) % 2 ^ 32
    let missed := fun (t : State) =>
      { t with slices := s.slices, reg := s.reg, bcs := s.bcs, lps := s.lps } = s ∧
      (t.slice k).miss = sl.miss ++ [{ line := L, waiters := [r] }] ∧
      tget 0 (t.slice k).misses r.cls = (tget 0 sl.misses r.cls + 1) % 2 ^ 32 ∧
      Asked t { line := L, slice := k, cls := r.cls, write := none }
    (nextReqAt s k (fun _ => true) = some (i, r) → sl.missing L = true → NotListed s r.addr r.len →
      gives .ok fun t => quiet t ∧ t.cores = s.cores ∧
        (t.slice k).miss = (sl.miss.map fun m => if m.line = L then { m with waiters := m.waiters ++ [r] } else m) ∧
        tget 0 (t.slice k).merges r.cls = (tget 0 sl.merges r.cls + 1) % 2 ^ 32) ∧
    (NextAt s k i r h →
      (∀ way, findWay sl h = some way →
        let l := sl.line h.set way
        (r.kind = .read → l.poison = false → covers l.valid (maskOf off r.len) = true →
          gives .ok fun t => here t ∧ Answered s t r.src (readValue r (mread l.data off r.len)) ∧
            ∀ a, (tget {} (t.slice k).lines a).data = (tget {} sl.lines a).data) ∧
        (∀ op ls, r.kind = .atomic op ls → l.poison = false → covers l.valid (maskOf off r.len) = true →
          let q := atomLanes op (8 * r.len) (leNat (mread l.data off r.len)) ls
          gives .ok fun t => here t ∧ Answered s t r.src q.2 ∧
            mread ((t.slice k).line h.set way).data off r.len = leBytes r.len q.1 ∧
            (∀ a, a < off ∨ off + r.len ≤ a → mget ((t.slice k).line h.set way).data a = mget l.data a) ∧
            ((t.slice k).line h.set way).dirty = true ∧ deadEntry (t.slice k) L = false) ∧
        (∀ bs, r.kind = .write bs →
          gives .ok fun t => here t ∧ Answered s t r.src [] ∧
            mread ((t.slice k).line h.set way).data off bs.length = bs ∧
            (∀ a, a < off ∨ off + bs.length ≤ a →
              mget ((t.slice k).line h.set way).data a = mget l.data a) ∧
            (∀ a, off ≤ a → a < off + bs.length → ((t.slice k).line h.set way).valid.testBit a = true) ∧
            ((t.slice k).line h.set way).dirty = true ∧ deadEntry (t.slice k) (h.backing / 256) = false ∧
            ∀ a, a ≠ 16 * h.set + way → tget {} (t.slice k).lines a = tget {} sl.lines a) ∧
        ((r.kind = .read ∨ ∃ op ls, r.kind = .atomic op ls) → l.poison = true →
          gives .ok fun t => quiet t ∧ Failed s t r.src 2) ∧
        (r.kind = .read → l.poison = false → h.way = none → 0 < r.len →
          (l.dirty = true → poisoned sl < 255 →
            gives .uncorrectable fun t => ((t.slice k).line h.set way).poison = true ∧ Failed s t r.src 2 ∧
              (t.slice k).poisonSets = satInc 8 sl.poisonSets ∧ t.evt.head = (s.evt.head + 1) % 4096) ∧
          (l.dirty = false → deadEntry sl L = false →
            gives .uncorrectable fun t => (t.slice k).refetched = satInc 8 sl.refetched ∧ t.cores = s.cores ∧
              ((t.slice k).line h.set way).valid = 0 ∧ (t.slice k).miss = sl.miss ++ [{ line := L, waiters := [r] }] ∧
              Asked t { line := L, slice := k, cls := r.cls, write := none } ∧ t.evt.head = (s.evt.head + 1) % 4096))) ∧
      (r.kind = .read → findWay sl h = none →
        (deadEntry sl L = false → gives .ok fun t => missed t ∧ (t.slice k).deadReads = sl.deadReads ∧
          (chooseWay s k h w = .bypass → (t.slice k).lines = sl.lines) ∧
          ∀ way, chooseWay s k h w = .at_ way →
            let l := (t.slice k).line h.set way
            l.present = true ∧ l.no = h.backing / 256 ∧ l.valid = 0 ∧ l.dirty = false ∧ l.poison = false ∧
            ∀ a, a ≠ 16 * h.set + way → tget {} (t.slice k).lines a = tget {} sl.lines a) ∧
        (deadEntry sl L = true →
          let reported := fun (t : State) => (t.slice k).deadBit = true ∧ (t.slice k).deadLine = L ∧
            (t.slice k).deadReads = satInc 10 sl.deadReads ∧ deadEntry (t.slice k) L = true
          (w.any (·.deadFault) = true → gives .ok fun t => quiet t ∧ reported t ∧ Failed s t r.src 4) ∧
          (w.any (·.deadFault) = false → gives .ok fun t => missed t ∧ reported t))) ∧
      (∀ bs, r.kind = .write bs → findWay sl h = none →
        (∀ way, chooseWay s k h w = .at_ way → (sl.line h.set way).dirty = false →
          gives .ok fun t => here t ∧ Answered s t r.src [] ∧ deadEntry (t.slice k) (h.backing / 256) = false ∧
            let l := (t.slice k).line h.set way
            l.present = true ∧ l.no = h.backing / 256 ∧ l.dirty = true ∧ mread l.data off bs.length = bs ∧
            (∀ a, l.valid.testBit a = decide (off ≤ a ∧ a < off + bs.length)) ∧
            ∀ a, a ≠ 16 * h.set + way → tget {} (t.slice k).lines a = tget {} sl.lines a) ∧
        (chooseWay s k h w = .bypass →
          gives .ok fun t => Answered s t r.src [] ∧ (t.slice k).lines = sl.lines ∧
            Asked t { line := h.backing / 256, slice := k, cls := r.cls, write := some (offsets off bs) })) ∧
      (r.kind = .retire → h.way = none → NotListed s (256 * L) 256 →
        gives .ok fun t => here t ∧ Answered s t r.src [] ∧ deadEntry (t.slice k) L = true ∧
          ∀ way, findWay sl h = some way → (t.slice k).line h.set way = {}) ∧
      ∃ t, run .tagFatal = .next t ∧ t.pins.faultN = false ∧ t.evt.fatalAt = some (s.evt.fatalAt.getD s.now) ∧
        t.evt.fatalSource = 2)

/-- FILL_ARRIVAL (R222, R224, R225, R253) writes the invalid bytes of its line alone, and serves the waiter list in order:
waiting reads get the line's bytes, or those of the fill where the line has no place, and a read behind a write sees what it
wrote; a fill for reads of more than two clusters is a multicast, counted for each of them; a fill that failed gives each a bus
error. SLICE_FENCE (R236) fences the isolated slice and deals its buckets to others of its half, every other bucket staying
where it was; accesses of the host and polls that the fencing held up go on after that. -/
def Obligations.FillsAndFences : Prop :=
  (∀ (s : State) (k : Fin 128) (L : Nat) (fill : Option (List Byte)) (rest : List (Nat × Option (List Byte))) (m : Miss)
      (h : Home),
    let sl := s.slice k
    let cc := channelOf (256 * L)
    let gets := fun (b : List Byte) (u : State) (r : Req) => answer u r (.ok (readValue r (slice b (r.addr % 256) r.len)))
    let cores := fun (t : State) (rs : List Req) (f : State → Req → State) => t.cores = (rs.foldl f s).cores
    sl.rets = (L, fill) :: rest → sliceStopped s k = false → sl.miss.filter (fun m => m.line == L) = [m] →
    resolve s true (256 * L) = .ok h →
    let arrives := fun (p : State → Prop) => ∃ t, exec (.fillArrival (k, false)) s = .next t ∧ (t.slice k).rets = rest ∧
      (t.slice k).missing L = false ∧ (∀ j, j ≠ k.val → t.slice j = s.slice j) ∧ p t
    let filled := fun (way : Nat) (b : List Byte) (a : Nat) =>
      if (sl.line h.set way).valid.testBit a then mget (sl.line h.set way).data a else b.getD a 0
    let reads := ∀ r ∈ m.waiters, r.kind = .read ∧ r.addr / 256 = L ∧ r.addr % 256 + r.len ≤ 256
    (∀ way b, fill = some b → findWay sl h = some way → reads →
      arrives fun t => { t with slices := s.slices, cores := s.cores } = s ∧
        (∀ a, a < 256 → ((t.slice k).line h.set way).valid.testBit a = true ∧
          mget ((t.slice k).line h.set way).data a = filled way b a) ∧
        cores t m.waiters (gets ((List.range 256).map (filled way b))) ∧
        (∀ a, a ≠ 16 * h.set + way → tget {} (t.slice k).lines a = tget {} sl.lines a) ∧
        ∀ cls, let n := (m.waiters.filter fun r => r.src != .none && r.cls == cls).length
          tget 0 (t.slice k).mcasts cls = if 2 < (waitClusters m.waiters).length ∧ 0 < n
            then (tget 0 sl.mcasts cls + n) % 2 ^ 32 else tget 0 sl.mcasts cls) ∧
    (∀ b, fill = some b → b.length = 256 → findWay sl h = none → reads →
      arrives fun t => { t with slices := s.slices, cores := s.cores } = s ∧ (t.slice k).lines = sl.lines ∧
        cores t m.waiters (gets b)) ∧
    (∀ way b r r' w bs, fill = some b → findWay sl h = some way → m.waiters = [r, w, r'] → r.kind = .read → r'.kind = .read →
      w.kind = .write bs → r.addr % 256 + r.len ≤ 256 → r'.addr % 256 + r'.len ≤ 256 → w.addr % 256 + bs.length ≤ 256 →
      NotListed s w.addr w.len →
      let before := (List.range 256).map (filled way b)
      let after := overlay before (offsets (w.addr % 256) bs)
      arrives fun t => { t with slices := s.slices, cores := s.cores } = s ∧
        t.cores = (gets after (answer (gets before s r) w (.ok [])) r').cores ∧
        ((t.slice k).line h.set way).dirty = true ∧
        ∀ a, a < 256 → mget ((t.slice k).line h.set way).data a = after.getD a 0) ∧
    (fill = none → reads →
      arrives fun t => { t with slices := s.slices, cores := s.cores } = s ∧ (t.slice k).lines = sl.lines ∧
        cores t m.waiters fun u r => answer u r (.error (if s.inService (if cc.1 then 5 else 4) cc.2 then 2 else 1)))) ∧
  ∀ (s : State) (k : Fin 128) (reason detail j : Nat),
    (s.slice k).fencing = some (reason, detail) → putOff s = false → s.inService 3 k = true →
    halfOfSlice j = halfOfSlice k → j ≠ k.val → s.inService 3 j = true → codesOk s.flp.cur →
    ∃ t, exec (.sliceFence k) s = .next (goOn t) ∧ t.unitState 3 k = 3 ∧
      (∀ b, b < 256 → homeEntry t (halfOfSlice k) b ≠ k.val) ∧
      ∀ hf b, hf < 2 → b < 256 → homeEntry s hf b ≠ k.val → homeEntry t hf b = homeEntry s hf b

/-! ### Memory controllers and traffic regulation -/

/-- BONDED_READ and BONDED_WRITE of the next request of a channel (R241 to R244): a sound line's bytes go back to its
slice, also after repeats of the transfer or corrections, which count; a lost line, a word that the die cannot correct, or a
transfer that fails in all four attempts gives a bus error with its cause; a write changes exactly its masked bytes, in the
counter entries or event records where the line holds those, and the words it covers whole are sound again, or it is lost
whole after its repeats and put on the lost-write list. What waits at the slices may then enter the channel's queue
(`admitCtl`). How the state's counter entries and event records take part as bytes of their lines is the model's reading (12.5,
18.3; log 49). -/
def Obligations.BondedTransfers : Prop :=
  ∀ (s : State) (ch : Fin 16) (i : Nat) (r : MemReq),
    let m := s.bc ch
    let left := (admitCtl (s.updMc false ch fun m => { m with q := m.q.eraseIdx i }) false ch).bc ch
    let taken := fun (t : State) => (t.bc ch).q = left.q ∧ (t.bc ch).held = left.held
    let back := fun (t : State) (b : Option (List Byte)) => taken t ∧ t.mem = s.mem ∧
      t.ctrs = s.ctrs ∧ tget 0 (t.bc ch).served r.cls = (tget 0 m.served r.cls + 1) % 2 ^ 32 ∧
      t.slice r.slice = { s.slice r.slice with rets := (s.slice r.slice).rets ++ [(r.line, b)] } ∧
      (∀ j, j ≠ r.slice → t.slice j = s.slice j) ∧ (∀ j, j ≠ ch.val → t.bc j = s.bc j) ∧ t.lps = s.lps ∧ t.cores = s.cores
    (m.held = [] → left.q = m.q.eraseIdx i ∧ left.held = []) ∧
    (nextAtCtl s false ch false = some (i, r) →
      (plainLine r.line = true → dieLine s r.line = mread s.mem (256 * r.line) 256) ∧
      (r.line ∉ m.lost → (∀ w ∈ badWords s ch r.line, w / 16 ≠ r.line) →
        (∃ t, exec (.bondedRead ch .ok) s = .next t ∧ back t (some (dieLine s r.line)) ∧
          (t.bc ch).errCause = m.errCause) ∧
        (∀ fs n f, seamTransfer 4 0 fs = some (n, f) → n = 0 ∨ isRingLine r.line = false →
          ∃ t, exec (.bondedRead ch (.transfer fs)) s = .next t ∧ back t (some (flipBytes f (dieLine s r.line))) ∧
            (t.bc ch).errCause = m.errCause ∧ (0 < n → (t.bc ch).aux = sat 16 (m.aux + n))) ∧
        (∀ n, 0 < n → isRingLine r.line = false →
          ∃ t, exec (.bondedRead ch (.dieCorrected n)) s = .next t ∧ back t (some (dieLine s r.line)) ∧
            (t.bc ch).corrected = sat 16 (m.corrected + n) ∧ t.evt.bits.testBit 0 = true) ∧
        (∀ w, ∃ t, exec (.bondedRead ch (.dieUncorrectable w)) s = .next t ∧ back t none ∧ (t.bc ch).errCause = 1 ∧
          (t.bc ch).errLine = r.line ∧ (isRingLine r.line = false → 16 * r.line + w.val ∈ (t.bc ch).bad)) ∧
        ∀ fs, seamTransfer 4 0 fs = none →
          ∃ t, exec (.bondedRead ch (.transfer fs)) s = .next t ∧ back t none ∧ (t.bc ch).errCause = 2) ∧
      (r.line ∈ m.lost → ∃ t, exec (.bondedRead ch .ok) s = .next t ∧ back t none ∧ (t.bc ch).errCause = 4 ∧
        (t.bc ch).errLine = r.line)) ∧
    ∀ ws, nextAtCtl s false ch true = some (i, r) → r.write = some ws →
      (∃ t, exec (.bondedWrite ch .ok) s = .next t ∧ taken t ∧
        (isCtrLine r.line = false → t.ctrs = s.ctrs) ∧ (isRingLine r.line = false → t.evt = s.evt) ∧
        (plainLine r.line = true →
          (∀ a, (∀ w ∈ ws, 256 * r.line + w.1 ≠ a) → mget t.mem a = mget s.mem a) ∧
          ((ws.map (·.1)).Nodup → ∀ w ∈ ws, mget t.mem (256 * r.line + w.1) = w.2)) ∧
        (isCtrLine r.line = true → t.mem = s.mem ∧
          (∀ j, j < firstCtr r.line ∨ firstCtr r.line + 4 ≤ j → tget {} t.ctrs j = tget {} s.ctrs j) ∧
          ∀ j, j < 4 → tget {} t.ctrs (firstCtr r.line + j) =
            ctrOfBytes (slice (overlay (dieLine s r.line) ws) (64 * j) 64)) ∧
        (isCtrLine r.line = false → isRingLine r.line = true → t.mem = s.mem ∧ ∀ j, j < 8 →
          tget {} t.evt.ring (8 * (r.line - ringLine) + j) = evOfBytes (slice (overlay (dieLine s r.line) ws) (32 * j) 32)) ∧
        ((∀ a, a < 256 → ∃ w ∈ ws, w.1 = a) → r.line ∉ (t.bc ch).lost) ∧
        (∀ w ∈ badWords t ch r.line, ¬ (w / 16 = r.line ∧ ∀ j, j < 16 → ∃ x ∈ ws, x.1 = 16 * (w % 16) + j)) ∧
        t.slices = s.slices ∧ t.lps = s.lps ∧ (∀ j, j ≠ ch.val → t.bc j = s.bc j) ∧ t.cores = s.cores) ∧
      (m.lost.length < 16 → ∀ fs, seamTransfer 4 0 fs = none →
        ∃ t, exec (.bondedWrite ch (.transfer fs)) s = .next t ∧ taken t ∧ t.mem = s.mem ∧
          t.ctrs = s.ctrs ∧ r.line ∈ (t.bc ch).lost ∧ (t.bc ch).errCause = 3 ∧ t.slices = s.slices ∧ t.lps = s.lps) ∧
      ∀ w, (∃ j, j < 16 ∧ ∀ x ∈ ws, x.1 ≠ 16 * w.val + j) →
        ∃ t, exec (.bondedWrite ch (.dieUncorrectable w)) s = .next t ∧ taken t ∧ (t.bc ch).errCause = 1 ∧
          (plainLine r.line = true → 16 * r.line + w.val ∈ (t.bc ch).bad ∧
            ((ws.map (·.1)).Nodup → ∀ x ∈ ws, mget t.mem (256 * r.line + x.1) = x.2))

/-- LPDDR6 channels (R246 to R253): a read gives what the merge buffer holds of its line, else the page, from the held
copies or decoded and decrypted, with the buffer's bytes laid over it, or a bus error with its cause; a write merges, or with
no entry free the oldest open entry starts to drain; entries open for 2 µs start to drain; a full draining entry is
encrypted, encoded and tagged as its page with the page's version one up; one whose version counter cannot be read changes no
page (the model's choice, log 49). Of the bonded channels, only the one that holds the page's version counter is touched. -/
def Obligations.Lpddr6Transfers : Prop :=
  ∀ (s : State) (ch : Fin 16),
    let m := s.lp ch
    (∀ (i : Nat) (r : MemReq),
      let p := (pageOf (256 * r.line)).2.1
      let off := 256 * r.line % 2048
      let at_ := ctrCh (ctrLine ch p)
      let held := m.heldPages.find? fun h => h.1 == p
      let left := (admitCtl (s.updMc true ch fun m => { m with q := m.q.eraseIdx i }) true ch).lp ch
      let taken := fun (t : State) => (t.lp ch).q = left.q ∧ (t.lp ch).held = left.held
      let back := fun (t : State) (b : Option (List Byte)) => taken t ∧ (t.lp ch).merge = m.merge ∧
        t.slice r.slice = { s.slice r.slice with rets := (s.slice r.slice).rets ++ [(r.line, b)] } ∧
        (∀ j, j ≠ r.slice → t.slice j = s.slice j) ∧ t.mem = s.mem ∧ t.pages = s.pages ∧ t.ctrs = s.ctrs ∧
        (∀ j, j ≠ at_ → t.bc j = s.bc j) ∧ (∀ j, j ≠ ch.val → t.lp j = s.lp j) ∧ t.cores = s.cores
      (m.held = [] → left.q = m.q.eraseIdx i ∧ left.held = []) ∧
      (∀ noise, nextAtCtl s true ch false = some (i, r) →
        (mergeCovers m.merge p off 256 = true → ∃ t, exec (.lpddr6Read ch noise) s = .next t ∧ t.bcs = s.bcs ∧
          back t (some (slice (mergeOver m.merge p (List.replicate 2048 0#8)) off 256))) ∧
        (∀ h, mergeCovers m.merge p off 256 = false → held = some h →
          ∃ t, exec (.lpddr6Read ch noise) s = .next t ∧ t.bcs = s.bcs ∧
            back t (some (slice (mergeOver m.merge p h.2) off 256))) ∧
        (∀ b, mergeCovers m.merge p off 256 = false → held = none → (readPage s ch p noise).res = .ok b →
          ∃ t, exec (.lpddr6Read ch noise) s = .next t ∧ back t (some (slice (mergeOver m.merge p b) off 256)) ∧
            tget 0 (t.bc at_).served r.cls = (tget 0 (s.bc at_).served r.cls + 1) % 2 ^ 32) ∧
        ∀ e, mergeCovers m.merge p off 256 = false → held = none → (readPage s ch p noise).res = .error e →
          ∃ t, exec (.lpddr6Read ch noise) s = .next t ∧ back t none ∧
            (e < 0x100 → (t.lp ch).errCause = e ∧ (t.lp ch).errLine = r.line) ∧
            (0x100 ≤ e → (t.bc at_).errCause = e - 0x100 ∧ (t.bc at_).errLine = ctrLine ch p)) ∧
      (nextAtCtl s true ch true = some (i, r) →
        let opened := m.merge.any fun e => e.page == p && !e.draining
        (opened = true ∨ mergeRoom m r.cls = true →
          ∃ t, exec (.lpddr6Write ch) s = .next t ∧ taken t ∧
            (t.lp ch).merge = mergeWrite m.merge s.now p off r.cls (r.write.getD []) ∧
            tget 0 (t.lp ch).served r.cls = (tget 0 m.served r.cls + 1) % 2 ^ 32 ∧
            { t with lps := s.lps, reg := s.reg } = s ∧ ∀ j, j ≠ ch.val → t.lp j = s.lp j) ∧
        (opened = false → mergeRoom m r.cls = false →
          exec (.lpddr6Write ch) s = .next (s.setLp ch { m with merge := drainOldest m.merge })))) ∧
    exec (.mergeEntryTimeout ch) s = .next (s.setLp ch { m with
      merge := m.merge.map fun e => { e with draining := e.draining || decide (e.opened + 2000 ≤ s.now) } }) ∧
    ∀ (noise : LpNoise) (i : Nat) (e : MergeEnt), findIdx? (·.draining) m.merge = some i → m.merge[i]? = some e →
      let at_ := ctrLine ch e.page
      (ctrMayAsk s ch e.page e.cls = false → exec (.mergeDrainComplete ch noise) s = .next (countHeld s e.cls)) ∧
      (∀ cause, ctrMayAsk s ch e.page e.cls = true → bondedLine s (ctrCh at_) at_ = .error cause →
        ∃ t, exec (.mergeDrainComplete ch noise) s = .next t ∧ (t.lp ch).merge = m.merge.eraseIdx i ∧
          t.pages = s.pages ∧ t.ctrs = s.ctrs ∧ (t.bc (ctrCh at_)).errCause = cause ∧ (t.bc (ctrCh at_)).errLine = at_) ∧
      (e.full = true → ctrMayAsk s ch e.page e.cls = true → readable s at_ = true →
      let k := e.page % 32
      let old := s.ctr ch e.page
      let n := pageDev ch e.page
      let minor := tget 0 old.minor k + 1
      let ct := xtsEnc (keyBytes s.keys.k1) (keyBytes s.keys.k2) n (mread e.data 0 2048)
      minor ≤ 0xFFF →
      ∃ t, exec (.mergeDrainComplete ch noise) s = .next t ∧ (t.lp ch).merge = m.merge.eraseIdx i ∧
        tget {} t.pages (pageKey ch e.page) =
          { cipher := ct, parity := (rsParity (codeStrength s) (pageSymbols ct)).map (BitVec.ofNat 12),
            mac := pageTag s n old.major minor ct } ∧
        (t.ctr ch e.page).major = old.major ∧ tget 0 (t.ctr ch e.page).minor k = minor ∧
        (t.ctr ch e.page).poison.testBit k = false ∧
        (∀ q, q ≠ k → tget 0 (t.ctr ch e.page).minor q = tget 0 old.minor q) ∧
        (∀ q, q ≠ pageKey ch e.page → tget {} t.pages q = tget {} s.pages q) ∧
        { t with lps := s.lps, pages := s.pages, ctrs := s.ctrs, bcs := s.bcs, reg := s.reg } = s ∧
        (∀ j, j ≠ ctrCh (ctrLine ch e.page) → t.bc j = s.bc j) ∧ ∀ j, j ≠ ch.val → t.lp j = s.lp j)

/-- Traffic regulation (R256 to R258): a controller's published code of each class is the level by Table 12-9 of the highest use
of its part in the period, which then begins anew; it is fresh to every requester kind from that tick, and what the limits held
up goes on; a code missed for four periods is stale for its kind, and none before; a budget window begins with nothing used. -/
def Obligations.TrafficRegulation : Prop :=
  ∀ (s : State) (ctl : Ctl),
    let total := match ctl with
      | .slice _ => 96
      | _ => 64
    let resv := fun c => match ctl with
      | .slice k => resvEntries s 3 k c
      | .bonded k => resvEntries s 4 k c
      | .lpddr k => resvEntries s 5 k c
    let use := fun c => match ctl with
      | .slice k => ((s.slice k).inq.filter fun r => r.cls == c).length
      | .bonded k => ((s.bc k).q.filter fun r => r.cls == c).length
      | .lpddr k => ((s.lp k).q.filter fun r => r.cls == c).length
    let part := fun c => if resv c = 0 then sharedUsed use resv else use c
    let codes := fun (t : State) => match ctl with
      | .slice k => (t.slice k).codes
      | .bonded k => (t.bc k).codes
      | .lpddr k => (t.lp k).codes
    let peak := fun (t : State) => match ctl with
      | .slice k => (t.slice k).peak
      | .bonded k => (t.bc k).peak
      | .lpddr k => (t.lp k).peak
    let budget := fun (t : State) => match ctl with
      | .slice k => (t.slice k).budgetUsed
      | .bonded k => (t.bc k).budgetUsed
      | .lpddr k => (t.lp k).budgetUsed
    (∀ peaks, ∃ t, exec (.levelCodePublish ctl peaks) s = .next (match ctl with
      | .slice k => goOn (release t k)
      | _ => goOn t) ∧
      (∀ c, c < 8 → codes t / 4 ^ c % 4 = levelCode total resv c (max (part c) (tget 0 (peak s) c)) ∧
        tget 0 (peak t) c = part c) ∧
      (∀ kind, tget false t.reg.staleSet (1000 * kind + ctlNo ctl) = false) ∧
      tget 0 t.reg.codeAt (ctlNo ctl) = s.now ∧
      { t with slices := s.slices, bcs := s.bcs, lps := s.lps, reg := s.reg } = s) ∧
    (∀ kind : Fin 7, s.now < tget 0 s.reg.codeAt (ctlNo ctl) + fourPeriods ctl →
      exec (.levelCodeStale kind ctl) s = .next s) ∧
    (∀ kind : Fin 7, tget 0 s.reg.codeAt (ctlNo ctl) + fourPeriods ctl ≤ s.now →
      ∃ t, exec (.levelCodeStale kind ctl) s = .next t ∧ t.reg.stale = true ∧
      tget false t.reg.staleSet (1000 * kind.val + ctlNo ctl) = true ∧
      (∀ j, j ≠ 1000 * kind.val + ctlNo ctl → tget false t.reg.staleSet j = tget false s.reg.staleSet j) ∧
      { t with reg := s.reg } = s) ∧
    ∃ t, exec (.budgetWindow ctl) s = .next t ∧ budget t = 0 ∧ codes t = codes s ∧
      { t with slices := s.slices, bcs := s.bcs, lps := s.lps } = s

/-! ### Requests -/

/-- INTAKE_POLL of a polled stream (R275, R276, R56 to R58) counts the poll and reads the pointed slot: one that is not
pending ends it; an accepted one joins the stream's requests with the promise of that moment, a refused one is counted,
and the poll goes on at the next slot with 63 left; one whose body lies in host memory waits for test 5; a poll whose slot
the host has cached waits for the host's answer to the back-invalidation. -/
def Obligations.IntakePolls : Prop :=
  ∀ (s u : State) (n : Fin 64) (r : StreamRec) (b : List Byte),
    let x := s.stream n
    let x' := { x with polls := (x.polls + 1) % 2 ^ 16 }
    let q := parseSlot b
    polled s n = true → s.streamRec n = some r →
    (readSlot (s.setStream n x') r x.scan = (.lost, u) → exec (.intakePoll n) s = .next u) ∧
    (readSlot (s.setStream n x') r x.scan = (.waits, u) →
      exec (.intakePoll n) s = .next (u.updStream n fun st => { st with scanWait := some (s.now, 64) })) ∧
    (readSlot (s.setStream n x') r x.scan = (.bytes b, u) →
    (rd b 0 8 ≠ 1 → exec (.intakePoll n) s = .next u) ∧
    (rd b 0 8 = 1 → ∀ v, judgeSlot u r q s.now = v → match v with
      | .accept => ∃ t, exec (.intakePoll n) s = .next (pollFrom r s.now 63 t) ∧
          t.stream n = { x' with
            scan := (x.scan + 1) % r.ringSlots, ticks := liveTicks x r s.now ++ [s.now]
            accepted := (x.accepted + 1) % 2 ^ 32
            reqs := x.reqs ++ [⟨x.scan, q.commit, x.promise, 0, false, none, none, 0, none⟩] } ∧
          ∀ k, k ≠ n.val → t.stream k = s.stream k
      | .refuse why => ∃ t, exec (.intakePoll n) s = .next (pollFrom r s.now 63 t) ∧
          t.stream n = { x' with
            scan := (x.scan + 1) % r.ringSlots, notAccepted := satInc 16 x.notAccepted
            malformed := if 0x40 ≤ why then satInc 16 x.malformed else x.malformed } ∧
          ∀ k, k ≠ n.val → t.stream k = s.stream k
      | .ask => ∃ t, exec (.intakePoll n) s = .next t ∧
          t.stream n = { x' with test5 := some { slot := x.scan, bytes := b, since := s.now, left := 63 } } ∧
          ∀ k, k ≠ n.val → t.stream k = s.stream k))

/-- Test 5 (R277, R287): when its host read ends, the slot is read again, after any back-invalidation; the tests are made again
on the slot as it was read: bytes back within 1500 ticks and room under the rate limit accept it, its body copy in flight; the
time-out refuses it with reason 6, which is no malformed slot; a slot that the tests now refuse is refused with their reason;
either way the poll goes on; a slot that cannot be read or no longer holds what was read ends the poll, and so does a stop of
intake (R360). That the tests are made again, and that a withdrawn slot ends the poll, is the model's reading (log 60).
A body copy that ends leaves the body in the slot's result buffer, and its request copies no more; one that met poison or an
error, that no longer reaches the host, or without a completion for 50,000 ticks ends its request (R277, R287).
COMPLETION_WRITE of the oldest request, its steps done, writes end_stamp and then the status word: complete, or after a
class-0 promise late with one more counted (R58, R60, R278). -/
def Obligations.RequestsEnd : Prop :=
  (
  ∀ (s u : State) (n : Fin 64) (r : StreamRec) (t5 : Test5),
    let x := s.stream n
    let q := parseSlot t5.bytes
    let v := s.setStream n { x with test5 := none }
    let on := fun (t : State) => abortGoesOn (pollFrom r t5.since t5.left t)
    x.test5 = some t5 → t5.ended = none → s.streamRec n = some r → s.img.switch = none →
    (∀ d, s.now ≤ t5.since + 1500 →
      (stopped s = true → exec (.test5ReadComplete n d) s = .next (abortGoesOn v)) ∧
      (stopped s = false →
        (readSlot v r t5.slot = (.lost, u) → exec (.test5ReadComplete n d) s = .next (abortGoesOn u)) ∧
        (readSlot v r t5.slot = (.waits, u) → exec (.test5ReadComplete n d) s = .next (abortGoesOn
          (u.updStream n fun st => { st with test5 := some { t5 with ended := some d.isSome } }))) ∧
        ∀ b, b ≠ t5.bytes → readSlot v r t5.slot = (.bytes b, u) →
          exec (.test5ReadComplete n d) s = .next (abortGoesOn u))) ∧
    (stopped s = false → readSlot v r t5.slot = (.bytes t5.bytes, u) →
      (judgeSlot u r q t5.since = .ask →
        (∀ d, s.now ≤ t5.since + 1500 → rateFull x r t5.since = false →
          ∃ t, exec (.test5ReadComplete n (some d)) s = .next (on t) ∧
            t.stream n = { x with
              test5 := none, scan := (x.scan + 1) % r.ringSlots, ticks := liveTicks x r t5.since ++ [t5.since]
              accepted := (x.accepted + 1) % 2 ^ 32
              reqs := x.reqs ++ [⟨t5.slot, q.commit, x.promise, 0, false,
                some ⟨s.now, fld q.body 59 56, q.bodyBytes⟩, none, 0, none⟩] }) ∧
        (t5.since + 1500 ≤ s.now →
          ∃ t, exec (.test5ReadTimeout n) s = .next (on t) ∧
            t.stream n = { x with
              test5 := none, scan := (x.scan + 1) % r.ringSlots, notAccepted := satInc 16 x.notAccepted })) ∧
      (∀ why d, judgeSlot u r q t5.since = .refuse why → s.now ≤ t5.since + 1500 →
        ∃ t, exec (.test5ReadComplete n d) s = .next (on t) ∧
          t.stream n = { x with
            test5 := none, scan := (x.scan + 1) % r.ringSlots, notAccepted := satInc 16 x.notAccepted
            malformed := if 0x40 ≤ why then satInc 16 x.malformed else x.malformed }))) ∧
  (
  ∀ (s : State) (n : Fin 64) (r : ReqSt),
    (∀ c, copyingReq s n = some (r, c) →
      let ends := fun (o : Host.Outcome State Fault Refusal) => ∃ t, o = .next t ∧
        (t.stream n).reqs = (s.stream n).reqs.filter (fun q => q.slot != r.slot) ∧ ∀ k, k ≠ n.val → t.stream k = s.stream k
      (∀ bs, copyReached s c = true →
        exec (.bodyCopyComplete n (some bs)) s = .next ((devWrite s (s.streamClass n) (resultAddr s n r.slot)
          (slice bs 0 c.bytes)).setStream n { s.stream n with
            reqs := (s.stream n).reqs.map fun q => if q.slot = r.slot then { q with copying := none } else q })) ∧
      (∀ bs, copyReached s c = false → ends (exec (.bodyCopyComplete n (some bs)) s)) ∧
      ends (exec (.bodyCopyComplete n none) s) ∧
      (c.since + 50000 ≤ s.now → ends (exec (.bodyCopyTimeout n) s))) ∧
    ∀ rs, (s.stream n).reqs = r :: rs → r.started = true → r.step = none → r.failing = none → s.img.switch = none →
      let late := s.isClass0 n && decide (r.promise < s.now - r.commit)
      let why := if late then lateReason s r else 0
      let u := writeStatus (devWrite s (s.streamClass n) (slotAddr s n r.slot + 0x30) (leBytes 8 s.now)) n r.slot
        (if late then 6 else 5) why r.items r.commit
      let t := u.setStream n { s.stream n with
        reqs := (s.stream n).reqs.filter fun q => q.slot != r.slot
        late := if late then satInc 16 (s.stream n).late else (s.stream n).late }
      exec (.completionWrite n) s = .next (if late && why == 0x0D then notice t 8 0x0D n else t))

/-! ### The contract at run time -/

/-- RECHECK (R62, R64), FULL_REFIT (R63), SHADOW_REFIT (R35) and FAULT_CLEARS (R61): a passing re-check publishes its
clocks and promises and makes the full re-fit due; a failing one sheds the next stream of the image's order while class-0
work is left; the re-fit publishes its promises, or its refusal as a record (R53); every shadowed profile ends with a current
verdict, that of its load and its fit, and its load error is recorded, the copy being read through its controllers (R254); a
fault ends with its tick and reason kept. -/
def Obligations.FittingAtRunTime : Prop :=
  (∀ (s : State) (im : Image) (since : Nat), s.img.running = some im → s.fit.recheckDue = some since →
    let u := endLostRequests s
    ∃ t, exec .recheck s = .next t ∧ t.fit.recheckDue = none ∧ t.fit.refitDue = true ∧
      match fit (recheckInput u false) im with
      | .ok f => (∀ p, p < 4 → tget 0xFF t.fit.clocks p = f.clocks.getD p 0xFF) ∧ t.fit.refusal = u.fit.refusal ∧
          ((f.streams.map (·.id)).Nodup → ∀ x ∈ f.streams,
            t.stream x.id = { u.stream x.id with promise := x.promise, margin := x.margin })
      | .error _ => ∀ n, class0Left u = true → im.shed.find? (fun k => (u.stream k).state != 3) = some n →
          (t.stream n).state = 3) ∧
  (∀ (s : State) (im : Image), s.img.running = some im → s.fit.refitDue = true → s.fit.recheckDue = none →
    ∃ t, exec .fullRefit s = .next t ∧ t.fit.refitDue = false ∧
      match fit (recheckInput s true) im with
      | .ok f => t.fit.persist0 = persistentLoad s.flp.cur im 0 ∧ t.fit.persist1 = persistentLoad s.flp.cur im 1 ∧
          ((f.streams.map (·.id)).Nodup → ∀ x ∈ f.streams,
            t.stream x.id = { s.stream x.id with promise := x.promise, margin := x.margin })
      | .error e => t.fit.refused = true ∧ t.fit.refusal = refusalBytes s.flp.cur.generation 0x10 s.now im.digest e ∧
          { t with fit := s.fit } = s) ∧
  (∀ s : State, ∃ t, exec .shadowRefit s = .next t ∧
    { t with img := s.img, fit := s.fit, bcs := s.bcs, evt := s.evt } = s ∧
    ∀ n, n < 8 → t.shadow n = (if (s.shadow n).made ∧ ¬ (s.shadow n).current then { s.shadow n with
      current := true
      loadError := match loadImage (loadEnv s) (s.shadowBytes n) with
        | .error c => c
        | .ok _ => (s.shadow n).loadError
      verdict := match loadImage (loadEnv s) (s.shadowBytes n) with
        | .error _ => 2
        | .ok im => match fit (fitInput s) im with
          | .ok _ => 1
          | .error _ => 2 } else s.shadow n)) ∧
  ∀ s : State, s.fit.faultActive = true → recovering s = false →
    exec .faultClears s = .next { s with fit := { s.fit with
      faultActive := false, faultUnit := none, faultEnd := s.now, faultEndReason := s.fit.faultReason } }

/-- FIELD_TEST_TURN (R302): a unit that can be tested joins the units under test at its turn, one that an out-of-turn test
holds serves both (R304), and the next unit's turn follows. MAINTENANCE_SLOT (R302, R303, R306): the partition's unit under
test goes on to its next test slot, noting the bonds of the tested set that mismatched, and after a fourth slot without a
mismatch is tested no more; a slice's turn first copies the SRAM rows due to its spares; eight slots in the last 10⁹ ticks
hold back every other. A bond that mismatches again in slot 3 or 4 has failed (R303, R305): its lane group takes its spare into
use, which is a correction that FTS_RESULT shows; a group whose spare is in use already loses its set, and the port goes to
half width (R14, R15); with the other set gone before, or its Palm engine fenced (1.7), the unit goes out of service. -/
def Obligations.FieldSelfTest : Prop :=
  (∀ (s : State) (i : Fin 144), s.boot.ready = true → s.boot.ftsNext = i.val →
    s.boot.passAt + 4000000000 * i.val ≤ s.now →
    ∃ t, exec (.fieldTestTurn i) s = .next t ∧ { t with boot := s.boot } = s ∧ t.boot.ftsNext = (i.val + 1) % 144 ∧
      t.boot.tests = (if s.boot.tests.any fun e => e.unit == i.val && e.slot == 1
                      then s.boot.tests.map fun e => { e with turn := e.turn || (e.unit == i.val && e.slot == 1) }
                      else if testable s i then s.boot.tests ++ [{ unit := i.val, slot := 1, bonds := [], turn := true }]
                      else s.boot.tests) ∧
      t.boot.ftsPasses = if i.val = 143 then satInc 8 s.boot.ftsPasses else s.boot.ftsPasses) ∧
  ∀ (s : State) (p : Fin 4) (ms : List Bond) (rows : List Nat) (x : FieldTest),
    (∀ e ∈ s.boot.tests, testable s e.unit = true) →
    s.boot.tests.find? (fun e => testPart e.unit == p.val) = some x →
    let rest := s.boot.tests.erase x
    let sl := s.slice x.unit
    let ran := fun (tests : List FieldTest) =>
      { s with boot := { s.boot with tests := tests, testTicks := recentTests s ++ [s.now] } }
    let set := (x.slot + 1) % 2
    let seen := ((badBonds x.unit ms).filter fun g =>
      setOf (testUnit x.unit).1 g.1 == set && !bit (setsOut s (testUnit x.unit).1 (testUnit x.unit).2) set).eraseDups
    (8 ≤ (recentTests s).length → exec (.maintenanceSlot p ms rows) s = .next s) ∧
    ((recentTests s).length < 8 →
      (x.slot = 2 ∨ (x.slot = 1 ∧ (128 ≤ x.unit ∨ x.turn = false)) →
        exec (.maintenanceSlot p ms rows) s = .next (ran ({ x with slot := x.slot + 1, bonds := x.bonds ++ seen } :: rest))) ∧
      (x.slot = 1 → x.unit < 128 → x.turn = true → sl.rowsUsed + sl.rowsDue.length ≤ 256 →
        ∃ t, exec (.maintenanceSlot p ms rows) s = .next t ∧
          t.boot.tests = { x with slot := 2, bonds := x.bonds ++ seen } :: rest ∧
          (t.slice x.unit).rowsDue = [] ∧ (t.slice x.unit).rowsUsed = sl.rowsUsed + sl.rowsDue.length ∧
          t.boot.rowsRepaired = sat 16 (s.boot.rowsRepaired + sl.rowsDue.length) ∧
          t.boot.rowsUnrepaired = sat 16 s.boot.rowsUnrepaired ∧ ∀ j, j ≠ x.unit → t.slice j = s.slice j) ∧
      let after := if x.slot = 3 then { x with slot := 4 } :: rest else rest
      let u := testUnit x.unit
      x.slot = 3 ∨ x.slot = 4 →
      exec (.maintenanceSlot p [] rows) s = .next (ran after) ∧
      ∀ (b : Bond) (g l : Nat), badBonds x.unit [b] = [(g, l)] → setOf u.1 g = set → bit (setsOut s u.1 u.2) set = false →
        let sp := (sparedGroups s u.1 u.2).find? fun e => e.1 == g
        let o := exec (.maintenanceSlot p [b] rows) s
        ((g, l) ∉ x.bonds ∨ sp = some (g, l) → o = .next (ran after)) ∧
        ((g, l) ∈ x.bonds → sp = none → ∃ t, o = .next t ∧ t.boot.tests = after ∧
          sparedGroups t u.1 u.2 = sparedGroups s u.1 u.2 ++ [(g, l)] ∧ setsOut t u.1 u.2 = setsOut s u.1 u.2 ∧
          (∀ k i, t.unitState k i = s.unitState k i) ∧
          (l = 32 → t.flp = s.flp ∧ t.evt = s.evt) ∧
          (l ≠ 32 → t.evt.bits.testBit 0 = true ∧ t.boot.ftsRepaired = true ∧ t.boot.ftsType = u.1 ∧ t.boot.ftsUnit = u.2 ∧
            t.boot.ftsGroup = g ∧
            t.flp.cur.seamSpared + t.flp.cur.dramSpared = s.flp.cur.seamSpared + s.flp.cur.dramSpared + 1)) ∧
        ∀ l', (g, l) ∈ x.bonds → sp = some (g, l') → l' ≠ l → putOff s = false → codesOk s.flp.cur → s.unitState u.1 u.2 < 3 →
          ∃ t, o = .next t ∧ t.boot.tests = after ∧
            let out := u.1 = 3 ∧ (t.slice u.2).fencing.isSome = true ∨ u.1 = 4 ∧ t.unitState 4 u.2 = 3
            (setsOut s u.1 u.2 = 0 →
              if u.1 = 3 ∧ s.unitState 3 u.2 = 2 then out else t.unitState u.1 u.2 = 1) ∧
            (setsOut s u.1 u.2 = 2 ^ (1 - set) → out))

/-! ### Profiles, flash and bundles -/

/-- PROFILE_SWITCH (R36, Table 2-10): a command in order runs; intake stops on every stream that is not shed; drain mode
waits for the requests, abort mode leaves only those that stop at their next step boundary. Its drain ends, once no request
is left, in the prepare of the quiesce. -/
def Obligations.ProfileSwitches : Prop :=
  (∀ (s : State) (e : Fin 32) (j : Job), newJob s e 0x0201 = some j → j.malformed 2 = false → j.arg 0 ≤ 7 → j.arg 1 ≤ 1 →
    (s.img.running.isSome = true → s.img.cmdEn = true) → switchBusy s = false →
    (s.fslot (j.arg 0)).state = 2 → bit s.boot.slotSkip (j.arg 0) = false →
    belowFloor s (j.arg 0) = false →
    ∃ t, exec (.profileSwitch e) s = .next t ∧ EntryIs t e 2 0 ∧
      (∀ n ∈ s.streamIds, (t.stream n).state = if (s.stream n).state = 3 then 3 else 4) ∧
      (j.arg 1 = 1 → t.img.switch = some ⟨e, j.arg 0, if s.img.running.isSome then some s.img.active else none,
          false, false, .drain, s.img.running.map (·.digest)⟩ ∧ ∀ n, (t.stream n).reqs = (s.stream n).reqs) ∧
      (j.arg 1 = 0 → ∀ n ∈ s.streamIds, ∀ q ∈ (t.stream n).reqs, q.step.isSome ∧ q.failing.isSome)) ∧
  ∀ (s : State) (w : Switch), s.img.switch = some w → w.phase = .drain → w.abort = false → busyStreams s = false →
    exec .profileSwitchDrainEnd s = .next { s with
      img := { s.img with switch := some { w with phase := .quiesce } }, ep := { s.ep with change := some (.quiesce, false, s.now) } }

/-- Steps 4 to 8 of a profile switch (Table 2-10, R38, R39, R367), each with the last acknowledgement of the phase before. The
quiesce done, the target's shadow copy is verified, and the prepare of the structure commit is broadcast with the image's mode;
its commit advances the epoch and puts the new image's binding, reservations, tables and modes in place between two cycles; the
image then fits and starts, the command complete and the changes put off made; a prepare unanswered for 1 ms is rolled back,
and the model makes it again (log 42). A target that fails at step 5 or 7 brings steps 4 to 8 for the previous slot, the
command ending failed with 0x0006 "refused, previous restored"; with none before it no image runs, with the same status (the
model's choice, log 38). -/
def Obligations.SwitchSteps : Prop :=
  ∀ (s : State) (w : Switch) (t0 : Nat), s.img.switch = some w → w.target < 8 →
    let b := s.shadowBytes w.target
    let sh := s.shadow w.target
    let fails := fun (t : State) => match w.restoring, w.previous with
      | false, some p => t.img.switch = some { w with target := p, restoring := true, phase := .quiesce } ∧
          t.ep.change = some (.quiesce, false, s.now) ∧ t.img.running = s.img.running
      | _, _ => t.img.switch = none ∧ t.img.running = none ∧ (s.flp.deferred = [] → EntryIs t w.entry 5 6)
    (∀ k, k = .quiesce ∨ k = .structure_ → s.ep.change = some (k, false, t0) → t0 + 1000000 ≤ s.now →
      ∃ t, exec .modePrepareTimeout s = .next t ∧ t.ep.change = some (k, false, s.now) ∧ t.ep.rolledBack = true ∧
        t.ep.rollbacks = satInc 8 s.ep.rollbacks ∧ t.ep.epoch = s.ep.epoch ∧ t.img = s.img) ∧
    (s.ep.change = some (.quiesce, true, t0) →
      (∀ im, sha256 b = sh.digest → loadImage (loadEnv s) b = .ok im →
        ∃ t, exec .modeCommitComplete s = .next t ∧ t.ep.change = some (.structure_, false, s.now) ∧
          t.img = { s.img with switch := some { w with phase := .commit } } ∧
          ∀ c, c < 272 → s.coreOn c = true → (t.core c).sfu.shadow = some (false, im.compat.getD false)) ∧
      ∀ c, (if sha256 b = sh.digest then loadImage (loadEnv s) b = .error c else c = sh.loadError) →
        ∃ t, exec .modeCommitComplete s = .next t ∧ fails t ∧ t.img.loadError = c ∧ t.img.sourceSlot = w.target) ∧
    ∀ im, switchImage s w = some im →
      (∀ m, s.ep.change = some (.structure_, false, t0) → bindClusters s.flp.cur im = .ok m →
        ∃ t, exec .modePrepareComplete s = .next t ∧ t.ep.epoch = (s.ep.epoch + 1) % 65536 ∧
          t.ep.change = some (.structure_, true, s.now) ∧ t.img.running = some im ∧ t.img.bind = m ∧ t.reg.resv = im.resv ∧
          t.streams = [] ∧ t.img.switch = some w ∧
          ∀ c, c < 272 → s.coreOn c = true → (t.core c).sfu.bank = false ∧ (t.core c).sfu.compat = im.compat.getD false ∧
            (t.core c).sfu.shadow = none ∧ (t.core c).sfu.epoch = t.ep.epoch) ∧
      (s.ep.change = some (.structure_, true, t0) →
        (∀ f, fit (fitInput s) im = .ok f → ∃ t, exec .modeCommitComplete s = .next t ∧ t.img.switch = none ∧
          t.ep.change = none ∧ t.img.active = w.target ∧ t.img.running = s.img.running ∧
          (s.flp.deferred = [] → (if w.restoring then EntryIs t w.entry 5 6 else EntryIs t w.entry 3 0) ∧
            ((im.streams.map (·.id)).Nodup → ∀ r ∈ im.streams, (t.stream r.id).cls = r.cls ∧
              ((t.stream r.id).state = 1 ∨ (t.stream r.id).state = 2))) ∧
          (∀ x ∈ t.img.resident, ∃ y ∈ im.bundles, y.digest = x.1 ∧ y.home = x.2.1) ∧
          (Inv s → t.flp.deferred = [] ∧ ∀ d ∈ s.flp.deferred, 1 ≤ d.1 → d.1 ≤ 5 → d.2.2.1 = 3 → t.unitState d.1 d.2.1 = 3)) ∧
        ∀ e, fit (fitInput s) im = .error e →
          ∃ t, exec .modeCommitComplete s = .next t ∧ fails t ∧ t.fit.refused = true)

/-- The three checks of a well-formed PROFILE_SWITCH (R36), in order: not enabled while an image runs and PROF_CMD_EN
reads 0; busy while another switch, a slot write, an image load or a mode change (R369) is in progress; slot invalid for a
target that is not valid, or that the boot skips as invalid (Table 14-5). A refused one changes no profile, stream or slot. -/
def Obligations.ProfileSwitchRefusals : Prop :=
  ∀ (s : State) (e : Fin 32) (j : Job), newJob s e 0x0201 = some j → j.malformed 2 = false → j.arg 0 ≤ 7 → j.arg 1 ≤ 1 →
    let refused := fun status => ∃ t, exec (.profileSwitch e) s = .next t ∧ EntryIs t e 4 status ∧
      t.img = s.img ∧ t.streams = s.streams ∧ t.ep = s.ep ∧ t.fit = s.fit
    let off := s.img.running.isSome = true ∧ s.img.cmdEn = false
    let busy := s.img.switch.isSome = true ∨ (∃ k n b, s.img.flashOp = some (.slot k n b)) ∨ s.boot.ready = false ∨
      s.ep.change.isSome = true
    (off → refused 0xF) ∧
    (¬ off → busy → refused 3) ∧
    (¬ off → ¬ busy →
      (s.fslot (j.arg 0)).state ≠ 2 ∨ bit s.boot.slotSkip (j.arg 0) = true → refused 5)

/-- SLOT_WRITE, SLOT_ERASE and FW_WRITE in order (R31, R32, R300) run, with the slot or firmware copy marked as being
written and the flash in a program pulse; a write that begins voids the slot's shadow. The end of an erase leaves the slot
empty, that of a slot write leaves it valid, its copy in the slot's place in bonded DRAM (R34), or, where the image does not
load, invalid; that of a firmware write leaves the copy valid, and staged until the next boot (R349), with the sequence after
the other copy's if it verifies, and invalid otherwise, the other copy as it was. -/
def Obligations.FlashWrites : Prop :=
  (∀ (s u : State) (e : Fin 32) (j : Job) (data : Option (List Byte)) (b : List Byte),
    newJob s e 0x0202 = some j → j.malformed 3 = false → j.arg 0 ≤ 7 → 0 < j.arg 2 → j.arg 2 ≤ 0x3800000 →
    runningSlot s (j.arg 0) = false → flashBusy s = false → fetchLink s (j.arg 1) (j.arg 2) data = (.bytes b, u) →
    ∃ t, exec (.slotWrite e data) s = .next t ∧ EntryIs t e 2 0 ∧ (t.fslot (j.arg 0)).state = 1 ∧
      (t.fslot (j.arg 0)).writes = (s.fslot (j.arg 0)).writes + 1 ∧ t.shadow (j.arg 0) = {} ∧
      t.img.flashOp = some (.slot e (j.arg 0) b) ∧ t.img.pulse = true ∧
      ∀ k, k ≠ j.arg 0 → t.fslot k = s.fslot k ∧ t.shadow k = s.shadow k) ∧
  (∀ (s : State) (e : Fin 32) (j : Job), newJob s e 0x0203 = some j → j.malformed 1 = false → j.arg 0 ≤ 7 →
    runningSlot s (j.arg 0) = false → flashBusy s = false →
    ∃ t, exec (.slotErase e) s = .next t ∧ EntryIs t e 2 0 ∧ (t.fslot (j.arg 0)).state = 1 ∧ t.shadow (j.arg 0) = {} ∧
      t.img.flashOp = some (.erase e (j.arg 0)) ∧ t.img.pulse = true ∧
      ∀ k, k ≠ j.arg 0 → t.fslot k = s.fslot k ∧ t.shadow k = s.shadow k) ∧
  (∀ (s u : State) (e : Fin 32) (j : Job) (data : Option (List Byte)) (b : List Byte),
    let copyB := j.arg 0 == 1
    newJob s e 0x0204 = some j → j.malformed 3 = false → j.arg 0 ≤ 1 → 0 < j.arg 2 → j.arg 2 ≤ 0x800000 →
    copyB ≠ s.img.fwRunB → flashBusy s = false → fetchLink s (j.arg 1) (j.arg 2) data = (.bytes b, u) →
    ∃ t, exec (.fwWrite e data) s = .next t ∧ EntryIs t e 2 0 ∧ (t.img.fw copyB).state = 1 ∧
      t.img.fw (!copyB) = s.img.fw (!copyB) ∧ t.img.flashOp = some (.fw e copyB b) ∧ t.img.pulse = true) ∧
  ∀ (s : State) (op : FlashOp), s.resetting = false → s.img.flashOp = some op →
    ∃ t, exec .flashWriteComplete s = .next t ∧ t.img.flashOp = none ∧ t.img.pulse = false ∧
      match op with
      | .erase e n => EntryIs t e 3 0 ∧ t.fslot n = { writes := (s.fslot n).writes }
      | .slot e n b => match loadImage (loadEnv s) b with
        | .error c => EntryIs t e 5 7 ∧ (t.fslot n).state = 3 ∧ t.img.loadError = c
        | .ok im => EntryIs t e 3 0 ∧ (t.fslot n).state = 2 ∧ (t.fslot n).digest = im.digest ∧ (t.shadow n).made = true ∧
          mread t.mem (shadowBase n) b.length = b ∧
          (b.length ≤ 0x3800000 → (∀ l ∈ shadowLines n b.length, readable s l = true) → t.shadowBytes n = b) ∧
          ∀ a, a < shadowBase n ∨ shadowBase n + b.length ≤ a → mget t.mem a = mget s.mem a
      | .fw e copyB b =>
        if fwVerifies s b then EntryIs t e 3 0 ∧ (t.img.fw copyB).state = 2 ∧ (t.img.fw copyB).bytes = b ∧
          (t.img.fw copyB).seq = (s.img.fw !copyB).seq + 1 ∧ (t.img.fw copyB).staged = true ∧
          t.img.fw (!copyB) = s.img.fw (!copyB)
        else EntryIs t e 5 1 ∧ t.img.fw copyB = { s.img.fw copyB with state := 3 } ∧ t.img.fw (!copyB) = s.img.fw (!copyB)

/-- BUNDLE_LOAD in order (R40, R353, R354): the bundle is resident once the container opens and every chunk's tag holds,
and is not where one fails. BUNDLE_STAGE, BUNDLE_EVICT and STAGE_AT_START (R41, R115, R117) put their work in line for the
bundle's window. -/
def Obligations.BundleCommands : Prop :=
  ∀ (s : State) (i : Nat) (ref : BundleRef), refOf s i = some ref → bundleBusy s = false →
    (∀ (u : State) (e : Fin 32) (j : Job) (data : Option (List Byte)) (b : List Byte),
      newJob s e 0x0205 = some j → j.arg 0 = i → j.malformed 3 = false →
      fetchLink s (j.arg 1) (j.arg 2) data = (.bytes b, u) →
      ∃ t, exec (.bundleLoad e data) s = .next t ∧ match openContainer b ref with
        | .error st => EntryIs t e 5 st ∧ t.img.resident = u.img.resident
        | .ok key =>
          if (loadChunks e ref.home ref.plainSize key b (chunkCount ref.plainSize) (startCmd u j)).1
          then EntryIs t e 3 0 ∧ (ref.digest, ref.home, ref.plainSize) ∈ t.img.resident
          else EntryIs t e 5 0x106 ∧ ∀ r ∈ t.img.resident, ¬ (r.1 = ref.digest ∧ r.2.1 = ref.home)) ∧
    ((windowNo s ref.window).isSome = true →
      (∀ (e : Fin 32) (j : Job), newJob s e 0x0206 = some j → j.arg 0 = i → j.malformed 1 = false →
        isResident s ref = true → ∃ t, exec (.bundleStage e) s = .next t ∧ EntryIs t e 2 0 ∧
          t.img.stagings = s.img.stagings ++ [(ref.window, i, false, some e.val, s.nextLaunch)]) ∧
      (∀ (e : Fin 32) (j : Job), newJob s e 0x0207 = some j → j.arg 0 = i → j.malformed 1 = false →
        ∃ t, exec (.bundleEvict e) s = .next t ∧ EntryIs t e 2 0 ∧
          t.img.stagings = s.img.stagings ++ [(ref.window, i, true, some e.val, s.nextLaunch)]) ∧
      ∀ k : Fin 1024, k.val = i → ref.atStart = true → isResident s ref = true → tget false s.img.staged i = false →
        (∀ x ∈ s.img.stagings, x.2.1 = i → x.2.2.1 = true) →
        exec (.stageAtStart k) s = .next { s with img := { s.img with
          stagings := s.img.stagings ++ [(ref.window, i, false, none, s.nextLaunch)] } })

/-! ### Mode changes -/

/-- SF_TABLE_LOAD with no incomplete core (R187) puts its records into the shadow bank of every enabled core, its active
bank staying as it is; SF_COMMIT (R188) gives every enabled core the bank and mode to change to, and broadcasts prepare. -/
def Obligations.TableCommands : Prop :=
  (∀ (s u : State) (e : Fin 32) (j : Job) (data : Option (List Byte)) (b : List Byte) (c : Nat),
    newJob s e 0x0901 = some j → j.malformed 3 = false → j.arg 2 ≤ 1 → j.arg 1 % 0x840 = 0 → 0 < j.arg 1 →
    j.arg 1 ≤ 17 * 0x840 → tableRefused s = false → fetchLink s (j.arg 0) (j.arg 1) data = (.bytes b, u) →
    tableSetOk (tableRecs b) = true → c < 272 → u.coreOn c = true →
    ∃ t, exec (.sfTableLoad e data []) s = .next t ∧ EntryIs t e 3 0 ∧
      (t.core c).sfu.activeBank = (u.core c).sfu.activeBank ∧
      (t.core c).sfu.shadowBank = (slotRecs (tableRecs b)).foldl (fun a x => tput none a x.1 (some x.2))
        (if j.arg 2 = 1 then (u.core c).sfu.activeBank else (u.core c).sfu.shadowBank) ∧
      { t.core c with sfu := (u.core c).sfu } = u.core c) ∧
  ∀ (s : State) (e : Fin 32) (j : Job) (c : Nat), newJob s e 0x0902 = some j → j.malformed 2 = false →
    j.arg 0 ≤ 1 → j.arg 1 ≤ 2 → tableRefused s = false →
    (j.arg 0 = 1 → ∀ k, k < 272 → s.coreOn k = true → emptyNamed s (s.core k).sfu.shadowBank = false) →
    c < 272 → s.coreOn c = true →
    ∃ t compat, exec (.sfCommit e) s = .next t ∧ EntryIs t e 2 0 ∧
      t.ep.change = some (.sf e.val (j.arg 0 == 1) (j.arg 1), false, s.now) ∧ t.ep.pendMode = s.ep.pendMode ∧
      (j.arg 1 = 0 → compat = false) ∧ (j.arg 1 = 1 → compat = true) ∧
      (∀ m, j.arg 1 = 2 → s.ep.pendMode = some m → compat = m) ∧
      t.core c = { s.core c with sfu := { (s.core c).sfu with
        shadow := some ((s.core c).sfu.bank != (j.arg 0 == 1), compat) } }

/-- The two-phase commit of SF_COMMIT (R188, R367 to R369): every participant's acknowledgement commits, the epoch
advances and each enabled core takes the bank and mode it holds, a pending mode being used up by a command that names it;
the last commit acknowledgement ends the command with a
notice; 1 ms without an acknowledgement rolls it back, or after the commit fences each receiver that is late and completes
without them. -/
def Obligations.ModeChanges : Prop :=
  ∀ (s : State) (e : Nat) (swap : Bool) (compat t0 : Nat),
    (s.ep.change = some (.sf e swap compat, false, t0) →
      (∃ t, exec .modePrepareComplete s = .next t ∧ t.ep.epoch = (s.ep.epoch + 1) % 65536 ∧
        t.ep.change = some (.sf e swap compat, true, s.now) ∧
        t.ep.pendMode = (if compat = 2 then none else s.ep.pendMode) ∧
        { t with ep := s.ep, cores := s.cores } = s ∧
        ∀ c, c < 272 → s.coreOn c = true → ∀ h, (s.core c).sfu.shadow = some h →
          t.core c = { s.core c with sfu := { (s.core c).sfu with
            epoch := (s.ep.epoch + 1) % 65536, bank := h.1, compat := h.2, shadow := none } }) ∧
      (t0 + 1000000 ≤ s.now →
        ∃ t, exec .modePrepareTimeout s = .next t ∧ EntryIs t e 5 0xC ∧ t.ep.change = none ∧ t.ep.epoch = s.ep.epoch ∧
          t.ep.rolledBack = true ∧ t.ep.rollbacks = satInc 8 s.ep.rollbacks ∧
          ∀ c, (t.core c).sfu.shadow = none ∧ (t.core c).sfu.bank = (s.core c).sfu.bank)) ∧
    (s.ep.change = some (.sf e swap compat, true, t0) →
      (∃ t, exec .modeCommitComplete s = .next t ∧ EntryIs t e 3 0 ∧ t.ep.change = none ∧
        t.evt.head = (s.evt.head + 1) % 4096 ∧ t.cores = s.cores) ∧
      ∀ late : List Receiver, late ≠ [] → t0 + 1000000 ≤ s.now → putOff s = false → codesOk s.flp.cur →
        ∃ t, exec (.modeCommitTimeout late) s = .next t ∧ EntryIs t e 3 0 ∧ t.ep.change = none ∧ ∀ r ∈ late, match r with
          | .core c => t.unitState 2 c = 3
          | .bonded c => t.unitState 4 c = 3
          | .lpddr c => t.unitState 5 c = 3
          | .slice n => s.inService 3 n = true → (t.slice n).fencing.isSome = true
          | .palm n => s.engineOn n = true → 2 ≤ t.unitState 3 n ∨ (t.slice n).fencing.isSome = true)

/-! ### Windows, units and the Lining -/

/-- HOST_WINDOW_BIND (R282) binds or unbinds a declared window no body copy uses; RESET_UNIT (R317) begins the partial
reset of an idle unit; MODULE_RESET completes and begins a warm reset of cause 4; LINING_WRITE writes one operator
register. -/
def Obligations.ModuleCommands : Prop :=
  ∀ (s : State) (e : Fin 32) (j : Job),
    (∀ w, newJob s e 0x0D01 = some j → hostWindow s (j.arg 0) = some w → j.malformed 3 = false → j.arg 1 % 4096 = 0 →
      j.arg 1 < 2 ^ 52 → j.arg 2 ≤ w.size → copyFrom s (j.arg 0) = false →
      ∃ t, exec (.hostWindowBind e) s = .next t ∧ EntryIs t e 3 0 ∧
        tget none t.hlk.binds (j.arg 0) = (if j.arg 2 = 0 then none else some (j.arg 1, j.arg 2)) ∧
        ∀ k, k ≠ j.arg 0 → tget none t.hlk.binds k = tget none s.hlk.binds k) ∧
    (∀ u, newJob s e 0x0F01 = some j → unitOf (j.arg 0) (j.arg 1) = some u → j.malformed 2 = false →
      unitFenced s u = false → unitBound s u = false → s.img.switch = none → s.boot.ready = true →
      (∀ p ∈ s.rst.partials, p.entry = none) → covering s u = none →
      ∃ t, exec (.resetUnit e) s = .next t ∧ EntryIs t e 2 0 ∧ ∃ p, t.rst.partials = s.rst.partials ++ [p] ∧
        p.unit = u ∧ p.trigger = 1 ∧ p.since = s.now ∧ p.absorbed = false ∧ p.entry = some e.val) ∧
    (∀ env, newJob s e 0x0F02 = some j → j.malformed 0 = false →
      exec (.moduleReset e env) s = .next (warmReset (endCmd (startCmd s j) e true 0) 4 env)) ∧
    (newJob s e 0x0F03 = some j → j.malformed 2 = false → 12 ≤ j.arg 0 → j.arg 0 ≤ 15 →
      ∃ t, exec (.liningWrite e) s = .next t ∧ EntryIs t e 3 0 ∧
        ∀ k, tget 0 t.rst.backup k = if k = j.arg 0 then BitVec.ofNat 64 (j.arg 1) else tget 0 s.rst.backup k)

/-! ### Provisioning and the Visor -/

/-- The commands of Table 17-3 (R342 to R347, R357): PROV_CLAIM from the management port provisions an unprovisioned module;
an authorised command whose signature and counter hold raises the counter and has its effect on the operator record; one
whose signature or counter does not hold changes no field of the record and sets auth_fail; VISOR_CLOSE ends a session.
While a flash write, a profile switch or a reset is under way each is refused as busy (R346); PROV_CLAIM is refused 0x0002 from
the host or on a provisioned module, and every authorised command on an unprovisioned one. One that step 4 of R344 refuses has
raised the counter and has no other effect (R345). -/
def Obligations.SecurityCommands : Prop :=
  (∀ (s : State) (e : Fin 32) (j : Job) (code : Nat) (i : Instr),
    (code, i) ∈ [(0x1101, Instr.provClaim e), (0x1102, .signerSet e), (0x1103, .signerClear e), (0x1104, .floorRaise e),
      (0x1105, .settingWrite e), (0x1106, .operatorReplace e), (0x1107, .provRelease e), (0x1108, .visorOpen e),
      (0x1109, .visorClose e)] →
    newJob s e code = some j →
    let refused := fun (op : OpRec) (status : Nat) => ∃ t, exec i s = .next t ∧ EntryIs t e 4 status ∧ t.sec.op = op ∧
      t.sec.errOpcode = code ∧ t.sec.errStatus = status ∧ { t with sec := s.sec, hlk := s.hlk, jobs := s.jobs } = s
    (secBusy s = true → refused s.sec.op 3) ∧
    (secBusy s = false →
      (code = 0x1101 → j.malformed 8 = true → refused s.sec.op 1) ∧
      (code = 0x1101 → j.malformed 8 = false → e.val < 16 ∨ s.sec.op.state ≠ 0 → refused s.sec.op 2) ∧
      (code ≠ 0x1101 → code ≠ 0x1109 → s.sec.op.state = 0 → refused s.sec.op 2) ∧
      (code ≠ 0x1101 → code ≠ 0x1109 → s.sec.op.state ≠ 0 →
        let judged := fun status =>
          if authentic s j = true ∧ s.sec.op.authCounter < rd j.args 0xA8 8
          then refused { s.sec.op with sequence := s.sec.op.sequence + 1, authCounter := rd j.args 0xA8 8 } status
          else ∃ t, exec i s = .next t ∧ EntryIs t e 4 (if authentic s j then 0x102 else 0x101) ∧ t.sec.op = s.sec.op
        let slot := signerAt s (j.arg 0)
        (j.badAuth (match code with
          | 0x1102 => 10
          | 0x1103 => 1
          | 0x1104 => 2
          | 0x1105 => 3
          | 0x1106 => 8
          | 0x1107 => 0
          | _ => 1) = true → judged 1) ∧
        (code = 0x1102 → j.badAuth 10 = false → j.arg 0 ≤ 7 → j.arg 9 < 2 ^ 32 → slot.valid = true → judged 0x103) ∧
        (code = 0x1103 → j.badAuth 1 = false → j.arg 0 ≤ 7 → slot.valid = false → judged 0x103) ∧
        (code = 0x1104 → j.badAuth 2 = false → j.arg 1 < 2 ^ 32 →
          (j.arg 0 ≤ 7 → slot.valid = false → judged 0x103) ∧
          (j.arg 0 ≤ 7 → slot.valid = true → j.arg 1 < slot.floor → judged 0x104) ∧
          (j.arg 0 = 0xFF → j.arg 1 < s.sec.op.fwFloor ∨ (s.img.fw s.img.fwRunB).security < j.arg 1 →
            judged 0x104)) ∧
        (code = 0x1105 → setting (j.arg 0) (j.arg 1) (j.arg 2) = none → judged 1) ∧
        (code = 0x1108 → j.badAuth 1 = false → j.arg 0 = 0 ∨ 86400 < j.arg 0 → judged 1)))) ∧
  ∀ (s : State) (e : Fin 32) (j : Job), secBusy s = false →
    let op := s.sec.op
    let n := rd j.args 0xA8 8
    let next := { op with sequence := op.sequence + 2, authCounter := n }
    (newJob s e 0x1101 = some j → j.malformed 8 = false → 16 ≤ e.val → op.state = 0 →
      ∃ t, exec (.provClaim e) s = .next t ∧ EntryIs t e 3 0 ∧ t.sec.op =
        { op with sequence := op.sequence + 1, state := 1, opX := (j.key 0).1, opY := (j.key 0).2 }) ∧
    (newJob s e 0x1109 = some j → j.malformed 0 = false →
      ∃ t, exec (.visorClose e) s = .next t ∧ EntryIs t e 3 0 ∧ t.vis.until_ = none) ∧
    (op.state ≠ 0 →
      (newJob s e 0x1102 = some j → j.badAuth 10 = false → j.arg 0 ≤ 7 → j.arg 9 < 2 ^ 32 →
        (signerAt s (j.arg 0)).valid = false → ∃ t, exec (.signerSet e) s = .next t ∧ Authorised s t j
          (t.sec.op = { next with signers := tput {} op.signers (j.arg 0) ⟨true, (j.key 1).1, (j.key 1).2, j.arg 9⟩ })) ∧
      (newJob s e 0x1103 = some j → j.badAuth 1 = false → j.arg 0 ≤ 7 → (signerAt s (j.arg 0)).valid = true →
        ∃ t, exec (.signerClear e) s = .next t ∧ Authorised s t j
          (t.sec.op = { next with signers := tput {} op.signers (j.arg 0) {} })) ∧
      (newJob s e 0x1104 = some j → j.badAuth 2 = false → j.arg 1 < 2 ^ 32 →
        (j.arg 0 ≤ 7 → (signerAt s (j.arg 0)).valid = true → (signerAt s (j.arg 0)).floor ≤ j.arg 1 →
          ∃ t, exec (.floorRaise e) s = .next t ∧ Authorised s t j (t.sec.op = { next with
            signers := tput {} op.signers (j.arg 0) { signerAt s (j.arg 0) with floor := j.arg 1 } })) ∧
        (j.arg 0 = 0xFF → op.fwFloor ≤ j.arg 1 → j.arg 1 ≤ (s.img.fw s.img.fwRunB).security →
          ∃ t, exec (.floorRaise e) s = .next t ∧ Authorised s t j (t.sec.op = { next with fwFloor := j.arg 1 }))) ∧
      (∀ f, newJob s e 0x1105 = some j → j.badAuth 3 = false → setting (j.arg 0) (j.arg 1) (j.arg 2) = some f →
        ∃ t, exec (.settingWrite e) s = .next t ∧ Authorised s t j
          (t.sec.op = f next ∧ { t.sec with op := s.sec.op, opA := s.sec.opA, opAValid := s.sec.opAValid,
                                            opB := s.sec.opB, opBValid := s.sec.opBValid } = s.sec)) ∧
      (newJob s e 0x1106 = some j → j.badAuth 8 = false → ∃ t, exec (.operatorReplace e) s = .next t ∧
        Authorised s t j (t.sec.op = { next with opX := (j.key 0).1, opY := (j.key 0).2 } ∧ t.vis.until_ = none)) ∧
      (newJob s e 0x1107 = some j → j.badAuth 0 = false → ∃ t, exec (.provRelease e) s = .next t ∧
        Authorised s t j (t.sec.op = { next with state := 2 })) ∧
      (newJob s e 0x1108 = some j → j.badAuth 1 = false → 0 < j.arg 0 → j.arg 0 ≤ 86400 →
        ∃ t, exec (.visorOpen e) s = .next t ∧ Authorised s t j
          (t.sec.op = { next with debugEpoch := satInc 32 op.debugEpoch } ∧ t.vis.altered = false ∧
           t.vis.until_ = some (s.now + j.arg 0 * 1000000000) ∧
           satInc 32 op.debugEpoch ∈ t.sec.journalA ++ t.sec.journalB)))

/-- A step of the Visor, a host write that the module takes (R264), on a halted group of a core it may hold (R153): exactly one
instruction issues for the group's active lanes, then the group is halted again, and step_done is set. One that has to be
tried again, or whose operand is still on its way, leaves the group running until it issues; an illegal one traps, and the
block is held; a group in a wait or at a barrier halts again in that stall or after it. -/
def Obligations.VisorStepIssuesOne : Prop :=
  ∀ s : State, BarOpen s → s.vis.until_.isSome = true → s.vis.core < 272 → s.coreOn s.vis.core = true →
    let c := s.vis.core
    let g := s.vis.group
    let x := { s.grp c g with stepDone := false }
    class0Core s c = false → x.st = .halted →
    let v := { s with hlk := { s.hlk with barTicks := recent s s.hlk.barTicks ++ [s.now] } }
    let u := (v.setGrp c g x).setGrp c g { x with st := .running, skipBp := true, stepping := true }
    (∃ t, exec (.visorStep .ok) s = .next t ∧ t.vis.cmdStatus = 0 ∧
      ((t.grp c g).st ≠ .running → (t.grp c g).stepDone = true ∧ (t.grp c g).stepping = false)) ∧
    ((∃ a b, x.stall = .tokens a b) ∨ (∃ b, x.stall = .barrier b) →
      ∃ t, exec (.visorStep .ok) s = .next t ∧ (t.grp c g).st = .halted ∧ (t.grp c g).haltCause = 2 ∧
        (t.grp c g).stepDone = true) ∧
    ∀ w, Comes u c g w →
      (legal w = false → ∃ t, exec (.visorStep .ok) s = .next t ∧ (t.grp c g).st = .trapped ∧ (t.grp c g).trapCode = 1 ∧
        (t.grp c g).stepDone = true) ∧
      (legal w = true → x.hazard (operandsOf (u.core c) g w) = true → exec (.visorStep .ok) s = .next (visorAnswer u 0)) ∧
      (legal w = true → x.hazard (operandsOf (u.core c) g w) = false → ∀ f, bodyOf (major w) = some f →
        let y := (f u c g w .ok).grp c g
        y.st = .running → ∃ t, exec (.visorStep .ok) s = .next t ∧ t.grp c g =
          if y.stall = .retry then y
          else { y with st := .halted, haltCause := 2, stepDone := true, stepping := false, skipBp := false })

/-- The Visor's other commands, host writes that the module takes (R264), within a session on the group it selects (R151 to
R155): halt, with the cause of a breakpoint that the next instruction, at the PC its stop address pops to, matches; resume,
which issues a matched instruction without matching it again; abort, the request ending by the trap that holds the block or,
with none, with its stream shed (log 72); and loads and stores of the group's registers, PC and mask; a class-0 group is not
halted. At its expiry (R358) the session is over, no breakpoint or trap-hold is left, halted groups run again, and a block
that trap-hold held is aborted, its request ending by the trap. -/
def Obligations.VisorCommands : Prop :=
  (∀ s : State, BarOpen s → s.vis.until_.isSome = true → s.vis.core < 272 → s.coreOn s.vis.core = true →
    let c := s.vis.core
    let g := s.vis.group
    let x := { s.grp c g with stepDone := false }
    let done := fun (t : State) (y : Group) => t.vis.cmdStatus = 0 ∧ t.grp c g = y ∧
      (∀ k, k ≠ g → t.grp c k = s.grp c k) ∧ (∀ k, k ≠ c → t.core k = s.core k) ∧ t.streams = s.streams
    (class0Core s c = false → x.st = .running →
      let b := (x.stall == Stall.none) && bpHit (s.core c) g (popStops 33 x).pc.toNat && !x.skipBp
      ∃ t, exec .visorHalt s = .next t ∧ done t { x with
        st := .halted, haltCause := if b then 1 else 0, skipBp := x.skipBp || b, stepping := false }) ∧
    (class0Core s c = true → ∃ t, exec .visorHalt s = .next t ∧ t.vis.cmdStatus = 1 ∧ t.grp c g = x) ∧
    (x.st = .halted → ∃ t, exec .visorResume s = .next t ∧ done t x.resume ∧
      (x.stall = .none → x.resume = { x with st := .running, stepping := false })) ∧
    (∀ n slot, x.st = .running ∨ x.st = .halted ∨ x.st = .trapped → liveReq s x = some (n, slot) →
      let why := match holdingTrap s c g with
        | some y => trapReason y.trapCode y.trapDetail y.trapWhy
        | none => 3
      ∃ t, exec .visorAbort s = .next t ∧ t.vis.cmdStatus = 0 ∧ (why = 3 → (t.stream n).state = 3) ∧
        (why ≠ 3 → (t.stream n).state = (s.stream n).state) ∧
        (∀ q ∈ (t.stream n).reqs, q.slot ≠ slot) ∧
        ∀ k ∈ x.slots, (s.grp c k).st ≠ .idle → (t.grp c k).st = .draining ∨ (t.grp c k).st = .idle) ∧
    ∀ v : Word, x.st = .halted ∨ x.st = .trapped →
      let target := fld v.toNat 27 24
      let lane := fld v.toNat 20 16
      let i := fld v.toNat 7 0
      target < 4 → (target = 0 → i < 128) → (target = 1 → i < 32) →
      (∃ t, exec (.visorAccessLoad v) s = .next t ∧ done t x ∧ t.vis.dataHi = 0 ∧
        t.vis.dataLo = (if target = 0 then x.getV i lane else if target = 1 then x.getU i else if target = 2 then x.pc
                        else x.mask)) ∧
      ∃ t, exec (.visorAccessStore v) s = .next t ∧ t.vis.altered = true ∧ t.vis.stores = (s.vis.stores + 1) % 2 ^ 32 ∧
        let d := s.vis.dataLo
        done t (if target = 0 then x.setV i lane d else if target = 1 then x.setU i d
                else if target = 2 then { x.leave with pc := d } else { x with mask := d &&& x.live })) ∧
  ∀ (s : State) (t0 : Nat), s.vis.until_ = some t0 → t0 ≤ s.now →
    ((∀ c g, (s.grp c g).st ≠ .trapped) →
      ∃ t, exec .visorSessionExpiry s = .next t ∧ t.vis.until_ = none ∧ t.evt.head = (s.evt.head + 1) % 4096 ∧
        ∀ c, (t.core c).hold = false ∧ (∀ i, i < 4 → (tget {} (t.core c).bps i).enable = false) ∧
          ∀ g, g < 16 → t.grp c g = (s.grp c g).resume) ∧
    ∀ c g n slot, g < 16 → (s.grp c g).st = .trapped → liveReq s (s.grp c g) = some (n, slot) → g ∈ (s.grp c g).slots →
      (∀ c' g', (s.grp c' g').st = .trapped → c' = c ∧ g' = g) →
      let why := trapReason (s.grp c g).trapCode (s.grp c g).trapDetail (s.grp c g).trapWhy
      ∃ t, exec .visorSessionExpiry s = .next t ∧ t.vis.until_ = none ∧ (why = 3 → (t.stream n).state = 3) ∧
        (∀ q ∈ (t.stream n).reqs, q.slot ≠ slot) ∧ ((t.grp c g).st = .draining ∨ (t.grp c g).st = .idle)

/-! ### Partial resets and fences -/

/-- The reset bits of the Crown and its recovery (R317 to R320, R362): a unit in service that no reset covers begins a
partial reset; one that fails a second time is fenced. A reset ends with what Table 15-5 keeps: of a core, and of each core of
a cluster or partition, everything but its groups, barriers, banks, queues and the local memory outside the code region; a
Palm engine has its launches wait again, in order, and counts them as replays (R127); a slice has written its dirty lines back
and keeps of its hashed lines the poisoned ones, with its dead-tag filter; a controller that drained or whose Cuff absorbed
goes on with what its slices hold. A slice waits for its weights' homes. Past its drain limit a Cuff absorbs; a memory-side
block not released within 200 µs is fenced, and a request that a slice held gets a bus error (R320); a fence by command takes
its unit out of service. -/
def Obligations.UnitResets : Prop :=
  ∀ s : State,
    let begins := fun (o : Host.Outcome State Fault Refusal) (u : UnitRef) => ∃ t p, o = .next t ∧
      t.rst.partials = s.rst.partials ++ [p] ∧ p.unit = u ∧ p.trigger = 2 ∧ p.since = s.now ∧ p.absorbed = false ∧
      t.cores = s.cores ∧ t.slices = s.slices ∧ t.flp = s.flp
    (∀ u, unitFenced s u = false → s.resetting = false → covering s u = none →
      (∀ c, u = .core c → begins (exec (.coreSwReset c) s) u) ∧
      (∀ n, u = .palm n → begins (exec (.palmSwReset n) s) u) ∧
      (∀ n, u = .slice n → begins (exec (.sliceSwReset n) s) u) ∧
      (∀ c, u = .bonded c → begins (exec (.controllerSwReset false c) s) u) ∧
      (∀ c, u = .lpddr c → begins (exec (.controllerSwReset true c) s) u) ∧
      (unitCode u ∉ s.evt.recovered → begins (exec (.unitPollTimeout u) s) u ∧
        ((∀ c, u ≠ .cluster c) → (∀ q, u ≠ .partition q) → begins (exec (.controlStateUncorrectable u) s) u)) ∧
      (∀ c, u = .bonded c → unitCode u ∈ s.evt.recovered → putOff s = false → codesOk s.flp.cur →
        ∃ t, exec (.unitPollTimeout u) s = .next t ∧ t.unitState 4 c = 3)) ∧
    (∀ (u : UnitRef) (p : Partial), s.rst.partials.find? (fun p => p.unit == u) = some p →
      let ends := fun (t : State) => (∀ q ∈ t.rst.partials, q.unit ≠ u) ∧ t.rst.outcome = b2n p.absorbed ∧
        t.rst.trigger = p.trigger ∧ ∀ e, p.entry = some e → EntryIs t e 3 0
      ((∃ c, u = .core c) ∨ (∃ c, u = .cluster c) ∨ (∃ q, u = .partition q) →
        ∃ t, exec (.partialResetComplete u) s = .next (goOn t) ∧ ends t ∧ ∀ c ∈ unitCores u, t.core c = { s.core c with
          groups := [], bars := [], banks := [], mq := [], dq := [], mxRun := [], dmaRun := [], lastKind := none, a0Free := 0
          lm := (s.core c).lm.filter fun e => decide (4096 * (s.core c).codeBase ≤ e.1) }) ∧
      (∀ n, u = .palm n → let e := s.engine n
        let kept := e.run0.toList ++ e.q0 ++ e.run1.toList ++ e.q1
        ∃ t, exec (.partialResetComplete u) s = .next (goOn t) ∧ ends t ∧
          t.engine n = { e with q0 := e.run0.toList ++ e.q0, q1 := e.run1.toList ++ e.q1, run0 := none, run1 := none
                                suspended := false, replays := sat 16 (e.replays + kept.length) } ∧
          (∀ j, j ≠ n.val → t.engine j = s.engine j) ∧
          (∀ x ∈ t.launches, some x.1 = e.run0 ∨ some x.1 = e.run1 → n.val ∉ x.2.started) ∧
          t.evt.head = (if kept = [] then s.evt.head else (s.evt.head + 1) % 4096)) ∧
      (heldTraffic u = true → p.since + 200000 < s.now → exec (.partialResetComplete u) s = .next s) ∧
      (∀ n, u = .slice n → (homesHeld s n = true → exec (.partialResetComplete u) s = .next s) ∧
        (homesHeld s n = false → s.now ≤ p.since + 200000 → (s.engine n).shares = [] →
          (∀ x ∈ s.windows, x.slocal = true → ¬ (x.firstSlice ≤ n.val ∧ n.val < x.firstSlice + x.sliceCount)) →
          let v := if p.absorbed then s else drainSlice s n
          let w := writeDirty v n fun _ => true
          ∃ t, exec (.partialResetComplete u) s = .next (goOn (release t n)) ∧ ends t ∧
            (t.slice n).filter = (w.slice n).filter ∧
            (t.slice n).lines = ((w.slice n).lines.filter fun e => e.2.poison && hashedLine w e.2).map fun e =>
              (e.1, { e.2 with age := 0 }))) ∧
      (∀ c, u = .bonded c → s.now ≤ p.since + 200000 →
        let v := if p.absorbed then s else drainCtl s false c
        ∃ t, exec (.partialResetComplete u) s = .next (goOn (admitCtl t false c)) ∧ ends t ∧ t.mem = v.mem ∧
          t.bc c = { v.bc c with heldPages := [] } ∧ ∀ j, j ≠ c.val → t.bc j = v.bc j) ∧
      (∀ c, u = .lpddr c → s.now ≤ p.since + 200000 →
        let v := if p.absorbed then s else drainCtl s true c
        ∃ t, exec (.partialResetComplete u) s = .next (goOn (admitCtl t true c)) ∧ ends t ∧ t.pages = v.pages ∧
          t.lp c = { v.lp c with heldPages := [] } ∧ ∀ j, j ≠ c.val → t.lp j = v.lp j) ∧
      (p.since + 200000 ≤ s.now →
        (∀ n, u = .slice n → ∃ t, exec (.partialResetTimeout u) s = .next t ∧
          (s.inService 3 n = true → (t.slice n).fencing.isSome = true) ∧
          (s.hlk.queue = [] → (t.slice n).held = [] ∧
            ∀ r, (s.slice n).miss = [] → (s.slice n).inq ++ (s.slice n).held = [r] → Failed s t r.src 1)) ∧
        (putOff s = false → codesOk s.flp.cur →
          (∀ c, u = .bonded c → ∃ t, exec (.partialResetTimeout u) s = .next t ∧ t.unitState 4 c = 3) ∧
          ∀ c, u = .lpddr c → ∃ t, exec (.partialResetTimeout u) s = .next t ∧ t.unitState 5 c = 3)) ∧
      (p.absorbed = false → p.since + drainLimit u ≤ s.now →
        ∃ t, exec (.cuffTimeout u) s = .next t ∧ t.rst.absorbed = true ∧ t.rst.absorbSets = satInc 8 s.rst.absorbSets ∧
          t.rst.partials = s.rst.partials.map fun q => if q.unit = u then { q with absorbed := true } else q)) ∧
    (putOff s = false → codesOk s.flp.cur →
      (∀ c, ∃ t, exec (.fenceByCrownCommand (.core c)) s = .next t ∧ t.unitState 2 c = 3) ∧
      (∀ c, ∃ t, exec (.fenceByCrownCommand (.bonded c)) s = .next t ∧ t.unitState 4 c = 3) ∧
      (∀ c, ∃ t, exec (.fenceByCrownCommand (.lpddr c)) s = .next t ∧ t.unitState 5 c = 3)) ∧
    ∀ n : Fin 128, s.inService 3 n = true → (s.slice n).fencing = none →
      exec (.fenceByCrownCommand (.slice n)) s = .next (s.setSlice n { s.slice n with fencing := some (7, 0) })

/-- Over every command (R21): no unit comes to stand better than it stood, but where the floor plan starts afresh, at power-on
(R18) or with the Lining lost (R322). One floor plan change (R21, R23, R39): a unit never improves, and a slice that has lost both a set and its Palm engine
goes out of service (1.7); one that is out of service stays so and none is changed for it; a change made at once leaves its
unit in the new state, two generations on, with the delta logged, and no unit but it and the cluster of a core; from step 4
to step 8 of a switch it is put off. -/
def Obligations.FencedUnitsStayFenced : Prop :=
  (∀ (i : Instr) (s t : State), Inv s → exec i s = .next t → NoBetter (startsAfresh i) s t) ∧
  ∀ (s : State) (ut id new reason detail : Nat),
    let old := s.unitState ut id
    let aim := movesTo ut old new
    let t := floorChange s ut id new reason detail
    (aim = if ut = 3 ∧ ((old = 1 ∧ new = 2) ∨ (old = 2 ∧ new = 1)) then 3 else new) ∧
    (aim ≤ old → t = s) ∧
    (new ≤ 3 → ∀ ut' id', s.unitState ut' id' = 3 → t.unitState ut' id' = 3) ∧
    (old < aim → putOff s = true → t = { s with flp := { s.flp with
      deferred := s.flp.deferred ++ [(ut, id, aim, reason, detail)] } }) ∧
    (1 ≤ ut → ut ≤ 5 → old < aim → putOff s = false →
      t.unitState ut id = aim ∧
      (ut ≠ 2 → t.flp.cur.generation = (s.flp.cur.generation + 2) % 2 ^ 32 ∧ t.flp.next = (s.flp.next + 1) % 64 ∧
        (tget {} t.flp.deltas s.flp.next).unitType = ut ∧ (tget {} t.flp.deltas s.flp.next).unitId = id ∧
        (tget {} t.flp.deltas s.flp.next).old = old ∧ (tget {} t.flp.deltas s.flp.next).new = aim) ∧
      ∀ ut' id', (ut', id') ≠ (ut, id) → (ut', id') ≠ (1, clusterOf id) → t.unitState ut' id' = s.unitState ut' id')

/-! ### Control space and the command page -/

/-- Accesses to control space over the link that R264 lets through (R43, R263, R366): FIT_COUNT_LO reads the low half of
the intake counter and latches the high half; a write clears the sticky bits written as one, a set count staying, and no
bit that is set in the same cycle; any other register outside the Visor block ignores its write, which is counted; a Visor
data word takes it; a configuration word takes it in the bits that are not fixed, the places of 13.1's identification words
and BARs being presumed of the PCI header (log 79). A read before the module answers the host completes as an unsupported
request (R308). -/
def Obligations.ControlSpace : Prop :=
  ∀ s : State,
    (s.hlk.up = true → hostOpen s = true → exec .fitCountLoRead s = .next { s with
      fit := { s.fit with hiLatch := s.now / 2 ^ 32 % 2 ^ 32 }, out := s.out ++ [.regData [BitVec.ofNat 32 s.now]] }) ∧
    (s.hlk.up = true → hostOpen s = false →
      exec .fitCountLoRead s = .next { s with out := s.out ++ [.unsupported] }) ∧
    (s.hlk.up = true → hostOpen s = true → (recent s s.hlk.barTicks).length < 4096 →
      let hlk := { s.hlk with barTicks := recent s s.hlk.barTicks ++ [s.now] }
      (∀ v sets : Word, ∃ t, exec (.w1cClearWrite 0x500004 v sets) s = .next t ∧
        (∀ i, i < 6 → t.hlk.events.testBit i =
          (s.hlk.events.testBit i && !(v.getLsbD i && !sets.getLsbD i))) ∧
        { t with hlk := s.hlk } = s ∧ { t.hlk with events := s.hlk.events } = hlk) ∧
      (∀ v : Word, ∃ t, exec (.registerWrite 0x700000 v) s = .next t ∧
        (∀ i, i < 4 → t.evt.bits.testBit i = (s.evt.bits.testBit i && !v.getLsbD i)) ∧
        { t.evt with bits := s.evt.bits } = s.evt ∧ { t with evt := s.evt, hlk := s.hlk } = s) ∧
      (∀ (off : BitVec 28) (v : Word), w1cWrite { s with hlk := hlk } off.toNat v.toNat = none →
        off.toNat < 0x800000 ∨ 0x900000 ≤ off.toNat →
        exec (.registerWrite off v) s = .next { s with hlk := { hlk with dropCtl := satInc 16 s.hlk.dropCtl } }) ∧
      ∀ v : Word, s.vis.until_.isSome = true →
        exec (.registerWrite 0x801010 v) s = .next { s with hlk := hlk, vis := { s.vis with dataLo := v } }) ∧
    (s.hlk.up = true → s.boot.ready = true → (recent s s.hlk.cfgTicks).length < 64 →
      ∀ (off : BitVec 12) (v : Word), let o := off.toNat / 4 * 4
      ∃ t, exec (.configWrite off v) s = .next t ∧ cfgReg t o = cfgFixed o ||| (v &&& cfgWritable o) ∧
        (∀ k, k ≠ o → cfgReg t k = cfgReg s k) ∧ cfgReg t 0 = cfgReg s 0 ∧ cfgReg t 8 = 0x120000B0 ∧
        { t with hlk := s.hlk } = s)

/-- The limits of R264 while the link is up and the module answers the host: of the last 100,000 ticks at most 64
configuration writes and 4096 BAR writes are taken, each transaction counting one whatever its length; one beyond is
discarded and counted, with no answer but the normal one; reads are never limited. -/
def Obligations.HostWriteLimits : Prop :=
  ∀ s : State, s.hlk.up = true →
    let gone := fun (o : Host.Outcome State Fault Refusal) => ∃ t, o = .next t ∧
      t.hlk.dropCtl = satInc 16 s.hlk.dropCtl ∧ t.hlk.events = setBit s.hlk.events 3 ∧ { t with hlk := s.hlk } = s ∧
      { t.hlk with dropCtl := s.hlk.dropCtl, events := s.hlk.events, evtSets := s.hlk.evtSets } = s.hlk
    let bars := s.hlk.barTicks.filter fun t => decide (s.now < t + 100000)
    let cfgs := s.hlk.cfgTicks.filter fun t => decide (s.now < t + 100000)
    let bar := fun (o : Host.Outcome State Fault Refusal) =>
      (4096 ≤ bars.length → gone o) ∧
      (bars.length < 4096 → ∃ t, o = .next t ∧ t.hlk.barTicks = bars ++ [s.now] ∧ t.hlk.cfgTicks = s.hlk.cfgTicks)
    (hostOpen s = true →
      (∀ off v, bar (exec (.registerWrite off v) s)) ∧
      (∀ off v sets, bar (exec (.w1cClearWrite off v sets) s)) ∧
      (∀ e off bs, bar (exec (.hostCommandEntryWrite e off bs) s)) ∧
      (4096 ≤ bars.length → gone (exec .visorHalt s) ∧ gone (exec .visorResume s) ∧ gone (exec .visorAbort s) ∧
        (∀ ecc, gone (exec (.visorStep ecc) s)) ∧
        ∀ v, gone (exec (.visorAccessLoad v) s) ∧ gone (exec (.visorAccessStore v) s))) ∧
    (s.boot.ready = true → ∀ off v,
      (64 ≤ cfgs.length → gone (exec (.configWrite off v) s)) ∧
      (cfgs.length < 64 → ∃ t, exec (.configWrite off v) s = .next t ∧ t.hlk.cfgTicks = cfgs ++ [s.now] ∧
        t.hlk.barTicks = s.hlk.barTicks)) ∧
    (hostOpen s = true → ∀ bars' cfgs', let u := { s with hlk := { s.hlk with barTicks := bars', cfgTicks := cfgs' } }
      ∃ t, exec .fitCountLoRead u = .next t ∧ t.hlk = u.hlk ∧
        t.out = s.out ++ [.regData [BitVec.ofNat 32 s.now]])

/-- The command page (R280, R281): a poll takes the first four posted entries, refusing those whose opcode is unknown, and
touches no other; the host fills the body of a free entry and posts it by writing one into its status word; what it writes
into the body of an entry that runs is discarded and counted. -/
def Obligations.CommandPage : Prop :=
  (∀ s : State, s.boot.ready = true → stopped s = false →
    ∃ t, exec .commandPagePoll s = .next t ∧
      (∀ e, e ∈ (postedEntries s).take 4 →
        let op := rd (s.entry e).body 0 2
        if opcodes.contains op then t.entry e = { s.entry e with taken := true } ∧
          { entry := e, opcode := op, args := slice (s.entry e).body 0 248, started := false } ∈ t.jobs
        else EntryIs t e 4 1) ∧
      ∀ e, e ∉ (postedEntries s).take 4 → t.entry e = s.entry e) ∧
  ∀ (s : State) (e : Fin 16) (off : Fin 256) (bs : List Byte),
    s.hlk.up = true → hostOpen s = true → (recent s s.hlk.barTicks).length < 4096 →
    ((s.entry e).state = 0 → 8 ≤ off.val → bs ≠ [] → ∃ t, exec (.hostCommandEntryWrite e off bs) s = .next t ∧
      (∀ i, i < 248 → (t.entry e).body.getD i 0 =
        if off.val ≤ 8 + i ∧ 8 + i < off.val + bs.length then bs.getD (8 + i - off.val) 0
        else (slice (s.entry e).body 0 248).getD i 0) ∧
      { t.entry e with body := (s.entry e).body } = s.entry e ∧ ∀ k, k ≠ e.val → t.entry k = s.entry k) ∧
    ((s.entry e).state = 0 → ∃ t, exec (.hostCommandEntryWrite e 0 (leBytes 8 1)) s = .next t ∧
      t.entry e = { s.entry e with state := 1, status := 0, progress := 0 } ∧ ∀ k, k ≠ e.val → t.entry k = s.entry k) ∧
    ((s.entry e).state = 2 → 8 ≤ off.val → bs ≠ [] → ∃ t, exec (.hostCommandEntryWrite e off bs) s = .next t ∧
      t.entry e = s.entry e ∧ t.hlk.dropSlot = satInc 16 s.hlk.dropSlot)

/-! ### The host link -/

/-- CXL.mem accesses that nothing holds at the host link (R267, R269, R273, R274): a permitted line is read at its device
address and listed; a blocked access reads zeros marked poisoned, or writes nothing, and is counted; permitted bytes outside
the rings land at their home; a commit word written to a slot that is free once what came before has taken effect lands and
its commit_stamp is written; what is written to a slot in use is discarded, counted and back-invalidated. While the module lets nothing in, a read gives
poison, with 64 zero bytes a line until it is ready (R286, R308), and a write nothing. -/
def Obligations.HostMemoryAccesses : Prop :=
  (∀ (s : State) (off : BitVec 40), s.hlk.up = true → hostOpen s = false → s.hlk.queue = [] →
    (∀ len, exec (.hostMemRead off len) s = .next { s with out := s.out ++ [.memData ((lines64 off.toNat len).map fun _ =>
      (if s.boot.ready then none else some (List.replicate 64 0#8), true))] }) ∧
    ∀ bs, exec (.hostMemWrite off bs) s = .next s) ∧
  ∀ (s : State) (off : BitVec 40) (l : Nat), s.hlk.up = true → hostOpen s = true → s.hlk.queue = [] →
    (∀ len, lines64 off.toNat len = [l] →
      (∀ w u b, hdmLine s false l = some w → (hostMay s (.read off.toNat len)).1 = true →
        devRead s false w.1.cls w.2 64 = (.ok b, u) →
        ∃ t, exec (.hostMemRead off len) s = .next t ∧ t.out.getLast? = some (.memData [(some b, false)]) ∧
          w.2 / 64 ∈ t.hlk.dir ∧ t.hlk.fwReads = s.hlk.fwReads) ∧
      (hdmLine s false l = none → ∃ t, exec (.hostMemRead off len) s = .next t ∧
        t.out = s.out ++ [.memData [(some (List.replicate 64 0#8), true)]] ∧ t.hlk.fwReads = satInc 16 s.hlk.fwReads ∧
        t.hlk.events.testBit 1 = true ∧ { t with hlk := s.hlk, out := s.out } = s)) ∧
    ∀ bs, bs ≠ [] → lines64 off.toNat bs.length = [l] →
      (hdmLine s true l = none → ∃ t, exec (.hostMemWrite off bs) s = .next t ∧
        t.hlk.fwWrites = satInc 16 s.hlk.fwWrites ∧ t.hlk.events.testBit 1 = true ∧ { t with hlk := s.hlk } = s) ∧
      ∀ w h, hdmLine s true l = some w → (hostMay s (.write off.toNat bs)).1 = true →
        let a := w.2 + (off.toNat - 64 * l)
        a % 256 + bs.length ≤ 256 → resolve s false a = .ok h →
        ((∀ i, i < bs.length → partAt s (a + i) = none) →
          exec (.hostMemWrite off bs) s = .next (homeWrite s h w.1.cls (a % 256) bs)) ∧
        (∀ n slot, let u := settleSlots s [(n, slot)]
          (∀ i, i < bs.length → partAt s (a + i) = some (n, slot, .status)) → heldStatus u n slot = 0 →
          leftStatus u n slot ((List.range bs.length).map fun i => (a + i, bs.getD i 0)) = 1 →
          exec (.hostMemWrite off bs) s = .next (devWrite (homeWrite u h w.1.cls (a % 256) bs) (s.streamClass n)
            (slotAddr s n slot + 0x28) (leBytes 8 s.now))) ∧
        ∀ n slot, let u := settleSlots s [(n, slot)]
          (∀ i, i < bs.length → partAt s (a + i) = some (n, slot, .body)) → heldStatus u n slot % 16 ≠ 0 →
          ∃ t, exec (.hostMemWrite off bs) s = .next t ∧ t.slices = u.slices ∧ t.mem = u.mem ∧ t.lps = u.lps ∧
            (t.stream n).dropped = satInc 16 (s.stream n).dropped ∧ t.hlk.dropSlot = satInc 16 s.hlk.dropSlot ∧
            t.hlk.events.testBit 2 = true ∧ .biSnp false (a / 64) ∈ t.out

/-- The link (R262, R284, R285, R378): going down it loses its bindings, keys and DOE sessions; it trains at the lanes and
the limit left; a hot reset that resets nothing else frees the entries posted and not taken and the bindings; a failed lane
narrows it; a malformed packet is answered or dropped, with an error message and a corrected event.
Answers to back-invalidations (R270, R271): the oldest one outstanding for the line is answered, and a recalled line
leaves the directory; data that comes with the answer is a host write of the line, which waits outstanding while a Cuff or a
limit holds that write (log 78); one unanswered for 4000 ticks is counted and given up; either way the requests and polls that
waited for it go on. What a hot reset, FLR and a lane failure do beyond R284 and R285, the link staying up through a hot reset
among them, is presumed of the link's family (log 79). -/
def Obligations.LinkAndBackInvalidations : Prop :=
  (
  ∀ s : State,
    let gone := fun (t : State) => (∀ w, tget none t.hlk.binds w = none) ∧ t.hlk.keys = [] ∧
      (∀ x ∈ t.sec.sessions, x.port ≠ .doe) ∧ t.hlk.events.testBit 0 = true
    (s.hlk.up = true → ∃ t, exec .linkDown s = .next t ∧ gone t ∧ t.hlk.up = false ∧ t.hlk.width = 0) ∧
    (∀ width rate, s.hlk.up = false → linkLit s = true →
      let w := min width (min (lanesLeft s.hlk.lanesDown) (limitLanes s.boot.linkLimit))
      0 < w → exec (.linkUp width rate) s = .next { s with hlk := { s.hlk with
        up := true, width := w, rate := rate, upCount := satInc 8 s.hlk.upCount
        ide := if s.sec.op.state = 0 then 0 else 1 } }) ∧
    (∀ kind env, s.hlk.up = true → kind = .flr ∨ s.sec.hotPolicy = false →
      ∃ t, exec (.hotReset kind env) s = .next t ∧ gone t ∧ t.hlk.cfg = [] ∧ t.hlk.hdmBase = none ∧ t.hlk.up = true ∧
        ∀ e, e < 16 → (s.entry e).state = 1 → (s.entry e).taken = false → EntryIs t e 0 0) ∧
    (∀ lane : Fin 16, let down := setBit s.hlk.lanesDown lane
      s.hlk.up = true → 0 < min s.hlk.width (lanesLeft down) →
      exec (.opticalLaneFailure lane) s = .next { s with hlk := { s.hlk with
        lanesDown := down, width := min s.hlk.width (lanesLeft down) } }) ∧
    ∀ answered, s.hlk.up = true → ∃ t, exec (.malformedTlpOrFlit answered) s = .next t ∧
      t.out = s.out ++ (if answered then [.unsupported] else []) ++ [.aer] ∧ t.evt.bits.testBit 0 = true ∧
      { t with evt := s.evt, out := s.out } = s) ∧
  (
  ∀ (s : State) (l since : Nat) (data : Bool) (rest : List (Bool × Nat × Nat)),
    takeFirst (fun b => b.2.1 == l) s.hlk.biOut = some ((data, l, since), rest) →
    let hlk := { s.hlk with biOut := rest, dir := if data then s.hlk.dir.filter (· != l) else s.hlk.dir }
    exec (.biResponse l none) s = .next (snpAnswered { s with hlk := hlk } l) ∧
    (∀ d off, hdmOf s (64 * l) = some off → let a := HostAcc.write off (slice d 0 64)
      ((hostMay s a).1 = true → s.hlk.up = true →
        exec (.biResponse l (some d)) s = .next (snpAnswered (hostServe { s with hlk := hlk } a) l)) ∧
      ((hostMay s a).1 = false → exec (.biResponse l (some d)) s = .next (hostMay s a).2)) ∧
    (since + 4000 ≤ s.now → ∃ t, exec (.biTimeout l) s = .next (snpAnswered t l) ∧ t.hlk.biTimeouts = satInc 12 s.hlk.biTimeouts ∧
      t.hlk.events.testBit 5 = true ∧ t.hlk.biOut = rest ∧ t.hlk.dir = hlk.dir ∧ { t with hlk := s.hlk } = s))

/-- IDE key management within an established DOE session (R286, R351): KEY_PROG with a zero key field programs the derived
key, and with another programs nothing; K_SET_GO puts the programmed set in force in place of the other; K_SET_STOP ends a
set; an integrity failure drops every key and, on a provisioned module, shows until the streams are keyed again. -/
def Obligations.IdeKeys : Prop :=
  (∀ (s : State) (id : Nat) (x : Session) (ide : IdeStream), sessionAt s .doe id = some x →
    (∃ t, exec (.ideKeyProg id ide (List.replicate 32 0#8)) s = .next t ∧ t.out = s.out ++ [.ideKm 0] ∧
      t.hlk.keys = (s.hlk.keys.filter fun y => y.ide != ide) ++
        [⟨ide, hkdfExpand (Config.exportSecret x.draw) (ideInfo ide) 32, false⟩]) ∧
    (∀ key, allZero key = false → ∃ t, exec (.ideKeyProg id ide key) s = .next t ∧ t.out = s.out ++ [.ideKm 1] ∧
      t.hlk = s.hlk) ∧
    ((∃ k ∈ s.hlk.keys, k.ide = ide) → ∃ t, exec (.ideKSetGo id ide) s = .next t ∧ t.out = s.out ++ [.ideKm 0] ∧
      (∀ k ∈ t.hlk.keys, (k.ide = ide → k.active = true) ∧ (k.ide = { ide with keySet := !ide.keySet } → k.active = false)) ∧
      t.hlk.keys.map (·.ide) = s.hlk.keys.map (·.ide)) ∧
    ∃ t, exec (.ideKSetStop id ide) s = .next t ∧ t.out = s.out ++ [.ideKm 0] ∧
      t.hlk.keys = s.hlk.keys.filter fun k => k.ide != ide) ∧
  ∀ s : State, (∃ k ∈ s.hlk.keys, k.active = true) →
    ∃ t, exec .ideIntegrityFailure s = .next t ∧ t.hlk.keys = [] ∧ t.hlk.events.testBit 4 = true ∧
      t.hlk.ide = (if s.sec.op.state = 0 then 0 else 3) ∧ t.evt.head = (s.evt.head + 1) % 4096

/-! ### The management port, SPDM and DOE -/

/-- The management port below SPDM (R288, R289, Table 13-12): within its rate a wrong datagram is discarded and counted;
discovery is answered with part, stepping and firmware version; in an established session a command is posted in a free or
ended entry, a status query and a control-space read are answered; address requests for the port's own addresses and echo
requests are answered; synchronisation follows the optics, lit from boot step 2 (R379). Posting in an entry that has ended,
and which datagrams are discarded, are the model's reading (log 81).
The DOE mailbox's own protocols once the module is ready (Table 13-1): discovery names a protocol and the next index,
0 after the last; the table access gives its entry. The codes are the model's (log 43). -/
def Obligations.ManagementPortAndDoe : Prop :=
  (
  ∀ s : State,
    (mgmtOpen s = true → arrivals s < 2000 →
      let u := arrived s .mgmt
      (∀ b, headerOk b = false → exec (.mgmtDatagram b) s = .next (mgmtDrop u)) ∧
      (∀ b, headerOk b = true → rd b 5 1 = 3 → exec (.mgmtDatagram b) s = exec (.mgmtDiscovery (BitVec.ofNat 32 (rd b 8 4))) s) ∧
      (∀ seq : Word, exec (.mgmtDiscovery seq) s = .next { u with out := s.out ++ [.mgmt 3 (
        leBytes 4 0x504D5643 ++ [1#8, 3#8] ++ leBytes 2 8 ++ leBytes 4 seq.toNat ++ leBytes 4 0 ++
        leBytes 2 0x0760 ++ leBytes 2 0xB0 ++ leBytes 4 (s.img.fw s.img.fwRunB).version)] }) ∧
      ∀ (id : Nat) (e : Fin 16), (sessionAt s .mgmt id).isSome = true →
        (∀ bs, (s.entry (16 + e.val)).state ≠ 1 → (s.entry (16 + e.val)).state ≠ 2 →
          ∃ t, exec (.mgmtCommand id e bs) s = .next t ∧ t.entry (16 + e.val) =
            (if s.boot.ready then { state := 1, body := slice bs 0 248 } else { state := 4, status := 3, body := slice bs 0 248 }) ∧
            ∀ k, k ≠ 16 + e.val → t.entry k = s.entry k) ∧
        (∃ t, exec (.mgmtStatusQuery id e) s = .next t ∧
          t.out = s.out ++ [.mgmt 2 (leBytes 8 (entryWord (s.entry (16 + e.val))))] ∧ t.hlk = u.hlk) ∧
        ∀ (off : BitVec 28) (count : Nat), if 1 ≤ count ∧ count ≤ 64
          then ∃ t, exec (.mgmtControlRead id off count) s = .next t ∧
            t.out = s.out ++ [.mgmt 2 (loadCtl (touchSession u .mgmt id) (off.toNat / 4 * 4) (4 * count)).1] ∧ t.hlk = u.hlk
          else exec (.mgmtControlRead id off count) s = .next (touchSession u .mgmt id)) ∧
    (mgmtOpen s = true →
      (∀ a : BitVec 32, a.toNat = s.sec.ipv4 →
        exec (.arpRequest a) s = .next { s with out := s.out ++ [.mgmt 0x10 (beBytes 6 s.sec.mac ++ beBytes 4 s.sec.ipv4)] }) ∧
      (∀ a : BitVec 128, a.toNat = s.sec.ipv6 ∨ a.toNat = linkLocal s.sec.mac →
        exec (.neighbourSolicitation a) s =
          .next { s with out := s.out ++ [.mgmt 0x11 (beBytes 6 s.sec.mac ++ beBytes 16 a.toNat)] }) ∧
      ∀ b, exec (.icmpEchoRequest b) s = .next { s with out := s.out ++ [.mgmt 0x12 b] }) ∧
    exec .mgmtPortSyncGained s = .next (if s.hlk.mgmtLit ∧ s.pins.pwrGood ∧ s.pwr.off = false
      then { s with hlk := { s.hlk with mgmtUp := true } } else s) ∧
    exec .mgmtPortSyncLost s = .next { s with hlk := { s.hlk with mgmtUp := false } }) ∧
  (
  ∀ s : State, s.hlk.up = true → s.resetting = false → s.boot.ready = true →
    (∀ i q, doeProtocols[i]? = some q → exec (.doeDiscovery i) s = .next { s with
      out := s.out ++ [.doe 0 (leBytes 2 q.1 ++ leBytes 1 q.2 ++ leBytes 1 (if i + 1 = 4 then 0 else i + 1))] }) ∧
    ∀ h, exec (.cdatTableAccess h) s = .next { s with out := s.out ++ [.doe 2 (leBytes 2 h ++ Config.cdatTable)] })

/-- SPDM on either transport (R348, R350, Table 17-5): version, capabilities, algorithms, digests, a portion of the
certificate chain, a signed challenge answer and one signed snapshot of all eight measurements; KEY_EXCHANGE starts one of
at most four sessions a transport, which FINISH establishes or ends; END_SESSION ends one, HEARTBEAT and KEY_UPDATE are
answered; 180 s without traffic end a session. That the negotiation's messages are answered in any order, that a failed FINISH
ends its session and that each signed answer draws one nonce are the model's reading (log 83). -/
def Obligations.SpdmMessages : Prop :=
  ∀ (s : State) (p : Port),
    let u := arrived s p
    let answers := fun (t : State) (code : Nat) (b : List Byte) => t = { u with out := s.out ++ [.spdm p code b] }
    let signed := fun (t : State) (code : Nat) (b : Nat → List Byte) (before : List Byte) => t = { u with
      rngDraws := s.rngDraws + 1
      out := s.out ++ [.spdm p code (b (Config.random s.rngDraws).toNat ++
        Config.identitySign s.rngDraws (before ++ b (Config.random s.rngDraws).toNat))] }
    (arrives s p →
      (∃ t, exec (.getVersion p) s = .next t ∧ answers t 0x04 [0x00#8, 0x12#8]) ∧
      (∃ t, exec (.getCapabilities p) s = .next t ∧ answers t 0x61 (Config.spdmPayload 0x61 0)) ∧
      (∃ t, exec (.negotiateAlgorithms p) s = .next t ∧ answers t 0x63 (Config.spdmPayload 0x63 0)) ∧
      (∃ t, exec (.getDigests p) s = .next t ∧ answers t 0x01 (sha256 Config.certChain)) ∧
      (∀ off len, let n := min len (Config.certChain.length - off)
        ∃ t, exec (.getCertificate p 0 off len) s = .next t ∧
          if Config.certChain.length ≤ off then answers t 0x7F [0x01#8]
          else answers t 0x02 (leBytes 2 n ++ leBytes 2 (Config.certChain.length - off - n) ++ slice Config.certChain off n)) ∧
      (∀ nonce : BitVec 256, ∃ t, exec (.challenge p nonce) s = .next t ∧
        signed t 0x03 (fun d => sha256 Config.certChain ++ leBytes 32 d) (leBytes 32 nonce.toNat)) ∧
      (∀ nonce : BitVec 256, ∃ t, exec (.getMeasurements p nonce) s = .next t ∧
        signed t 0x60 (fun d => (measurements u).flatMap measureBlock ++ leBytes 32 d) (leBytes 32 nonce.toNat)) ∧
      (∀ x, rngRefuses s = false → onCurve (beNat (slice x 0 32), beNat (slice x 32 32)) = true →
        (4 ≤ sessionsOn s p → ∃ t, exec (.keyExchange p x) s = .next t ∧ answers t 0x7F [0x0A#8]) ∧
        (sessionsOn s p < 4 → ∃ t, exec (.keyExchange p x) s = .next t ∧ t.rngDraws = s.rngDraws + 1 ∧
          t.sec = { s.sec with nextSession := s.sec.nextSession + 1
                               sessions := s.sec.sessions ++ [{ port := p, id := s.sec.nextSession, established := false
                                                                last := s.now, draw := s.rngDraws }] })) ∧
      (∀ id, (∃ x ∈ s.sec.sessions, x.port = p ∧ x.id = id ∧ x.established = false) →
        (∃ t, exec (.finish p id true) s = .next t ∧ t.out = s.out ++ [.spdm p 0x65 []] ∧
          ∀ x ∈ t.sec.sessions, x.port = p → x.id = id → x.established = true ∧ x.last = s.now) ∧
        ∃ t, exec (.finish p id false) s = .next t ∧ t.out = s.out ++ [.spdm p 0x7F [0x06#8]] ∧
          ∀ x ∈ t.sec.sessions, ¬ (x.port = p ∧ x.id = id)) ∧
      ∀ id, (sessionAt s p id).isSome = true →
        (∃ t, exec (.endSession p id) s = .next t ∧ t.out = s.out ++ [.spdm p 0x6C []] ∧ t.hlk = u.hlk ∧
          ∀ x ∈ t.sec.sessions, ¬ (x.port = p ∧ x.id = id)) ∧
        (∃ t, exec (.heartbeat p id) s = .next t ∧ t.out = s.out ++ [.spdm p 0x68 []] ∧
          ∀ x ∈ t.sec.sessions, x.port = p → x.id = id → x.last = s.now) ∧
        ∃ t, exec (.keyUpdate p id) s = .next t ∧ t.out = s.out ++ [.spdm p 0x6A []] ∧
          t.sec.sessions.map (·.updates) =
            s.sec.sessions.map fun x => if x.port = p ∧ x.id = id then x.updates + 1 else x.updates) ∧
    ∀ id x, s.sec.sessions.find? (fun x => x.port == p && x.id == id) = some x → x.last + 180000000000 ≤ s.now →
      exec (.sessionTimeout p id) s = .next { s with sec := { s.sec with
        sessions := s.sec.sessions.filter fun x => !(x.port == p && x.id == id) } }

/-! ### Boot and resets -/

/-- Power-on and the end of a boot (R291, R292, R295, R307, R325, R373): power-on clears everything but flash, the
provisioning area and the delivered floor plan, and boots, or with RESET_N low is held; a module tripped needs its input gone
first (R339); step 14 ends with the module ready,
its image as before where the boot takes none; a step past its limit is reset with cause 3, its number noted; a receiver
without an answer to a close of step 12 within 20 µs counts as having nothing, and with the last answer missing the boot goes
on: with another round while fewer than three resends are done, else with the end of the distribution and the steps after it. -/
def Obligations.BootCommands : Prop :=
  ∀ s : State,
    (∀ env, (s.pwr.off = true ∧ s.pwr.inputGone = false) ∨ (s.pwr.off = false ∧ s.pins.pwrGood = true) →
      exec (.powerOnReset env) s = .next s) ∧
    (∀ env, (s.pwr.off = true ∧ s.pwr.inputGone = true) ∨ (s.pwr.off = false ∧ s.pins.pwrGood = false) →
      (s.rst.pinLow = false → exec (.powerOnReset env) s = .next (runBoot (coldState s) false 1 env)) ∧
      (s.rst.pinLow = true → ∃ t, exec (.powerOnReset env) s = .next t ∧ t.rst.phase = .held) ∧
      (coldState s).cores = [] ∧ (coldState s).mem = [] ∧ (coldState s).img.running = none ∧
      (coldState s).img.slots = s.img.slots ∧ (coldState s).img.fwA = s.img.fwA ∧ (coldState s).img.fwB = s.img.fwB ∧
      (coldState s).sec.op = s.sec.op ∧ ∀ ut id, (coldState s).unitState ut id = s.flp.delivered.get ut id) ∧
    (imageReady s = true → ∃ t, exec .imageStart s = .next t ∧ t.boot.ready = true ∧ t.boot.step = 0xF ∧
      t.boot.passAt = s.now ∧ (s.boot.imageSkip = true → t.img = s.img ∧ (bootStepAt t.boot.cur 14).outcome = 5)) ∧
    (∀ k env, runningStep s.boot.cur = some k → s.boot.ready = false → s.boot.terminal = false → canReset s = true →
      armedAt s.boot.cur k + stepLimit k ≤ s.now →
      let u := { s with boot := { s.boot with cur := { s.boot.cur with wdStep := k } } }
      exec (.bootWatchdogExpiry env) s = .next (enterFour (drainAll (latchReset u 3 .pulseWait)) env)) ∧
    ∀ (r : Receiver) (x : FwdRun), s.boot.fwd = some x → r ∈ x.waiting → s.resetting = false → x.closeAt + 20000 ≤ s.now →
      let left := x.waiting.filter (· != r)
      let y := { x with waiting := left }
      (left ≠ [] → exec (.fwdAnswerTimeout r) s = .next { s with boot := { s.boot with fwd := some y } }) ∧
      (left = [] → x.round < 3 → exec (.fwdAnswerTimeout r) s = .next (fwdGo (3 - x.round) s y)) ∧
      (left = [] → x.round = 3 → exec (.fwdAnswerTimeout r) s = .next (lastSteps x.env x.more (endFwd s y)))

/-- The warm reset's sources and sequence (R309, R312, R313, R360, R373, Table 15-2): a low of RESET_N of 1 µs or more, the
fatal-error timer and the two Crown failures begin it with their causes; step 4 follows the Crown's time-out and waits for
a flash pulse to end; it leaves memory, flash, the operator record and the floor plan, and no group, request or image; a
held one boots when RESET_N is released. -/
def Obligations.WarmResets : Prop :=
  (∀ (s : State) (env : BootEnv), canReset s = true →
    (∀ ns taken, 1000 ≤ ns → exec (.resetNAssert ns taken env) s =
      .next (warmReset { s with rst := { s.rst with pinLow := true } } 2 env)) ∧
    (∀ t0, s.evt.fatalAt = some t0 → s.evt.lockstep = false → t0 + 10000000 ≤ s.now →
      exec (.fatalResetTimer env) s = .next (warmReset s 4 env)) ∧
    (∃ t, exec .crownLockstepMismatch s = .next t ∧ t.pins.faultN = false ∧ t.evt.lockstep = true ∧
      t.rst.cause = 3 ∧ t.rst.phase = .crownWait ∧ t.rst.since = s.now ∧ t.rst.partials = []) ∧
    (s.boot.ready = true → ∃ t, exec .crownWatchdogExpiry s = .next t ∧
      t.rst.cause = 3 ∧ t.rst.phase = .crownWait ∧ t.rst.since = s.now ∧ t.rst.partials = [])) ∧
  (∀ (s : State) (env : BootEnv), s.rst.phase = .crownWait → s.rst.since + 1000000 ≤ s.now → s.img.pulse = true →
    exec (.warmResetCrownTimeout env) s = .next { s with rst := { s.rst with phase := .pulseWait } }) ∧
  (∀ (s : State) (env : BootEnv), s.rst.phase = .pulseWait → s.rst.pinLow = true →
    ∃ t, exec (.flashPulseEnd env) s = .next t ∧ t.rst.phase = .held ∧ t.rst.lastCause = s.rst.cause ∧
      t.rst.warmCount = satInc 8 s.rst.warmCount ∧ t.mem = s.mem ∧ t.ctrs = s.ctrs ∧ t.flp.cur = s.flp.cur ∧
      t.homes = s.homes ∧ t.img.slots = s.img.slots ∧ t.img.running = none ∧ t.sec.op = s.sec.op ∧ t.sec.sessions = [] ∧
      t.streams = [] ∧ t.jobs = [] ∧ t.vis.until_ = none ∧ (∀ n, (t.fslot n) = s.fslot n) ∧
      ∀ c, (t.core c).groups = [] ∧ (t.core c).lm = []) ∧
  ∀ (s : State) (env : BootEnv), s.rst.phase = .held → s.pins.pwrGood = true → s.pwr.off = false → s.rst.cause ≠ 1 →
    exec (.resetNRelease env) s =
      .next (runBoot { s with rst := { s.rst with pinLow := false, phase := .none } } true s.rst.cause env)

/-! ### Power, thermal and the random source -/

/-- The trips of the input (R325, R339), and losses of a converter or of a phase (R323, R324, R327): a trip takes FAULT_N
and PWR_GOOD low and both ports dark; a converter's loss puts every cluster of classes 1 to 7 at level 4; a stage-two
phase leaves one phase fewer; a cluster's first on-die phase loss halves its clock, and its second fences its cores and the
cluster. Each loss sets phase_lost. A tripped module whose input goes has its pins float high (R375).
Switching regions on (R326, R328): the next waiting region is admitted where the headroom covers 8 A, or whatever the
headroom once it has waited 150 µs, with classes 4 to 7 thinned for it; its stages close, and their end ends that. The
region's trim is left open up to 100 mV. -/
def Obligations.PowerAndRegions : Prop :=
  (
  ∀ s : State, s.pwr.off = false →
    let trips := fun (t : State) (cause : Nat) (gone : Bool) => t = { s with
      pins := { s.pins with faultN := false, pwrGood := false }
      pwr := { s.pwr with off := true, tripCause := cause, inputGone := gone }
      hlk := { s.hlk with up := false, width := 0, rate := 0, mgmtUp := false, mgmtLit := false } }
    let lost := fun (t : State) => t.pwr.phaseLost = true ∧ t.pwr.phaseSets = satInc 8 s.pwr.phaseSets
    (∃ t, exec .inputUndervoltage s = .next t ∧ trips t 2 true ∧ ∃ u, exec .inputUndervoltage t = .next u ∧
      u.pins = { faultN := true, alertN := true, pwrGood := false } ∧ u.pwr.off = true ∧ u.pwr.inputGone = true) ∧
    (∃ t, exec .inputOvervoltage s = .next t ∧ trips t 3 s.pwr.inputGone) ∧
    (∀ k : Fin 2, s.pwr.bcvOk.testBit k = true → ∃ t, exec (.busConverterFail k) s = .next t ∧ lost t ∧
      t.pwr.bcvOk = clrBit s.pwr.bcvOk k ∧ (∀ c ∈ allLow s, t.level c = 4) ∧ ∀ c, c ∉ allLow s → t.level c = s.level c) ∧
    (∀ vcache, 0 < (if vcache then s.pwr.vcachePhases else s.pwr.vcmpPhases) →
      ∃ t, exec (.stageTwoPhaseLoss vcache) s = .next t ∧ lost t ∧
        t.pwr.vcachePhases = (if vcache then s.pwr.vcachePhases - 1 else s.pwr.vcachePhases) ∧
        t.pwr.vcmpPhases = if vcache then s.pwr.vcmpPhases else s.pwr.vcmpPhases - 1) ∧
    ∀ (c : Fin 68) (phase : Fin 4), putOff s = false →
      ((s.region c).phasesOk = 0xF → s.unitState 1 c = 0 →
        ∃ t, exec (.onDiePhaseLoss c phase) s = .next t ∧ lost t ∧ t.unitState 1 c = 1 ∧
          (t.region c).phasesOk = clrBit 0xF phase) ∧
      ((s.region c).phasesOk ≠ 0xF → bit (s.region c).phasesOk phase = true → codesOk s.flp.cur → s.inService 1 c = true →
        (∃ k ∈ coresOf c, s.inService 2 k = true) →
        ∃ t, exec (.onDiePhaseLoss c phase) s = .next t ∧ lost t ∧ (∀ k ∈ coresOf c, t.unitState 2 k = 3) ∧
          t.unitState 1 c = 3 ∧ (t.region c).gated = true)) ∧
  (
  ∀ (s : State) (c : Fin 68),
    let on := fun (t : State) (forced : Bool) => (t.region c).waiting = false ∧ (t.region c).gated = false ∧
      (t.region c).closing = true ∧ (t.region c).forced = forced ∧ (t.region c).trim ≤ 100 ∧
      (t.region c).phasesOk = (s.region c).phasesOk ∧ ∀ k, k ≠ c.val → t.region k = s.region k
    (nextRegion s = some c.val →
      (∀ amps, 100 * (amps + 8) ≤ 95 * (availAmps s).1 → ∃ t, exec (.regionSwitchOn c amps) s = .next t ∧ on t false) ∧
      (∀ amps, 95 * (availAmps s).1 < 100 * (amps + 8) → exec (.regionSwitchOn c amps) s = .next s) ∧
      ((s.region c).since + 150000 ≤ s.now → ∃ t, exec (.switchOnForced c) s = .next t ∧ on t true)) ∧
    ((s.region c).closing = true → exec (.regionSwitchOnEnd c) s =
      .next (s.setRegion c { s.region c with closing := false, forced := false })))

/-- Readings (R332 to R339, R352): a diode's value and interval are kept, a missing one marks it failed, and 105 °C trips
the module; the inlet thermistor's loss shows; power and voltage are kept, and too low a voltage shows; ALERT_N follows but
for its hold through a warm reset (R321); a failed random source starts no session. -/
def Obligations.SensorReadings : Prop :=
  ∀ s : State,
    (s.pins.pwrGood = true →
      (∀ (d : Fin 24) (v : BitVec 16), -640 ≤ v.toInt → v.toInt < 1680 →
        ∃ t, exec (.thermalSample d (some v)) s = .next t ∧ t.pwr.off = s.pwr.off ∧
          (s.rst.phase = .none → t.thm.sampled = true ∧ t.pins.alertN = !alerting t) ∧
          (s.rst.phase ≠ .none → t.pins = s.pins) ∧
          t.diode d = { failed := false, temp := v.toInt
                        interval := if 1472 ≤ v.toInt then 2 else if 1392 ≤ v.toInt then 1 else 0 } ∧
          ∀ k, k ≠ d.val → t.diode k = s.diode k) ∧
      (∀ (d : Fin 24) (v : BitVec 16), 1680 ≤ v.toInt → v.toInt ≤ 2400 → s.pwr.off = false →
        ∃ t, exec (.thermalSample d (some v)) s = .next t ∧ t.pwr.off = true ∧ t.pwr.tripCause = 1 ∧
          t.pins.faultN = false ∧ t.pins.pwrGood = false) ∧
      (∀ d : Fin 24, ∃ t, exec (.thermalSample d none) s = .next t ∧ t.diode d = { s.diode d with failed := true }) ∧
      (∃ t, exec (.thermistorSample 0 none) s = .next t ∧ t.pwr.inletLost = true ∧
        t.pins.alertN = (s.pins.alertN && !alertDriven s)) ∧
      (∀ j : Fin 4, j.val ≠ 0 → ∀ v : BitVec 16, -480 ≤ v.toInt → v.toInt ≤ 2400 →
        exec (.thermistorSample j (some v)) s = .next { s with
          thm := { s.thm with ntcs := tput {} s.thm.ntcs j { failed := false, temp := v.toInt } } }) ∧
      ∀ watts volts : BitVec 16, ∃ t, exec (.powerSample watts volts) s = .next t ∧ t.pwr.watts = watts.toNat ∧
        t.pwr.volts = volts.toNat ∧ ∀ im, s.img.running = some im →
          (volts.toNat < 10 * im.envelope.inputMin → t.pwr.envInput = true ∧ t.pins.alertN = (s.pins.alertN && !alertDriven s))) ∧
    (s.sec.rngOk = true → ∃ t, exec .rngHealthFail s = .next t ∧ t.sec = { s.sec with rngOk := false } ∧
      t.evt.head = (s.evt.head + 1) % 4096 ∧ { t with sec := s.sec, evt := s.evt } = s)

/-- Throttle levels (R333 to R338, Table 16-8). A reading below 105 °C moves the levels of the partitions that its diode serves:
from 100 °C every cluster to 4; below, classes 1 to 7 up at 90 °C and down at 87 °C, class 0 up at 95 °C once those all stand at
4 and down at 92 °C, one step each; no level steps down that the power rule asks to rise or hold, nor classes 1 to 7 while
class 0 is throttled (log 57). A class-0 cluster that leaves level 0 voids the guarantee; at 92 °C with classes 1 to 7 all at 4
it is at risk until below 90 °C. With every serving diode failed classes 1 to 7 go to 4; a reading outside a sensor's range is
a failed one. Power above the cap steps classes 1 to 7 up, and after 1 ms with those all at 4 class 0 too, with env_power; at
95 % of the cap they step down. The inlet above inlet_max sets env_inlet; the other thermistors only keep what they read. -/
def Obligations.ThrottleLevels : Prop :=
  ∀ s : State, s.pins.pwrGood = true →
    let voids := fun (t : State) (p : Nat) => (∀ c ∈ highClusters s p, s.level c = 0) →
      (∃ c ∈ highClusters s p, t.level c ≠ 0) → t.fit.void = true
    (∀ (d : Fin 24) (v : BitVec 16), -640 ≤ v.toInt → v.toInt < 1680 →
      let now : Diode := { failed := false, temp := v.toInt
                           interval := if 1472 ≤ v.toInt then 2 else if 1392 ≤ v.toInt then 1 else 0 }
      let u := { s with thm := { s.thm with diodes := tput {} s.thm.diodes d now } }
      ∃ t, exec (.thermalSample d (some v)) s = .next t ∧
        (∀ p, p < 4 → p ∉ servedBy d → ∀ c ∈ clustersOf p, t.level c = s.level c) ∧
        ∀ p ∈ servedBy d, s.pwr.capSince = none ∨ servedBy d = [p] →
          let temp := partTemp u p
          let full := (lowClusters s p).all fun c => s.level c == 4
          let highUp := (highClusters s p).any fun c => decide (0 < s.level c)
          voids t p ∧
          (1600 ≤ temp → ∀ c ∈ clustersOf p, t.level c = 4) ∧
          (temp < 1600 →
            (∀ c ∈ lowClusters s p, t.level c =
              if 1440 ≤ temp then min 4 (s.level c + 1)
              else if temp ≤ 1392 ∧ highUp = false ∧ powerLetsDown s = true then s.level c - 1 else s.level c) ∧
            (∀ c ∈ highClusters s p, t.level c =
              if 1520 ≤ temp ∧ full = true then min 4 (s.level c + 1)
              else if temp ≤ 1472 ∧ powerAsksHigh s = false then s.level c - 1 else s.level c)) ∧
          tget false t.thm.risk p =
            if (highClusters s p).isEmpty then false
            else if 1472 ≤ temp ∧ full = true then true
            else if temp < 1440 then false else tget false s.thm.risk p) ∧
    (∀ d : Fin 24,
      (∀ v : BitVec 16, v.toInt < -640 ∨ 2400 < v.toInt →
        exec (.thermalSample d (some v)) s = exec (.thermalSample d none) s) ∧
      ∀ p ∈ servedBy d, (∀ k ∈ servingDiodes p, k ≠ d.val → (s.diode k).failed = true) →
        ∃ t, exec (.thermalSample d none) s = .next t ∧ ∀ c ∈ lowClusters s p, t.level c = 4) ∧
    (∀ (j : Fin 4) (v : BitVec 16), v.toInt < -480 ∨ 2400 < v.toInt →
      exec (.thermistorSample j (some v)) s = exec (.thermistorSample j none) s) ∧
    (∀ j : Fin 4, j.val ≠ 0 → exec (.thermistorSample j none) s = .next { s with thm := { s.thm with
      ntcs := tput {} s.thm.ntcs j { tget {} s.thm.ntcs j with failed := true } } }) ∧
    (∀ v : BitVec 16, -480 ≤ v.toInt → v.toInt ≤ 2400 → ∃ t, exec (.thermistorSample 0 (some v)) s = .next t ∧
      t.thm = { s.thm with ntcs := tput {} s.thm.ntcs 0 { failed := false, temp := v.toInt } } ∧
      t.pwr = { s.pwr with inletLost := false, envInlet := s.pwr.envInlet || match s.img.running with
        | some im => decide (16 * (im.envelope.inletMax : Int) < 10 * v.toInt)
        | none => false }) ∧
    ∀ (watts volts : BitVec 16) (im : Image), s.img.running = some im →
      let above := decide (im.envelope.powerCap < watts.toNat)
      let since := if above then some (s.pwr.capSince.getD s.now) else none
      let up := (allLow s).all (fun c => s.level c == 4) && since.any fun t => decide (t + 1000000 ≤ s.now)
      ∃ t, exec (.powerSample watts volts) s = .next t ∧ t.pwr.capSince = since ∧
        t.pwr.envPower = (s.pwr.envPower || up) ∧ ∀ p, p < 4 → voids t p ∧
          (∀ c ∈ lowClusters s p, t.level c =
            if above then min 4 (s.level c + 1)
            else if 100 * watts.toNat ≤ 95 * im.envelope.powerCap ∧ partTemp s p ≤ 1392 ∧
              (∀ h ∈ highClusters s p, s.level h = 0) then s.level c - 1
            else s.level c) ∧
          ∀ c ∈ highClusters s p, t.level c = if up then min 4 (s.level c + 1) else s.level c

/-! ### Events and control space -/

/-- The event log (R363 to R365, Table 18-3). An event is written at EVT_HEAD with the next sequence, never 0, and the time of
its detection, in the ring and in the Lining's tail; the head moves on, the count of its class and its sticky bit follow, and
no other record changes; a record that was open for coalescing at that place is open no more. A correction whose source and unit
have a record opened less than 1 ms ago only raises that record's coalesced count, to 0xFFFF; any other is an event of its
own, open from then on. -/
def Obligations.EventLog : Prop :=
  ∀ s : State,
    let e := s.evt
    let written := fun (t : State) (r : EvRec) =>
      tget {} t.evt.ring e.head = { r with sequence := e.seq, stamp := s.now } ∧
      tget {} t.evt.tail e.head = { r with sequence := e.seq, stamp := s.now } ∧
      (∀ i, i ≠ e.head → tget {} t.evt.ring i = tget {} e.ring i) ∧
      t.evt.head = (e.head + 1) % 4096 ∧ t.evt.seq = (if e.seq + 1 < 2 ^ 32 then e.seq + 1 else 1) ∧
      (∀ k, tget 0 t.evt.counts k = if k = r.cls then (tget 0 e.counts k + 1) % 2 ^ 32 else tget 0 e.counts k) ∧
      t.evt.sets = satInc 8 e.sets ∧
      ∀ i, t.evt.bits.testBit i = (e.bits.testBit i || i == r.cls - 1)
    (s.sec.rngOk = true → ∃ t, exec .rngHealthFail s = .next t ∧
      written t { cls := 3, source := 0x0D, stream := 0xFF } ∧ ∀ o ∈ t.evt.opened, o ∈ e.opened ∧ o.2.2.2.1 ≠ e.head) ∧
    (s.hlk.up = true → ∀ answered,
      let open_ := e.opened.find? fun o => o.1 == 0xA && o.2.1 == 0 && o.2.2.1 == 0 && decide (s.now < o.2.2.2.2 + 1000000)
      (open_ = none → ∃ t, exec (.malformedTlpOrFlit answered) s = .next t ∧
        written t { cls := 1, source := 0xA, stream := 0xFF } ∧ (0xA, 0, 0, e.head, s.now) ∈ t.evt.opened) ∧
      ∀ o, open_ = some o → ∃ t, exec (.malformedTlpOrFlit answered) s = .next t ∧
        (∀ i, tget {} t.evt.ring i = if i = o.2.2.2.1
          then { tget {} e.ring i with
            detail := (tget {} e.ring i).detail % 2 ^ 48 + 2 ^ 48 * satInc 16 ((tget {} e.ring i).detail / 2 ^ 48) }
          else tget {} e.ring i) ∧
        t.evt.head = e.head ∧ t.evt.seq = e.seq ∧ t.evt.counts = e.counts ∧ t.evt.opened = e.opened ∧
        t.evt.bits.testBit 0 = true)

/-- Reads of control space show the state (Tables 1-7, 2.8, 3.9, 7.9, 11.8, 12.11, 13.8, 15.7, 16.7, 17.8, 18.6): a word read in
an established session over the management port is made of the fields that the register's table gives it. -/
def Obligations.ControlSpaceReads : Prop :=
  ∀ (s : State) (id : Nat), mgmtOpen s = true → arrivals s < 2000 → (sessionAt s .mgmt id).isSome = true →
    let reads := fun (off w : Nat) => ∃ t, exec (.mgmtControlRead id (BitVec.ofNat 28 off) 1) s = .next t ∧
      t.out = s.out ++ [.mgmt 2 (leBytes 4 w)]
    -- FLP_STATUS and BOOT_STATUS
    reads 0x002100 (2 ^ 24 * s.flp.changedSets + 2 ^ 8 * s.flp.next + 2 * b2n (belowDelivery s.flp.cur) + b2n s.flp.changed) ∧
    reads 0x003000 (2 ^ 28 * s.boot.step + 2 ^ 16 * s.boot.cur.incomplete + 2 ^ 8 * sat 8 s.boot.cur.number +
      4 * b2n s.boot.cur.fwB + 2 * b2n s.boot.terminal + b2n s.boot.ready) ∧
    -- RST_STATUS, RST_UNIT
    reads 0x100000 (2 ^ 24 * s.rst.warmCount + 2 ^ 16 * s.rst.lastCause + 4 * b2n (s.rst.phase == .pulseWait) +
      2 * b2n (s.rst.phase != .none && s.rst.phase != .held) + b2n (!s.rst.partials.isEmpty)) ∧
    reads 0x100004 (2 ^ 24 * s.rst.unit + 2 ^ 8 * s.rst.unitId + 2 ^ 4 * s.rst.outcome + s.rst.trigger) ∧
    -- PWR_STATUS, PWR_INPUT, a cluster's region, a diode, a throttle level
    reads 0x200000 (2 ^ 24 * s.pwr.phaseSets + 2 ^ 20 * s.pwr.tripCause + 2 ^ 14 * s.pwr.bcvOk + 2 ^ 5 * b2n s.pwr.inletLost +
      2 ^ 4 * b2n s.pwr.envPower + 2 ^ 3 * b2n s.pwr.envInput + 4 * b2n s.pwr.envInlet + 2 * b2n s.pins.pwrGood +
      b2n s.pwr.phaseLost) ∧
    reads 0x200004 (2 ^ 16 * s.pwr.watts + s.pwr.volts) ∧
    (∀ c, c < 68 → reads (0x200200 + 4 * c) (2 ^ 8 * (s.region c).trim + 2 ^ 5 * b2n (s.region c).waiting +
      2 ^ 4 * b2n (s.region c).gated + (s.region c).phasesOk) ∧
      reads (0x201300 + 4 * c) (2 ^ 16 * tget 0 s.thm.level4 c + 2 ^ 3 * b2n ((s.ownerOf c).any fun r => r.cls == 0) +
        s.level c)) ∧
    (∀ d, d < 24 → reads (0x201100 + 4 * d) (2 ^ 31 * b2n (s.diode d).failed + 2 ^ 16 * (s.diode d).interval +
      unsext 16 (s.diode d).temp)) ∧
    -- IMG_STATUS, FIT_STATUS, a stream's STRM_STATUS and STRM_PROMISE
    reads 0x300000 (2 ^ 24 * s.img.loadSets + 2 ^ 16 * s.img.loadError + 2 ^ 8 * s.img.sourceSlot +
      4 * b2n s.img.switch.isSome + 2 * b2n (match s.img.switch with
        | some w => w.digest.isNone
        | none => s.img.running.isNone) + b2n s.img.loadFailed) ∧
    reads 0x300108 (2 ^ 24 * s.fit.refusedSets + 2 ^ 16 * s.fit.shedSets + 2 ^ 8 * s.fit.voidSets + 2 ^ 5 * b2n s.fit.fitting +
      2 ^ 4 * b2n s.fit.faultActive + 2 ^ 3 * b2n s.fit.atRisk + 4 * b2n s.fit.void + 2 * b2n s.fit.shed +
      b2n s.fit.refused) ∧
    (∀ n, n < 64 → reads (0x301000 + 16 * n) (2 ^ 22 * (s.stream n).margin + 2 ^ 8 * (s.stream n).cls + (s.stream n).state) ∧
      reads (0x301004 + 16 * n) (s.stream n).promise) ∧
    -- REG_STATUS
    reads 0x400000 (2 ^ 24 * s.reg.overSets + 2 * b2n s.reg.stale + b2n s.reg.overB) ∧
    -- HLK_STATUS, HLK_EVENTS, HLK_DROP
    reads 0x500000 (2 ^ 24 * s.hlk.upCount + 2 ^ 20 * s.hlk.rate + 2 ^ 15 * s.hlk.width +
      2 ^ 14 * b2n (s.hlk.up && s.hlk.rate == 6) + 2 ^ 8 * s.hlk.ide + 2 * b2n s.sec.hotPolicy + b2n s.hlk.up) ∧
    reads 0x500004 (2 ^ 24 * s.hlk.evtSets + s.hlk.events % 64) ∧
    reads 0x50000C (2 ^ 16 * s.hlk.dropSlot + s.hlk.dropCtl) ∧
    -- SEC_STATUS's failures, SEC_AUTH_ERR, the debug epoch and VIS_GSEL
    reads 0x600020 (2 ^ 16 * s.sec.errOpcode + s.sec.errStatus) ∧
    reads 0x800004 s.sec.op.debugEpoch ∧
    reads 0x801000 (2 ^ 16 * s.vis.group + s.vis.core) ∧
    -- EVT_STATUS, EVT_HEAD, EVT_SEQ, EVT_COUNT, EPOCH_STATUS and the ring's records
    reads 0x700000 (2 ^ 24 * s.evt.sets + s.evt.bits % 16) ∧ reads 0x700004 s.evt.head ∧ reads 0x700008 s.evt.seq ∧
    (∀ k, k < 5 → reads (0x700010 + 4 * k) (tget 0 s.evt.counts k)) ∧
    reads 0x700040 (2 ^ 16 * s.ep.epoch + 2 ^ 8 * sat 8 s.ep.rollbacks + 2 * b2n s.ep.rolledBack +
      b2n s.ep.change.isSome) ∧
    (∀ i k, i < 4096 → k < 8 → reads (0x710000 + 32 * i + 4 * k) (rd (evBytes (tget {} s.evt.ring i)) (4 * k) 4)) ∧
    -- A slice's and a bonded controller's status and error
    (∀ n, n < 128 → reads (0x2000000 + 0x10000 * n) (2 ^ 30 * s.unitState 3 n + 2 ^ 16 * (s.slice n).miss.length +
      ((s.slice n).lines.filter fun e => e.2.present && e.2.poison).length)) ∧
    ∀ c, c < 16 → reads (0x3000000 + 0x1000 * c) (2 ^ 30 * s.unitState 4 c + 2 ^ 16 * (s.bc c).q.length + b2n (s.bc c).hot) ∧
      reads (0x300000C + 0x1000 * c) (2 ^ 24 * (s.bc c).errSets + 2 ^ 16 * (s.bc c).errCause + 2 ^ 8 * (s.bc c).errCls +
        b2n (s.bc c).err)
end

