-- ==== Sys2Proof/Laws/State.lean ====
section
/-! SUPPORT. The fields of the state after each named update of it. -/

namespace Sys2Proof.Machine

variable (s : State)

@[simp] theorem State.setCore_now (c : Nat) (v : Core) : (s.setCore c v).now = s.now := rfl
@[simp] theorem State.setCore_flp (c : Nat) (v : Core) : (s.setCore c v).flp = s.flp := rfl
@[simp] theorem State.setCore_cores (c : Nat) (v : Core) : (s.setCore c v).cores = tput {} s.cores c v := rfl
@[simp] theorem State.setCore_engines (c : Nat) (v : Core) : (s.setCore c v).engines = s.engines := rfl
@[simp] theorem State.setCore_launches (c : Nat) (v : Core) : (s.setCore c v).launches = s.launches := rfl
@[simp] theorem State.setCore_nextLaunch (c : Nat) (v : Core) : (s.setCore c v).nextLaunch = s.nextLaunch := rfl
@[simp] theorem State.setCore_slices (c : Nat) (v : Core) : (s.setCore c v).slices = s.slices := rfl
@[simp] theorem State.setCore_homes (c : Nat) (v : Core) : (s.setCore c v).homes = s.homes := rfl
@[simp] theorem State.setCore_bcs (c : Nat) (v : Core) : (s.setCore c v).bcs = s.bcs := rfl
@[simp] theorem State.setCore_lps (c : Nat) (v : Core) : (s.setCore c v).lps = s.lps := rfl
@[simp] theorem State.setCore_mem (c : Nat) (v : Core) : (s.setCore c v).mem = s.mem := rfl
@[simp] theorem State.setCore_pages (c : Nat) (v : Core) : (s.setCore c v).pages = s.pages := rfl
@[simp] theorem State.setCore_ctrs (c : Nat) (v : Core) : (s.setCore c v).ctrs = s.ctrs := rfl
@[simp] theorem State.setCore_keys (c : Nat) (v : Core) : (s.setCore c v).keys = s.keys := rfl
@[simp] theorem State.setCore_reg (c : Nat) (v : Core) : (s.setCore c v).reg = s.reg := rfl
@[simp] theorem State.setCore_img (c : Nat) (v : Core) : (s.setCore c v).img = s.img := rfl
@[simp] theorem State.setCore_fit (c : Nat) (v : Core) : (s.setCore c v).fit = s.fit := rfl
@[simp] theorem State.setCore_streams (c : Nat) (v : Core) : (s.setCore c v).streams = s.streams := rfl
@[simp] theorem State.setCore_kvs (c : Nat) (v : Core) : (s.setCore c v).kvs = s.kvs := rfl
@[simp] theorem State.setCore_hlk (c : Nat) (v : Core) : (s.setCore c v).hlk = s.hlk := rfl
@[simp] theorem State.setCore_jobs (c : Nat) (v : Core) : (s.setCore c v).jobs = s.jobs := rfl
@[simp] theorem State.setCore_sec (c : Nat) (v : Core) : (s.setCore c v).sec = s.sec := rfl
@[simp] theorem State.setCore_vis (c : Nat) (v : Core) : (s.setCore c v).vis = s.vis := rfl
@[simp] theorem State.setCore_evt (c : Nat) (v : Core) : (s.setCore c v).evt = s.evt := rfl
@[simp] theorem State.setCore_ep (c : Nat) (v : Core) : (s.setCore c v).ep = s.ep := rfl
@[simp] theorem State.setCore_boot (c : Nat) (v : Core) : (s.setCore c v).boot = s.boot := rfl
@[simp] theorem State.setCore_rst (c : Nat) (v : Core) : (s.setCore c v).rst = s.rst := rfl
@[simp] theorem State.setCore_pwr (c : Nat) (v : Core) : (s.setCore c v).pwr = s.pwr := rfl
@[simp] theorem State.setCore_thm (c : Nat) (v : Core) : (s.setCore c v).thm = s.thm := rfl
@[simp] theorem State.setCore_pins (c : Nat) (v : Core) : (s.setCore c v).pins = s.pins := rfl
@[simp] theorem State.setCore_out (c : Nat) (v : Core) : (s.setCore c v).out = s.out := rfl
@[simp] theorem State.setCore_freeCtr (c : Nat) (v : Core) : (s.setCore c v).freeCtr = s.freeCtr := rfl
@[simp] theorem State.setCore_rngDraws (c : Nat) (v : Core) : (s.setCore c v).rngDraws = s.rngDraws := rfl
@[simp] theorem State.setCore_pending (c : Nat) (v : Core) : (s.setCore c v).pending = s.pending := rfl

@[simp] theorem State.setEngine_now (n : Nat) (v : Engine) : (s.setEngine n v).now = s.now := rfl
@[simp] theorem State.setEngine_flp (n : Nat) (v : Engine) : (s.setEngine n v).flp = s.flp := rfl
@[simp] theorem State.setEngine_cores (n : Nat) (v : Engine) : (s.setEngine n v).cores = s.cores := rfl
@[simp] theorem State.setEngine_engines (n : Nat) (v : Engine) : (s.setEngine n v).engines = tput {} s.engines n v := rfl
@[simp] theorem State.setEngine_launches (n : Nat) (v : Engine) : (s.setEngine n v).launches = s.launches := rfl
@[simp] theorem State.setEngine_nextLaunch (n : Nat) (v : Engine) : (s.setEngine n v).nextLaunch = s.nextLaunch := rfl
@[simp] theorem State.setEngine_slices (n : Nat) (v : Engine) : (s.setEngine n v).slices = s.slices := rfl
@[simp] theorem State.setEngine_homes (n : Nat) (v : Engine) : (s.setEngine n v).homes = s.homes := rfl
@[simp] theorem State.setEngine_bcs (n : Nat) (v : Engine) : (s.setEngine n v).bcs = s.bcs := rfl
@[simp] theorem State.setEngine_lps (n : Nat) (v : Engine) : (s.setEngine n v).lps = s.lps := rfl
@[simp] theorem State.setEngine_mem (n : Nat) (v : Engine) : (s.setEngine n v).mem = s.mem := rfl
@[simp] theorem State.setEngine_pages (n : Nat) (v : Engine) : (s.setEngine n v).pages = s.pages := rfl
@[simp] theorem State.setEngine_ctrs (n : Nat) (v : Engine) : (s.setEngine n v).ctrs = s.ctrs := rfl
@[simp] theorem State.setEngine_keys (n : Nat) (v : Engine) : (s.setEngine n v).keys = s.keys := rfl
@[simp] theorem State.setEngine_reg (n : Nat) (v : Engine) : (s.setEngine n v).reg = s.reg := rfl
@[simp] theorem State.setEngine_img (n : Nat) (v : Engine) : (s.setEngine n v).img = s.img := rfl
@[simp] theorem State.setEngine_fit (n : Nat) (v : Engine) : (s.setEngine n v).fit = s.fit := rfl
@[simp] theorem State.setEngine_streams (n : Nat) (v : Engine) : (s.setEngine n v).streams = s.streams := rfl
@[simp] theorem State.setEngine_kvs (n : Nat) (v : Engine) : (s.setEngine n v).kvs = s.kvs := rfl
@[simp] theorem State.setEngine_hlk (n : Nat) (v : Engine) : (s.setEngine n v).hlk = s.hlk := rfl
@[simp] theorem State.setEngine_jobs (n : Nat) (v : Engine) : (s.setEngine n v).jobs = s.jobs := rfl
@[simp] theorem State.setEngine_sec (n : Nat) (v : Engine) : (s.setEngine n v).sec = s.sec := rfl
@[simp] theorem State.setEngine_vis (n : Nat) (v : Engine) : (s.setEngine n v).vis = s.vis := rfl
@[simp] theorem State.setEngine_evt (n : Nat) (v : Engine) : (s.setEngine n v).evt = s.evt := rfl
@[simp] theorem State.setEngine_ep (n : Nat) (v : Engine) : (s.setEngine n v).ep = s.ep := rfl
@[simp] theorem State.setEngine_boot (n : Nat) (v : Engine) : (s.setEngine n v).boot = s.boot := rfl
@[simp] theorem State.setEngine_rst (n : Nat) (v : Engine) : (s.setEngine n v).rst = s.rst := rfl
@[simp] theorem State.setEngine_pwr (n : Nat) (v : Engine) : (s.setEngine n v).pwr = s.pwr := rfl
@[simp] theorem State.setEngine_thm (n : Nat) (v : Engine) : (s.setEngine n v).thm = s.thm := rfl
@[simp] theorem State.setEngine_pins (n : Nat) (v : Engine) : (s.setEngine n v).pins = s.pins := rfl
@[simp] theorem State.setEngine_out (n : Nat) (v : Engine) : (s.setEngine n v).out = s.out := rfl
@[simp] theorem State.setEngine_freeCtr (n : Nat) (v : Engine) : (s.setEngine n v).freeCtr = s.freeCtr := rfl
@[simp] theorem State.setEngine_rngDraws (n : Nat) (v : Engine) : (s.setEngine n v).rngDraws = s.rngDraws := rfl
@[simp] theorem State.setEngine_pending (n : Nat) (v : Engine) : (s.setEngine n v).pending = s.pending := rfl

@[simp] theorem State.setSlice_now (n : Nat) (v : Slice) : (s.setSlice n v).now = s.now := rfl
@[simp] theorem State.setSlice_flp (n : Nat) (v : Slice) : (s.setSlice n v).flp = s.flp := rfl
@[simp] theorem State.setSlice_cores (n : Nat) (v : Slice) : (s.setSlice n v).cores = s.cores := rfl
@[simp] theorem State.setSlice_engines (n : Nat) (v : Slice) : (s.setSlice n v).engines = s.engines := rfl
@[simp] theorem State.setSlice_launches (n : Nat) (v : Slice) : (s.setSlice n v).launches = s.launches := rfl
@[simp] theorem State.setSlice_nextLaunch (n : Nat) (v : Slice) : (s.setSlice n v).nextLaunch = s.nextLaunch := rfl
@[simp] theorem State.setSlice_slices (n : Nat) (v : Slice) : (s.setSlice n v).slices = tput {} s.slices n v := rfl
@[simp] theorem State.setSlice_homes (n : Nat) (v : Slice) : (s.setSlice n v).homes = s.homes := rfl
@[simp] theorem State.setSlice_bcs (n : Nat) (v : Slice) : (s.setSlice n v).bcs = s.bcs := rfl
@[simp] theorem State.setSlice_lps (n : Nat) (v : Slice) : (s.setSlice n v).lps = s.lps := rfl
@[simp] theorem State.setSlice_mem (n : Nat) (v : Slice) : (s.setSlice n v).mem = s.mem := rfl
@[simp] theorem State.setSlice_pages (n : Nat) (v : Slice) : (s.setSlice n v).pages = s.pages := rfl
@[simp] theorem State.setSlice_ctrs (n : Nat) (v : Slice) : (s.setSlice n v).ctrs = s.ctrs := rfl
@[simp] theorem State.setSlice_keys (n : Nat) (v : Slice) : (s.setSlice n v).keys = s.keys := rfl
@[simp] theorem State.setSlice_reg (n : Nat) (v : Slice) : (s.setSlice n v).reg = s.reg := rfl
@[simp] theorem State.setSlice_img (n : Nat) (v : Slice) : (s.setSlice n v).img = s.img := rfl
@[simp] theorem State.setSlice_fit (n : Nat) (v : Slice) : (s.setSlice n v).fit = s.fit := rfl
@[simp] theorem State.setSlice_streams (n : Nat) (v : Slice) : (s.setSlice n v).streams = s.streams := rfl
@[simp] theorem State.setSlice_kvs (n : Nat) (v : Slice) : (s.setSlice n v).kvs = s.kvs := rfl
@[simp] theorem State.setSlice_hlk (n : Nat) (v : Slice) : (s.setSlice n v).hlk = s.hlk := rfl
@[simp] theorem State.setSlice_jobs (n : Nat) (v : Slice) : (s.setSlice n v).jobs = s.jobs := rfl
@[simp] theorem State.setSlice_sec (n : Nat) (v : Slice) : (s.setSlice n v).sec = s.sec := rfl
@[simp] theorem State.setSlice_vis (n : Nat) (v : Slice) : (s.setSlice n v).vis = s.vis := rfl
@[simp] theorem State.setSlice_evt (n : Nat) (v : Slice) : (s.setSlice n v).evt = s.evt := rfl
@[simp] theorem State.setSlice_ep (n : Nat) (v : Slice) : (s.setSlice n v).ep = s.ep := rfl
@[simp] theorem State.setSlice_boot (n : Nat) (v : Slice) : (s.setSlice n v).boot = s.boot := rfl
@[simp] theorem State.setSlice_rst (n : Nat) (v : Slice) : (s.setSlice n v).rst = s.rst := rfl
@[simp] theorem State.setSlice_pwr (n : Nat) (v : Slice) : (s.setSlice n v).pwr = s.pwr := rfl
@[simp] theorem State.setSlice_thm (n : Nat) (v : Slice) : (s.setSlice n v).thm = s.thm := rfl
@[simp] theorem State.setSlice_pins (n : Nat) (v : Slice) : (s.setSlice n v).pins = s.pins := rfl
@[simp] theorem State.setSlice_out (n : Nat) (v : Slice) : (s.setSlice n v).out = s.out := rfl
@[simp] theorem State.setSlice_freeCtr (n : Nat) (v : Slice) : (s.setSlice n v).freeCtr = s.freeCtr := rfl
@[simp] theorem State.setSlice_rngDraws (n : Nat) (v : Slice) : (s.setSlice n v).rngDraws = s.rngDraws := rfl
@[simp] theorem State.setSlice_pending (n : Nat) (v : Slice) : (s.setSlice n v).pending = s.pending := rfl

@[simp] theorem State.setBc_now (n : Nat) (v : Ctlr) : (s.setBc n v).now = s.now := rfl
@[simp] theorem State.setBc_flp (n : Nat) (v : Ctlr) : (s.setBc n v).flp = s.flp := rfl
@[simp] theorem State.setBc_cores (n : Nat) (v : Ctlr) : (s.setBc n v).cores = s.cores := rfl
@[simp] theorem State.setBc_engines (n : Nat) (v : Ctlr) : (s.setBc n v).engines = s.engines := rfl
@[simp] theorem State.setBc_launches (n : Nat) (v : Ctlr) : (s.setBc n v).launches = s.launches := rfl
@[simp] theorem State.setBc_nextLaunch (n : Nat) (v : Ctlr) : (s.setBc n v).nextLaunch = s.nextLaunch := rfl
@[simp] theorem State.setBc_slices (n : Nat) (v : Ctlr) : (s.setBc n v).slices = s.slices := rfl
@[simp] theorem State.setBc_homes (n : Nat) (v : Ctlr) : (s.setBc n v).homes = s.homes := rfl
@[simp] theorem State.setBc_bcs (n : Nat) (v : Ctlr) : (s.setBc n v).bcs = tput {} s.bcs n v := rfl
@[simp] theorem State.setBc_lps (n : Nat) (v : Ctlr) : (s.setBc n v).lps = s.lps := rfl
@[simp] theorem State.setBc_mem (n : Nat) (v : Ctlr) : (s.setBc n v).mem = s.mem := rfl
@[simp] theorem State.setBc_pages (n : Nat) (v : Ctlr) : (s.setBc n v).pages = s.pages := rfl
@[simp] theorem State.setBc_ctrs (n : Nat) (v : Ctlr) : (s.setBc n v).ctrs = s.ctrs := rfl
@[simp] theorem State.setBc_keys (n : Nat) (v : Ctlr) : (s.setBc n v).keys = s.keys := rfl
@[simp] theorem State.setBc_reg (n : Nat) (v : Ctlr) : (s.setBc n v).reg = s.reg := rfl
@[simp] theorem State.setBc_img (n : Nat) (v : Ctlr) : (s.setBc n v).img = s.img := rfl
@[simp] theorem State.setBc_fit (n : Nat) (v : Ctlr) : (s.setBc n v).fit = s.fit := rfl
@[simp] theorem State.setBc_streams (n : Nat) (v : Ctlr) : (s.setBc n v).streams = s.streams := rfl
@[simp] theorem State.setBc_kvs (n : Nat) (v : Ctlr) : (s.setBc n v).kvs = s.kvs := rfl
@[simp] theorem State.setBc_hlk (n : Nat) (v : Ctlr) : (s.setBc n v).hlk = s.hlk := rfl
@[simp] theorem State.setBc_jobs (n : Nat) (v : Ctlr) : (s.setBc n v).jobs = s.jobs := rfl
@[simp] theorem State.setBc_sec (n : Nat) (v : Ctlr) : (s.setBc n v).sec = s.sec := rfl
@[simp] theorem State.setBc_vis (n : Nat) (v : Ctlr) : (s.setBc n v).vis = s.vis := rfl
@[simp] theorem State.setBc_evt (n : Nat) (v : Ctlr) : (s.setBc n v).evt = s.evt := rfl
@[simp] theorem State.setBc_ep (n : Nat) (v : Ctlr) : (s.setBc n v).ep = s.ep := rfl
@[simp] theorem State.setBc_boot (n : Nat) (v : Ctlr) : (s.setBc n v).boot = s.boot := rfl
@[simp] theorem State.setBc_rst (n : Nat) (v : Ctlr) : (s.setBc n v).rst = s.rst := rfl
@[simp] theorem State.setBc_pwr (n : Nat) (v : Ctlr) : (s.setBc n v).pwr = s.pwr := rfl
@[simp] theorem State.setBc_thm (n : Nat) (v : Ctlr) : (s.setBc n v).thm = s.thm := rfl
@[simp] theorem State.setBc_pins (n : Nat) (v : Ctlr) : (s.setBc n v).pins = s.pins := rfl
@[simp] theorem State.setBc_out (n : Nat) (v : Ctlr) : (s.setBc n v).out = s.out := rfl
@[simp] theorem State.setBc_freeCtr (n : Nat) (v : Ctlr) : (s.setBc n v).freeCtr = s.freeCtr := rfl
@[simp] theorem State.setBc_rngDraws (n : Nat) (v : Ctlr) : (s.setBc n v).rngDraws = s.rngDraws := rfl
@[simp] theorem State.setBc_pending (n : Nat) (v : Ctlr) : (s.setBc n v).pending = s.pending := rfl

@[simp] theorem State.setLp_now (n : Nat) (v : Ctlr) : (s.setLp n v).now = s.now := rfl
@[simp] theorem State.setLp_flp (n : Nat) (v : Ctlr) : (s.setLp n v).flp = s.flp := rfl
@[simp] theorem State.setLp_cores (n : Nat) (v : Ctlr) : (s.setLp n v).cores = s.cores := rfl
@[simp] theorem State.setLp_engines (n : Nat) (v : Ctlr) : (s.setLp n v).engines = s.engines := rfl
@[simp] theorem State.setLp_launches (n : Nat) (v : Ctlr) : (s.setLp n v).launches = s.launches := rfl
@[simp] theorem State.setLp_nextLaunch (n : Nat) (v : Ctlr) : (s.setLp n v).nextLaunch = s.nextLaunch := rfl
@[simp] theorem State.setLp_slices (n : Nat) (v : Ctlr) : (s.setLp n v).slices = s.slices := rfl
@[simp] theorem State.setLp_homes (n : Nat) (v : Ctlr) : (s.setLp n v).homes = s.homes := rfl
@[simp] theorem State.setLp_bcs (n : Nat) (v : Ctlr) : (s.setLp n v).bcs = s.bcs := rfl
@[simp] theorem State.setLp_lps (n : Nat) (v : Ctlr) : (s.setLp n v).lps = tput {} s.lps n v := rfl
@[simp] theorem State.setLp_mem (n : Nat) (v : Ctlr) : (s.setLp n v).mem = s.mem := rfl
@[simp] theorem State.setLp_pages (n : Nat) (v : Ctlr) : (s.setLp n v).pages = s.pages := rfl
@[simp] theorem State.setLp_ctrs (n : Nat) (v : Ctlr) : (s.setLp n v).ctrs = s.ctrs := rfl
@[simp] theorem State.setLp_keys (n : Nat) (v : Ctlr) : (s.setLp n v).keys = s.keys := rfl
@[simp] theorem State.setLp_reg (n : Nat) (v : Ctlr) : (s.setLp n v).reg = s.reg := rfl
@[simp] theorem State.setLp_img (n : Nat) (v : Ctlr) : (s.setLp n v).img = s.img := rfl
@[simp] theorem State.setLp_fit (n : Nat) (v : Ctlr) : (s.setLp n v).fit = s.fit := rfl
@[simp] theorem State.setLp_streams (n : Nat) (v : Ctlr) : (s.setLp n v).streams = s.streams := rfl
@[simp] theorem State.setLp_kvs (n : Nat) (v : Ctlr) : (s.setLp n v).kvs = s.kvs := rfl
@[simp] theorem State.setLp_hlk (n : Nat) (v : Ctlr) : (s.setLp n v).hlk = s.hlk := rfl
@[simp] theorem State.setLp_jobs (n : Nat) (v : Ctlr) : (s.setLp n v).jobs = s.jobs := rfl
@[simp] theorem State.setLp_sec (n : Nat) (v : Ctlr) : (s.setLp n v).sec = s.sec := rfl
@[simp] theorem State.setLp_vis (n : Nat) (v : Ctlr) : (s.setLp n v).vis = s.vis := rfl
@[simp] theorem State.setLp_evt (n : Nat) (v : Ctlr) : (s.setLp n v).evt = s.evt := rfl
@[simp] theorem State.setLp_ep (n : Nat) (v : Ctlr) : (s.setLp n v).ep = s.ep := rfl
@[simp] theorem State.setLp_boot (n : Nat) (v : Ctlr) : (s.setLp n v).boot = s.boot := rfl
@[simp] theorem State.setLp_rst (n : Nat) (v : Ctlr) : (s.setLp n v).rst = s.rst := rfl
@[simp] theorem State.setLp_pwr (n : Nat) (v : Ctlr) : (s.setLp n v).pwr = s.pwr := rfl
@[simp] theorem State.setLp_thm (n : Nat) (v : Ctlr) : (s.setLp n v).thm = s.thm := rfl
@[simp] theorem State.setLp_pins (n : Nat) (v : Ctlr) : (s.setLp n v).pins = s.pins := rfl
@[simp] theorem State.setLp_out (n : Nat) (v : Ctlr) : (s.setLp n v).out = s.out := rfl
@[simp] theorem State.setLp_freeCtr (n : Nat) (v : Ctlr) : (s.setLp n v).freeCtr = s.freeCtr := rfl
@[simp] theorem State.setLp_rngDraws (n : Nat) (v : Ctlr) : (s.setLp n v).rngDraws = s.rngDraws := rfl
@[simp] theorem State.setLp_pending (n : Nat) (v : Ctlr) : (s.setLp n v).pending = s.pending := rfl

@[simp] theorem State.setStream_now (n : Nat) (v : Stream) : (s.setStream n v).now = s.now := rfl
@[simp] theorem State.setStream_flp (n : Nat) (v : Stream) : (s.setStream n v).flp = s.flp := rfl
@[simp] theorem State.setStream_cores (n : Nat) (v : Stream) : (s.setStream n v).cores = s.cores := rfl
@[simp] theorem State.setStream_engines (n : Nat) (v : Stream) : (s.setStream n v).engines = s.engines := rfl
@[simp] theorem State.setStream_launches (n : Nat) (v : Stream) : (s.setStream n v).launches = s.launches := rfl
@[simp] theorem State.setStream_nextLaunch (n : Nat) (v : Stream) : (s.setStream n v).nextLaunch = s.nextLaunch := rfl
@[simp] theorem State.setStream_slices (n : Nat) (v : Stream) : (s.setStream n v).slices = s.slices := rfl
@[simp] theorem State.setStream_homes (n : Nat) (v : Stream) : (s.setStream n v).homes = s.homes := rfl
@[simp] theorem State.setStream_bcs (n : Nat) (v : Stream) : (s.setStream n v).bcs = s.bcs := rfl
@[simp] theorem State.setStream_lps (n : Nat) (v : Stream) : (s.setStream n v).lps = s.lps := rfl
@[simp] theorem State.setStream_mem (n : Nat) (v : Stream) : (s.setStream n v).mem = s.mem := rfl
@[simp] theorem State.setStream_pages (n : Nat) (v : Stream) : (s.setStream n v).pages = s.pages := rfl
@[simp] theorem State.setStream_ctrs (n : Nat) (v : Stream) : (s.setStream n v).ctrs = s.ctrs := rfl
@[simp] theorem State.setStream_keys (n : Nat) (v : Stream) : (s.setStream n v).keys = s.keys := rfl
@[simp] theorem State.setStream_reg (n : Nat) (v : Stream) : (s.setStream n v).reg = s.reg := rfl
@[simp] theorem State.setStream_img (n : Nat) (v : Stream) : (s.setStream n v).img = s.img := rfl
@[simp] theorem State.setStream_fit (n : Nat) (v : Stream) : (s.setStream n v).fit = s.fit := rfl
@[simp] theorem State.setStream_streams (n : Nat) (v : Stream) : (s.setStream n v).streams = tput {} s.streams n v := rfl
@[simp] theorem State.setStream_kvs (n : Nat) (v : Stream) : (s.setStream n v).kvs = s.kvs := rfl
@[simp] theorem State.setStream_hlk (n : Nat) (v : Stream) : (s.setStream n v).hlk = s.hlk := rfl
@[simp] theorem State.setStream_jobs (n : Nat) (v : Stream) : (s.setStream n v).jobs = s.jobs := rfl
@[simp] theorem State.setStream_sec (n : Nat) (v : Stream) : (s.setStream n v).sec = s.sec := rfl
@[simp] theorem State.setStream_vis (n : Nat) (v : Stream) : (s.setStream n v).vis = s.vis := rfl
@[simp] theorem State.setStream_evt (n : Nat) (v : Stream) : (s.setStream n v).evt = s.evt := rfl
@[simp] theorem State.setStream_ep (n : Nat) (v : Stream) : (s.setStream n v).ep = s.ep := rfl
@[simp] theorem State.setStream_boot (n : Nat) (v : Stream) : (s.setStream n v).boot = s.boot := rfl
@[simp] theorem State.setStream_rst (n : Nat) (v : Stream) : (s.setStream n v).rst = s.rst := rfl
@[simp] theorem State.setStream_pwr (n : Nat) (v : Stream) : (s.setStream n v).pwr = s.pwr := rfl
@[simp] theorem State.setStream_thm (n : Nat) (v : Stream) : (s.setStream n v).thm = s.thm := rfl
@[simp] theorem State.setStream_pins (n : Nat) (v : Stream) : (s.setStream n v).pins = s.pins := rfl
@[simp] theorem State.setStream_out (n : Nat) (v : Stream) : (s.setStream n v).out = s.out := rfl
@[simp] theorem State.setStream_freeCtr (n : Nat) (v : Stream) : (s.setStream n v).freeCtr = s.freeCtr := rfl
@[simp] theorem State.setStream_rngDraws (n : Nat) (v : Stream) : (s.setStream n v).rngDraws = s.rngDraws := rfl
@[simp] theorem State.setStream_pending (n : Nat) (v : Stream) : (s.setStream n v).pending = s.pending := rfl

@[simp] theorem State.setKv_now (n : Nat) (v : Kv) : (s.setKv n v).now = s.now := rfl
@[simp] theorem State.setKv_flp (n : Nat) (v : Kv) : (s.setKv n v).flp = s.flp := rfl
@[simp] theorem State.setKv_cores (n : Nat) (v : Kv) : (s.setKv n v).cores = s.cores := rfl
@[simp] theorem State.setKv_engines (n : Nat) (v : Kv) : (s.setKv n v).engines = s.engines := rfl
@[simp] theorem State.setKv_launches (n : Nat) (v : Kv) : (s.setKv n v).launches = s.launches := rfl
@[simp] theorem State.setKv_nextLaunch (n : Nat) (v : Kv) : (s.setKv n v).nextLaunch = s.nextLaunch := rfl
@[simp] theorem State.setKv_slices (n : Nat) (v : Kv) : (s.setKv n v).slices = s.slices := rfl
@[simp] theorem State.setKv_homes (n : Nat) (v : Kv) : (s.setKv n v).homes = s.homes := rfl
@[simp] theorem State.setKv_bcs (n : Nat) (v : Kv) : (s.setKv n v).bcs = s.bcs := rfl
@[simp] theorem State.setKv_lps (n : Nat) (v : Kv) : (s.setKv n v).lps = s.lps := rfl
@[simp] theorem State.setKv_mem (n : Nat) (v : Kv) : (s.setKv n v).mem = s.mem := rfl
@[simp] theorem State.setKv_pages (n : Nat) (v : Kv) : (s.setKv n v).pages = s.pages := rfl
@[simp] theorem State.setKv_ctrs (n : Nat) (v : Kv) : (s.setKv n v).ctrs = s.ctrs := rfl
@[simp] theorem State.setKv_keys (n : Nat) (v : Kv) : (s.setKv n v).keys = s.keys := rfl
@[simp] theorem State.setKv_reg (n : Nat) (v : Kv) : (s.setKv n v).reg = s.reg := rfl
@[simp] theorem State.setKv_img (n : Nat) (v : Kv) : (s.setKv n v).img = s.img := rfl
@[simp] theorem State.setKv_fit (n : Nat) (v : Kv) : (s.setKv n v).fit = s.fit := rfl
@[simp] theorem State.setKv_streams (n : Nat) (v : Kv) : (s.setKv n v).streams = s.streams := rfl
@[simp] theorem State.setKv_kvs (n : Nat) (v : Kv) : (s.setKv n v).kvs = tput {} s.kvs n v := rfl
@[simp] theorem State.setKv_hlk (n : Nat) (v : Kv) : (s.setKv n v).hlk = s.hlk := rfl
@[simp] theorem State.setKv_jobs (n : Nat) (v : Kv) : (s.setKv n v).jobs = s.jobs := rfl
@[simp] theorem State.setKv_sec (n : Nat) (v : Kv) : (s.setKv n v).sec = s.sec := rfl
@[simp] theorem State.setKv_vis (n : Nat) (v : Kv) : (s.setKv n v).vis = s.vis := rfl
@[simp] theorem State.setKv_evt (n : Nat) (v : Kv) : (s.setKv n v).evt = s.evt := rfl
@[simp] theorem State.setKv_ep (n : Nat) (v : Kv) : (s.setKv n v).ep = s.ep := rfl
@[simp] theorem State.setKv_boot (n : Nat) (v : Kv) : (s.setKv n v).boot = s.boot := rfl
@[simp] theorem State.setKv_rst (n : Nat) (v : Kv) : (s.setKv n v).rst = s.rst := rfl
@[simp] theorem State.setKv_pwr (n : Nat) (v : Kv) : (s.setKv n v).pwr = s.pwr := rfl
@[simp] theorem State.setKv_thm (n : Nat) (v : Kv) : (s.setKv n v).thm = s.thm := rfl
@[simp] theorem State.setKv_pins (n : Nat) (v : Kv) : (s.setKv n v).pins = s.pins := rfl
@[simp] theorem State.setKv_out (n : Nat) (v : Kv) : (s.setKv n v).out = s.out := rfl
@[simp] theorem State.setKv_freeCtr (n : Nat) (v : Kv) : (s.setKv n v).freeCtr = s.freeCtr := rfl
@[simp] theorem State.setKv_rngDraws (n : Nat) (v : Kv) : (s.setKv n v).rngDraws = s.rngDraws := rfl
@[simp] theorem State.setKv_pending (n : Nat) (v : Kv) : (s.setKv n v).pending = s.pending := rfl

@[simp] theorem State.setEntry_now (n : Nat) (v : CmdEntry) : (s.setEntry n v).now = s.now := rfl
@[simp] theorem State.setEntry_flp (n : Nat) (v : CmdEntry) : (s.setEntry n v).flp = s.flp := rfl
@[simp] theorem State.setEntry_cores (n : Nat) (v : CmdEntry) : (s.setEntry n v).cores = s.cores := rfl
@[simp] theorem State.setEntry_engines (n : Nat) (v : CmdEntry) : (s.setEntry n v).engines = s.engines := rfl
@[simp] theorem State.setEntry_launches (n : Nat) (v : CmdEntry) : (s.setEntry n v).launches = s.launches := rfl
@[simp] theorem State.setEntry_nextLaunch (n : Nat) (v : CmdEntry) : (s.setEntry n v).nextLaunch = s.nextLaunch := rfl
@[simp] theorem State.setEntry_slices (n : Nat) (v : CmdEntry) : (s.setEntry n v).slices = s.slices := rfl
@[simp] theorem State.setEntry_homes (n : Nat) (v : CmdEntry) : (s.setEntry n v).homes = s.homes := rfl
@[simp] theorem State.setEntry_bcs (n : Nat) (v : CmdEntry) : (s.setEntry n v).bcs = s.bcs := rfl
@[simp] theorem State.setEntry_lps (n : Nat) (v : CmdEntry) : (s.setEntry n v).lps = s.lps := rfl
@[simp] theorem State.setEntry_mem (n : Nat) (v : CmdEntry) : (s.setEntry n v).mem = s.mem := rfl
@[simp] theorem State.setEntry_pages (n : Nat) (v : CmdEntry) : (s.setEntry n v).pages = s.pages := rfl
@[simp] theorem State.setEntry_ctrs (n : Nat) (v : CmdEntry) : (s.setEntry n v).ctrs = s.ctrs := rfl
@[simp] theorem State.setEntry_keys (n : Nat) (v : CmdEntry) : (s.setEntry n v).keys = s.keys := rfl
@[simp] theorem State.setEntry_reg (n : Nat) (v : CmdEntry) : (s.setEntry n v).reg = s.reg := rfl
@[simp] theorem State.setEntry_img (n : Nat) (v : CmdEntry) : (s.setEntry n v).img = s.img := rfl
@[simp] theorem State.setEntry_fit (n : Nat) (v : CmdEntry) : (s.setEntry n v).fit = s.fit := rfl
@[simp] theorem State.setEntry_streams (n : Nat) (v : CmdEntry) : (s.setEntry n v).streams = s.streams := rfl
@[simp] theorem State.setEntry_kvs (n : Nat) (v : CmdEntry) : (s.setEntry n v).kvs = s.kvs := rfl
@[simp] theorem State.setEntry_hlk (n : Nat) (v : CmdEntry) : (s.setEntry n v).hlk = { s.hlk with entries := tput {} s.hlk.entries n v } := rfl
@[simp] theorem State.setEntry_jobs (n : Nat) (v : CmdEntry) : (s.setEntry n v).jobs = s.jobs := rfl
@[simp] theorem State.setEntry_sec (n : Nat) (v : CmdEntry) : (s.setEntry n v).sec = s.sec := rfl
@[simp] theorem State.setEntry_vis (n : Nat) (v : CmdEntry) : (s.setEntry n v).vis = s.vis := rfl
@[simp] theorem State.setEntry_evt (n : Nat) (v : CmdEntry) : (s.setEntry n v).evt = s.evt := rfl
@[simp] theorem State.setEntry_ep (n : Nat) (v : CmdEntry) : (s.setEntry n v).ep = s.ep := rfl
@[simp] theorem State.setEntry_boot (n : Nat) (v : CmdEntry) : (s.setEntry n v).boot = s.boot := rfl
@[simp] theorem State.setEntry_rst (n : Nat) (v : CmdEntry) : (s.setEntry n v).rst = s.rst := rfl
@[simp] theorem State.setEntry_pwr (n : Nat) (v : CmdEntry) : (s.setEntry n v).pwr = s.pwr := rfl
@[simp] theorem State.setEntry_thm (n : Nat) (v : CmdEntry) : (s.setEntry n v).thm = s.thm := rfl
@[simp] theorem State.setEntry_pins (n : Nat) (v : CmdEntry) : (s.setEntry n v).pins = s.pins := rfl
@[simp] theorem State.setEntry_out (n : Nat) (v : CmdEntry) : (s.setEntry n v).out = s.out := rfl
@[simp] theorem State.setEntry_freeCtr (n : Nat) (v : CmdEntry) : (s.setEntry n v).freeCtr = s.freeCtr := rfl
@[simp] theorem State.setEntry_rngDraws (n : Nat) (v : CmdEntry) : (s.setEntry n v).rngDraws = s.rngDraws := rfl
@[simp] theorem State.setEntry_pending (n : Nat) (v : CmdEntry) : (s.setEntry n v).pending = s.pending := rfl

@[simp] theorem State.setRegion_now (n : Nat) (v : Region) : (s.setRegion n v).now = s.now := rfl
@[simp] theorem State.setRegion_flp (n : Nat) (v : Region) : (s.setRegion n v).flp = s.flp := rfl
@[simp] theorem State.setRegion_cores (n : Nat) (v : Region) : (s.setRegion n v).cores = s.cores := rfl
@[simp] theorem State.setRegion_engines (n : Nat) (v : Region) : (s.setRegion n v).engines = s.engines := rfl
@[simp] theorem State.setRegion_launches (n : Nat) (v : Region) : (s.setRegion n v).launches = s.launches := rfl
@[simp] theorem State.setRegion_nextLaunch (n : Nat) (v : Region) : (s.setRegion n v).nextLaunch = s.nextLaunch := rfl
@[simp] theorem State.setRegion_slices (n : Nat) (v : Region) : (s.setRegion n v).slices = s.slices := rfl
@[simp] theorem State.setRegion_homes (n : Nat) (v : Region) : (s.setRegion n v).homes = s.homes := rfl
@[simp] theorem State.setRegion_bcs (n : Nat) (v : Region) : (s.setRegion n v).bcs = s.bcs := rfl
@[simp] theorem State.setRegion_lps (n : Nat) (v : Region) : (s.setRegion n v).lps = s.lps := rfl
@[simp] theorem State.setRegion_mem (n : Nat) (v : Region) : (s.setRegion n v).mem = s.mem := rfl
@[simp] theorem State.setRegion_pages (n : Nat) (v : Region) : (s.setRegion n v).pages = s.pages := rfl
@[simp] theorem State.setRegion_ctrs (n : Nat) (v : Region) : (s.setRegion n v).ctrs = s.ctrs := rfl
@[simp] theorem State.setRegion_keys (n : Nat) (v : Region) : (s.setRegion n v).keys = s.keys := rfl
@[simp] theorem State.setRegion_reg (n : Nat) (v : Region) : (s.setRegion n v).reg = s.reg := rfl
@[simp] theorem State.setRegion_img (n : Nat) (v : Region) : (s.setRegion n v).img = s.img := rfl
@[simp] theorem State.setRegion_fit (n : Nat) (v : Region) : (s.setRegion n v).fit = s.fit := rfl
@[simp] theorem State.setRegion_streams (n : Nat) (v : Region) : (s.setRegion n v).streams = s.streams := rfl
@[simp] theorem State.setRegion_kvs (n : Nat) (v : Region) : (s.setRegion n v).kvs = s.kvs := rfl
@[simp] theorem State.setRegion_hlk (n : Nat) (v : Region) : (s.setRegion n v).hlk = s.hlk := rfl
@[simp] theorem State.setRegion_jobs (n : Nat) (v : Region) : (s.setRegion n v).jobs = s.jobs := rfl
@[simp] theorem State.setRegion_sec (n : Nat) (v : Region) : (s.setRegion n v).sec = s.sec := rfl
@[simp] theorem State.setRegion_vis (n : Nat) (v : Region) : (s.setRegion n v).vis = s.vis := rfl
@[simp] theorem State.setRegion_evt (n : Nat) (v : Region) : (s.setRegion n v).evt = s.evt := rfl
@[simp] theorem State.setRegion_ep (n : Nat) (v : Region) : (s.setRegion n v).ep = s.ep := rfl
@[simp] theorem State.setRegion_boot (n : Nat) (v : Region) : (s.setRegion n v).boot = s.boot := rfl
@[simp] theorem State.setRegion_rst (n : Nat) (v : Region) : (s.setRegion n v).rst = s.rst := rfl
@[simp] theorem State.setRegion_pwr (n : Nat) (v : Region) : (s.setRegion n v).pwr = { s.pwr with regions := tput {} s.pwr.regions n v } := rfl
@[simp] theorem State.setRegion_thm (n : Nat) (v : Region) : (s.setRegion n v).thm = s.thm := rfl
@[simp] theorem State.setRegion_pins (n : Nat) (v : Region) : (s.setRegion n v).pins = s.pins := rfl
@[simp] theorem State.setRegion_out (n : Nat) (v : Region) : (s.setRegion n v).out = s.out := rfl
@[simp] theorem State.setRegion_freeCtr (n : Nat) (v : Region) : (s.setRegion n v).freeCtr = s.freeCtr := rfl
@[simp] theorem State.setRegion_rngDraws (n : Nat) (v : Region) : (s.setRegion n v).rngDraws = s.rngDraws := rfl
@[simp] theorem State.setRegion_pending (n : Nat) (v : Region) : (s.setRegion n v).pending = s.pending := rfl

@[simp] theorem State.setFslot_now (n : Nat) (v : FlashSlot) : (s.setFslot n v).now = s.now := rfl
@[simp] theorem State.setFslot_flp (n : Nat) (v : FlashSlot) : (s.setFslot n v).flp = s.flp := rfl
@[simp] theorem State.setFslot_cores (n : Nat) (v : FlashSlot) : (s.setFslot n v).cores = s.cores := rfl
@[simp] theorem State.setFslot_engines (n : Nat) (v : FlashSlot) : (s.setFslot n v).engines = s.engines := rfl
@[simp] theorem State.setFslot_launches (n : Nat) (v : FlashSlot) : (s.setFslot n v).launches = s.launches := rfl
@[simp] theorem State.setFslot_nextLaunch (n : Nat) (v : FlashSlot) : (s.setFslot n v).nextLaunch = s.nextLaunch := rfl
@[simp] theorem State.setFslot_slices (n : Nat) (v : FlashSlot) : (s.setFslot n v).slices = s.slices := rfl
@[simp] theorem State.setFslot_homes (n : Nat) (v : FlashSlot) : (s.setFslot n v).homes = s.homes := rfl
@[simp] theorem State.setFslot_bcs (n : Nat) (v : FlashSlot) : (s.setFslot n v).bcs = s.bcs := rfl
@[simp] theorem State.setFslot_lps (n : Nat) (v : FlashSlot) : (s.setFslot n v).lps = s.lps := rfl
@[simp] theorem State.setFslot_mem (n : Nat) (v : FlashSlot) : (s.setFslot n v).mem = s.mem := rfl
@[simp] theorem State.setFslot_pages (n : Nat) (v : FlashSlot) : (s.setFslot n v).pages = s.pages := rfl
@[simp] theorem State.setFslot_ctrs (n : Nat) (v : FlashSlot) : (s.setFslot n v).ctrs = s.ctrs := rfl
@[simp] theorem State.setFslot_keys (n : Nat) (v : FlashSlot) : (s.setFslot n v).keys = s.keys := rfl
@[simp] theorem State.setFslot_reg (n : Nat) (v : FlashSlot) : (s.setFslot n v).reg = s.reg := rfl
@[simp] theorem State.setFslot_img (n : Nat) (v : FlashSlot) : (s.setFslot n v).img = { s.img with slots := tput {} s.img.slots n v } := rfl
@[simp] theorem State.setFslot_fit (n : Nat) (v : FlashSlot) : (s.setFslot n v).fit = s.fit := rfl
@[simp] theorem State.setFslot_streams (n : Nat) (v : FlashSlot) : (s.setFslot n v).streams = s.streams := rfl
@[simp] theorem State.setFslot_kvs (n : Nat) (v : FlashSlot) : (s.setFslot n v).kvs = s.kvs := rfl
@[simp] theorem State.setFslot_hlk (n : Nat) (v : FlashSlot) : (s.setFslot n v).hlk = s.hlk := rfl
@[simp] theorem State.setFslot_jobs (n : Nat) (v : FlashSlot) : (s.setFslot n v).jobs = s.jobs := rfl
@[simp] theorem State.setFslot_sec (n : Nat) (v : FlashSlot) : (s.setFslot n v).sec = s.sec := rfl
@[simp] theorem State.setFslot_vis (n : Nat) (v : FlashSlot) : (s.setFslot n v).vis = s.vis := rfl
@[simp] theorem State.setFslot_evt (n : Nat) (v : FlashSlot) : (s.setFslot n v).evt = s.evt := rfl
@[simp] theorem State.setFslot_ep (n : Nat) (v : FlashSlot) : (s.setFslot n v).ep = s.ep := rfl
@[simp] theorem State.setFslot_boot (n : Nat) (v : FlashSlot) : (s.setFslot n v).boot = s.boot := rfl
@[simp] theorem State.setFslot_rst (n : Nat) (v : FlashSlot) : (s.setFslot n v).rst = s.rst := rfl
@[simp] theorem State.setFslot_pwr (n : Nat) (v : FlashSlot) : (s.setFslot n v).pwr = s.pwr := rfl
@[simp] theorem State.setFslot_thm (n : Nat) (v : FlashSlot) : (s.setFslot n v).thm = s.thm := rfl
@[simp] theorem State.setFslot_pins (n : Nat) (v : FlashSlot) : (s.setFslot n v).pins = s.pins := rfl
@[simp] theorem State.setFslot_out (n : Nat) (v : FlashSlot) : (s.setFslot n v).out = s.out := rfl
@[simp] theorem State.setFslot_freeCtr (n : Nat) (v : FlashSlot) : (s.setFslot n v).freeCtr = s.freeCtr := rfl
@[simp] theorem State.setFslot_rngDraws (n : Nat) (v : FlashSlot) : (s.setFslot n v).rngDraws = s.rngDraws := rfl
@[simp] theorem State.setFslot_pending (n : Nat) (v : FlashSlot) : (s.setFslot n v).pending = s.pending := rfl

@[simp] theorem State.setShadow_now (n : Nat) (v : Shadow) : (s.setShadow n v).now = s.now := rfl
@[simp] theorem State.setShadow_flp (n : Nat) (v : Shadow) : (s.setShadow n v).flp = s.flp := rfl
@[simp] theorem State.setShadow_cores (n : Nat) (v : Shadow) : (s.setShadow n v).cores = s.cores := rfl
@[simp] theorem State.setShadow_engines (n : Nat) (v : Shadow) : (s.setShadow n v).engines = s.engines := rfl
@[simp] theorem State.setShadow_launches (n : Nat) (v : Shadow) : (s.setShadow n v).launches = s.launches := rfl
@[simp] theorem State.setShadow_nextLaunch (n : Nat) (v : Shadow) : (s.setShadow n v).nextLaunch = s.nextLaunch := rfl
@[simp] theorem State.setShadow_slices (n : Nat) (v : Shadow) : (s.setShadow n v).slices = s.slices := rfl
@[simp] theorem State.setShadow_homes (n : Nat) (v : Shadow) : (s.setShadow n v).homes = s.homes := rfl
@[simp] theorem State.setShadow_bcs (n : Nat) (v : Shadow) : (s.setShadow n v).bcs = s.bcs := rfl
@[simp] theorem State.setShadow_lps (n : Nat) (v : Shadow) : (s.setShadow n v).lps = s.lps := rfl
@[simp] theorem State.setShadow_mem (n : Nat) (v : Shadow) : (s.setShadow n v).mem = s.mem := rfl
@[simp] theorem State.setShadow_pages (n : Nat) (v : Shadow) : (s.setShadow n v).pages = s.pages := rfl
@[simp] theorem State.setShadow_ctrs (n : Nat) (v : Shadow) : (s.setShadow n v).ctrs = s.ctrs := rfl
@[simp] theorem State.setShadow_keys (n : Nat) (v : Shadow) : (s.setShadow n v).keys = s.keys := rfl
@[simp] theorem State.setShadow_reg (n : Nat) (v : Shadow) : (s.setShadow n v).reg = s.reg := rfl
@[simp] theorem State.setShadow_img (n : Nat) (v : Shadow) : (s.setShadow n v).img = { s.img with shadows := tput {} s.img.shadows n v } := rfl
@[simp] theorem State.setShadow_fit (n : Nat) (v : Shadow) : (s.setShadow n v).fit = s.fit := rfl
@[simp] theorem State.setShadow_streams (n : Nat) (v : Shadow) : (s.setShadow n v).streams = s.streams := rfl
@[simp] theorem State.setShadow_kvs (n : Nat) (v : Shadow) : (s.setShadow n v).kvs = s.kvs := rfl
@[simp] theorem State.setShadow_hlk (n : Nat) (v : Shadow) : (s.setShadow n v).hlk = s.hlk := rfl
@[simp] theorem State.setShadow_jobs (n : Nat) (v : Shadow) : (s.setShadow n v).jobs = s.jobs := rfl
@[simp] theorem State.setShadow_sec (n : Nat) (v : Shadow) : (s.setShadow n v).sec = s.sec := rfl
@[simp] theorem State.setShadow_vis (n : Nat) (v : Shadow) : (s.setShadow n v).vis = s.vis := rfl
@[simp] theorem State.setShadow_evt (n : Nat) (v : Shadow) : (s.setShadow n v).evt = s.evt := rfl
@[simp] theorem State.setShadow_ep (n : Nat) (v : Shadow) : (s.setShadow n v).ep = s.ep := rfl
@[simp] theorem State.setShadow_boot (n : Nat) (v : Shadow) : (s.setShadow n v).boot = s.boot := rfl
@[simp] theorem State.setShadow_rst (n : Nat) (v : Shadow) : (s.setShadow n v).rst = s.rst := rfl
@[simp] theorem State.setShadow_pwr (n : Nat) (v : Shadow) : (s.setShadow n v).pwr = s.pwr := rfl
@[simp] theorem State.setShadow_thm (n : Nat) (v : Shadow) : (s.setShadow n v).thm = s.thm := rfl
@[simp] theorem State.setShadow_pins (n : Nat) (v : Shadow) : (s.setShadow n v).pins = s.pins := rfl
@[simp] theorem State.setShadow_out (n : Nat) (v : Shadow) : (s.setShadow n v).out = s.out := rfl
@[simp] theorem State.setShadow_freeCtr (n : Nat) (v : Shadow) : (s.setShadow n v).freeCtr = s.freeCtr := rfl
@[simp] theorem State.setShadow_rngDraws (n : Nat) (v : Shadow) : (s.setShadow n v).rngDraws = s.rngDraws := rfl
@[simp] theorem State.setShadow_pending (n : Nat) (v : Shadow) : (s.setShadow n v).pending = s.pending := rfl

@[simp] theorem State.emit_now (o : Out) : (s.emit o).now = s.now := rfl
@[simp] theorem State.emit_flp (o : Out) : (s.emit o).flp = s.flp := rfl
@[simp] theorem State.emit_cores (o : Out) : (s.emit o).cores = s.cores := rfl
@[simp] theorem State.emit_engines (o : Out) : (s.emit o).engines = s.engines := rfl
@[simp] theorem State.emit_launches (o : Out) : (s.emit o).launches = s.launches := rfl
@[simp] theorem State.emit_nextLaunch (o : Out) : (s.emit o).nextLaunch = s.nextLaunch := rfl
@[simp] theorem State.emit_slices (o : Out) : (s.emit o).slices = s.slices := rfl
@[simp] theorem State.emit_homes (o : Out) : (s.emit o).homes = s.homes := rfl
@[simp] theorem State.emit_bcs (o : Out) : (s.emit o).bcs = s.bcs := rfl
@[simp] theorem State.emit_lps (o : Out) : (s.emit o).lps = s.lps := rfl
@[simp] theorem State.emit_mem (o : Out) : (s.emit o).mem = s.mem := rfl
@[simp] theorem State.emit_pages (o : Out) : (s.emit o).pages = s.pages := rfl
@[simp] theorem State.emit_ctrs (o : Out) : (s.emit o).ctrs = s.ctrs := rfl
@[simp] theorem State.emit_keys (o : Out) : (s.emit o).keys = s.keys := rfl
@[simp] theorem State.emit_reg (o : Out) : (s.emit o).reg = s.reg := rfl
@[simp] theorem State.emit_img (o : Out) : (s.emit o).img = s.img := rfl
@[simp] theorem State.emit_fit (o : Out) : (s.emit o).fit = s.fit := rfl
@[simp] theorem State.emit_streams (o : Out) : (s.emit o).streams = s.streams := rfl
@[simp] theorem State.emit_kvs (o : Out) : (s.emit o).kvs = s.kvs := rfl
@[simp] theorem State.emit_hlk (o : Out) : (s.emit o).hlk = s.hlk := rfl
@[simp] theorem State.emit_jobs (o : Out) : (s.emit o).jobs = s.jobs := rfl
@[simp] theorem State.emit_sec (o : Out) : (s.emit o).sec = s.sec := rfl
@[simp] theorem State.emit_vis (o : Out) : (s.emit o).vis = s.vis := rfl
@[simp] theorem State.emit_evt (o : Out) : (s.emit o).evt = s.evt := rfl
@[simp] theorem State.emit_ep (o : Out) : (s.emit o).ep = s.ep := rfl
@[simp] theorem State.emit_boot (o : Out) : (s.emit o).boot = s.boot := rfl
@[simp] theorem State.emit_rst (o : Out) : (s.emit o).rst = s.rst := rfl
@[simp] theorem State.emit_pwr (o : Out) : (s.emit o).pwr = s.pwr := rfl
@[simp] theorem State.emit_thm (o : Out) : (s.emit o).thm = s.thm := rfl
@[simp] theorem State.emit_pins (o : Out) : (s.emit o).pins = s.pins := rfl
@[simp] theorem State.emit_out (o : Out) : (s.emit o).out = s.out ++ [o] := rfl
@[simp] theorem State.emit_freeCtr (o : Out) : (s.emit o).freeCtr = s.freeCtr := rfl
@[simp] theorem State.emit_rngDraws (o : Out) : (s.emit o).rngDraws = s.rngDraws := rfl
@[simp] theorem State.emit_pending (o : Out) : (s.emit o).pending = s.pending := rfl

end Sys2Proof.Machine
end

