-- ==== Sys2Proof/Laws/Tab.lean ====
section
/-! SUPPORT. Laws of sparse tables: a read after a write, and that every write keeps the canonical form. -/

namespace Sys2Proof

variable {α : Type}

theorem tget_tdel (d : α) (t : Tab α) (a b : Nat) : tget d (tdel t a) b = if a = b then d else tget d t b := by
  induction t with
  | nil => simp [tdel, tget]
  | cons p t ih =>
    obtain ⟨k, v⟩ := p
    by_cases h : k = a
    · subst h; simp only [tdel, if_true, ih, tget]; split <;> rfl
    · simp only [tdel, if_neg h, tget, ih]; split
      · rename_i hk; subst hk; simp [Ne.symm h]
      · rfl

theorem tget_tins (d : α) (t : Tab α) (a b : Nat) (v : α) (h : ∀ p ∈ t, p.1 ≠ a) :
    tget d (tins t a v) b = if a = b then v else tget d t b := by
  induction t with
  | nil => simp [tins, tget]
  | cons p t ih =>
    obtain ⟨k, w⟩ := p
    have hk : k ≠ a := h (k, w) (by simp)
    have ih := ih fun p hp => h p (by simp [hp])
    simp only [tins]; split
    · simp [tget]
    · simp only [tget, ih]; split
      · rename_i e; subst e; simp [Ne.symm hk]
      · rfl

theorem tdel_ne (t : Tab α) (a : Nat) : ∀ p ∈ tdel t a, p.1 ≠ a := by
  induction t with
  | nil => simp [tdel]
  | cons p t ih =>
    obtain ⟨k, v⟩ := p
    simp only [tdel]; split
    · exact ih
    · rename_i h; intro q hq
      rcases List.mem_cons.1 hq with rfl | hq
      · exact h
      · exact ih q hq

/-- A read after a write: the value written at its key, and every other key as before. -/
theorem tget_tput [DecidableEq α] (d : α) (t : Tab α) (a b : Nat) (v : α) :
    tget d (tput d t a v) b = if a = b then v else tget d t b := by
  unfold tput; split
  · rename_i h; subst h; exact tget_tdel v t a b
  · rw [tget_tins d _ a b v (tdel_ne t a), tget_tdel]; split <;> simp_all

@[simp] theorem tget_tput_self [DecidableEq α] (d : α) (t : Tab α) (a : Nat) (v : α) :
    tget d (tput d t a v) a = v := by simp [tget_tput]

theorem tget_tput_ne [DecidableEq α] (d : α) (t : Tab α) {a b : Nat} (v : α) (h : b ≠ a) :
    tget d (tput d t a v) b = tget d t b := by simp [tget_tput, Ne.symm h]

@[simp] theorem tget_tupd_self [DecidableEq α] (d : α) (t : Tab α) (a : Nat) (f : α → α) :
    tget d (tupd d t a f) a = f (tget d t a) := by simp [tupd]

theorem tget_tupd_ne [DecidableEq α] (d : α) (t : Tab α) {a b : Nat} (f : α → α) (h : b ≠ a) :
    tget d (tupd d t a f) b = tget d t b := tget_tput_ne d t _ h

/-- The canonical form, entry by entry. -/
theorem twf_iff [DecidableEq α] (d : α) (t : Tab α) :
    twf d t = true ↔ t.Pairwise (fun p q => p.1 < q.1) ∧ ∀ p ∈ t, p.2 ≠ d := by
  induction t with
  | nil => simp [twf]
  | cons p t ih =>
    obtain ⟨k, v⟩ := p
    cases t with
    | nil => simp [twf]
    | cons q t =>
      obtain ⟨k', v'⟩ := q
      simp only [twf, Bool.and_eq_true, decide_eq_true_eq, ih]
      constructor
      · rintro ⟨⟨hv, hk⟩, hp, hd⟩
        refine ⟨List.pairwise_cons.2 ⟨?_, hp⟩, ?_⟩
        · intro q hq
          rcases List.mem_cons.1 hq with rfl | hq
          · exact hk
          · exact Nat.lt_trans hk ((List.pairwise_cons.1 hp).1 q hq)
        · intro q hq
          rcases List.mem_cons.1 hq with rfl | hq
          · exact hv
          · exact hd q hq
      · rintro ⟨hp, hd⟩
        have := List.pairwise_cons.1 hp
        exact ⟨⟨hd (k, v) (by simp), this.1 (k', v') (by simp)⟩, this.2,
          fun q hq => hd q (List.mem_cons_of_mem _ hq)⟩

theorem mem_tdel (t : Tab α) (a : Nat) : ∀ p ∈ tdel t a, p ∈ t := by
  induction t with
  | nil => simp [tdel]
  | cons p t ih =>
    obtain ⟨k, v⟩ := p
    simp only [tdel]; intro q hq; split at hq
    · simp [ih q hq]
    · rcases List.mem_cons.1 hq with rfl | hq
      · simp
      · simp [ih q hq]

theorem tdel_pairwise (t : Tab α) (a : Nat) (h : t.Pairwise (fun p q => p.1 < q.1)) :
    (tdel t a).Pairwise (fun p q => p.1 < q.1) := by
  induction t with
  | nil => simp [tdel]
  | cons p t ih =>
    obtain ⟨k, v⟩ := p
    have h := List.pairwise_cons.1 h
    simp only [tdel]; split
    · exact ih h.2
    · exact List.pairwise_cons.2 ⟨fun q hq => h.1 q (mem_tdel t a q hq), ih h.2⟩

theorem mem_tins (t : Tab α) (a : Nat) (v : α) : ∀ p ∈ tins t a v, p = (a, v) ∨ p ∈ t := by
  induction t with
  | nil => simp [tins]
  | cons p t ih =>
    obtain ⟨k, w⟩ := p
    intro q hq; simp only [tins] at hq; split at hq
    · simpa using hq
    · rcases List.mem_cons.1 hq with rfl | hq
      · simp
      · rcases ih q hq with h | h
        · exact .inl h
        · simp [h]

theorem tins_pairwise (t : Tab α) (a : Nat) (v : α) (h : t.Pairwise (fun p q => p.1 < q.1))
    (hn : ∀ p ∈ t, p.1 ≠ a) : (tins t a v).Pairwise (fun p q => p.1 < q.1) := by
  induction t with
  | nil => simp [tins]
  | cons p t ih =>
    obtain ⟨k, w⟩ := p
    have hp := List.pairwise_cons.1 h
    simp only [tins]; split
    · rename_i hk
      refine List.pairwise_cons.2 ⟨fun q hq => ?_, h⟩
      rcases List.mem_cons.1 hq with rfl | hq
      · exact hk
      · exact Nat.lt_trans hk (hp.1 q hq)
    · rename_i hk
      have hka : k ≠ a := hn (k, w) (by simp)
      refine List.pairwise_cons.2 ⟨fun q hq => ?_, ih hp.2 fun q hq => hn q (by simp [hq])⟩
      rcases mem_tins t a v q hq with rfl | hq
      · show k < a; omega
      · exact hp.1 q hq

/-- A write keeps the canonical form. -/
theorem twf_tput [DecidableEq α] (d : α) (t : Tab α) (a : Nat) (v : α) (h : twf d t = true) :
    twf d (tput d t a v) = true := by
  rw [twf_iff] at h ⊢
  unfold tput; split
  · exact ⟨tdel_pairwise t a h.1, fun p hp => h.2 p (mem_tdel t a p hp)⟩
  · rename_i hv
    refine ⟨tins_pairwise _ a v (tdel_pairwise t a h.1) (tdel_ne t a), fun p hp => ?_⟩
    rcases mem_tins _ a v p hp with rfl | hp
    · exact hv
    · exact h.2 p (mem_tdel t a p hp)

theorem twf_tupd [DecidableEq α] (d : α) (t : Tab α) (a : Nat) (f : α → α) (h : twf d t = true) :
    twf d (tupd d t a f) = true := twf_tput d t a _ h

/-- Dropping entries keeps the canonical form. -/
theorem twf_filter [DecidableEq α] (d : α) (t : Tab α) (p : Nat × α → Bool) (h : twf d t = true) :
    twf d (t.filter p) = true := by
  rw [twf_iff] at h ⊢
  exact ⟨h.1.sublist List.filter_sublist, fun q hq => h.2 q (List.mem_filter.1 hq).1⟩

theorem twf_tkeep [DecidableEq α] (d : α) (t : Tab α) (p : Nat → Bool) (h : twf d t = true) :
    twf d (tkeep t p) = true := twf_filter d t _ h

theorem twf_mclear (m : Mem) (lo hi : Nat) (h : twf 0#8 m = true) : twf 0#8 (mclear m lo hi) = true :=
  twf_filter _ m _ h

/-- One byte written reads back, and every other byte is as before. -/
theorem mget_mput (m : Mem) (a b : Nat) (x : Byte) : mget (mput m a x) b = if a = b then x else mget m b :=
  tget_tput _ m a b x

theorem twf_mput (m : Mem) (a : Nat) (x : Byte) (h : twf 0#8 m = true) : twf 0#8 (mput m a x) = true :=
  twf_tput _ m a x h

/-- A write of several bytes leaves every byte outside them as before. -/
theorem mget_mwrite_out (bs : List Byte) : ∀ (m : Mem) (a b : Nat), b < a ∨ a + bs.length ≤ b →
    mget (mwrite m a bs) b = mget m b := by
  induction bs with
  | nil => intro m a b _; rfl
  | cons x bs ih =>
    intro m a b h
    simp only [List.length_cons] at h
    rw [mwrite, ih _ _ _ (by omega), mget_mput, if_neg (by omega)]

/-- Bytes written read back. -/
theorem mget_mwrite_in (bs : List Byte) : ∀ (m : Mem) (a i : Nat) (h : i < bs.length),
    mget (mwrite m a bs) (a + i) = bs[i] := by
  induction bs with
  | nil => intro m a i h; simp at h
  | cons x bs ih =>
    intro m a i h
    cases i with
    | zero => rw [mwrite, mget_mwrite_out _ _ _ _ (by omega), mget_mput]; simp
    | succ i =>
      have := ih (mput m a x) (a + 1) i (by simpa using h)
      rw [mwrite, show a + (i + 1) = a + 1 + i by omega, this]; rfl

theorem twf_mwrite (bs : List Byte) : ∀ (m : Mem) (a : Nat), twf 0#8 m = true → twf 0#8 (mwrite m a bs) = true := by
  induction bs with
  | nil => intro m a h; exact h
  | cons x bs ih => intro m a h; exact ih _ _ (twf_mput m a x h)

theorem mread_length (m : Mem) (n : Nat) : ∀ a, (mread m a n).length = n := by
  induction n with
  | zero => intro a; rfl
  | succ n ih => intro a; simp [mread, ih]

/-- Bytes read back where they were written. -/
theorem mread_mwrite (m : Mem) (a : Nat) (bs : List Byte) : mread (mwrite m a bs) a bs.length = bs := by
  induction bs generalizing m a with
  | nil => rfl
  | cons x bs ih =>
    show mget (mwrite (mput m a x) (a + 1) bs) a :: mread (mwrite (mput m a x) (a + 1) bs) (a + 1) bs.length = _
    rw [ih, mget_mwrite_out _ _ _ _ (.inl (Nat.lt_succ_self a)), mget_mput, if_pos rfl]

end Sys2Proof
end

