-- ==== Sys2Proof/Laws/Access.lean ====
section
/-! SUPPORT. Units after an update: the unit written has the value written, every other is as before. -/

namespace Sys2Proof.Machine

variable (s : State)

@[simp] theorem core_setCore (c : Nat) (v : Core) : (s.setCore c v).core c = v := by simp [State.core]
theorem core_setCore_ne {c k : Nat} (v : Core) (h : k ≠ c) : (s.setCore c v).core k = s.core k := by
  simp [State.core, tget_tput_ne _ _ _ h]

@[simp] theorem grp_setGrp_core (co : Core) (g : Nat) (v : Group) : (co.setGrp g v).grp g = v := by
  simp [Core.grp, Core.setGrp]
theorem grp_setGrp_core_ne (co : Core) {g k : Nat} (v : Group) (h : k ≠ g) : (co.setGrp g v).grp k = co.grp k := by
  simp [Core.grp, Core.setGrp, tget_tput_ne _ _ _ h]

@[simp] theorem core_setGrp (c g : Nat) (v : Group) : (s.setGrp c g v).core c = (s.core c).setGrp g v := by
  simp [State.setGrp]
theorem core_setGrp_ne {c k : Nat} (g : Nat) (v : Group) (h : k ≠ c) : (s.setGrp c g v).core k = s.core k := by
  simp [State.setGrp, core_setCore_ne _ _ h]
@[simp] theorem grp_setGrp (c g : Nat) (v : Group) : (s.setGrp c g v).grp c g = v := by simp [State.grp]
theorem grp_setGrp_ne (c : Nat) {g k : Nat} (v : Group) (h : k ≠ g) : (s.setGrp c g v).grp c k = s.grp c k := by
  simp [State.grp, grp_setGrp_core_ne _ _ h]
theorem grp_setGrp_ne_core {c k : Nat} (g j : Nat) (v : Group) (h : k ≠ c) :
    (s.setGrp c g v).grp k j = s.grp k j := by simp [State.grp, core_setGrp_ne _ _ _ h]
@[simp] theorem setGrp_groups (co : Core) (g : Nat) (v : Group) :
    { co.setGrp g v with groups := co.groups } = co := rfl

@[simp] theorem engine_setEngine (n : Nat) (v : Engine) : (s.setEngine n v).engine n = v := by simp [State.engine]
theorem engine_setEngine_ne {n k : Nat} (v : Engine) (h : k ≠ n) : (s.setEngine n v).engine k = s.engine k := by
  simp [State.engine, tget_tput_ne _ _ _ h]

@[simp] theorem slice_setSlice (n : Nat) (v : Slice) : (s.setSlice n v).slice n = v := by simp [State.slice]
theorem slice_setSlice_ne {n k : Nat} (v : Slice) (h : k ≠ n) : (s.setSlice n v).slice k = s.slice k := by
  simp [State.slice, tget_tput_ne _ _ _ h]

@[simp] theorem bc_setBc (n : Nat) (v : Ctlr) : (s.setBc n v).bc n = v := by simp [State.bc]
theorem bc_setBc_ne {n k : Nat} (v : Ctlr) (h : k ≠ n) : (s.setBc n v).bc k = s.bc k := by
  simp [State.bc, tget_tput_ne _ _ _ h]
@[simp] theorem lp_setLp (n : Nat) (v : Ctlr) : (s.setLp n v).lp n = v := by simp [State.lp]
theorem lp_setLp_ne {n k : Nat} (v : Ctlr) (h : k ≠ n) : (s.setLp n v).lp k = s.lp k := by
  simp [State.lp, tget_tput_ne _ _ _ h]

@[simp] theorem stream_setStream (n : Nat) (v : Stream) : (s.setStream n v).stream n = v := by simp [State.stream]
theorem stream_setStream_ne {n k : Nat} (v : Stream) (h : k ≠ n) : (s.setStream n v).stream k = s.stream k := by
  simp [State.stream, tget_tput_ne _ _ _ h]
@[simp] theorem kv_setKv (n : Nat) (v : Kv) : (s.setKv n v).kv n = v := by simp [State.kv]
theorem kv_setKv_ne {n k : Nat} (v : Kv) (h : k ≠ n) : (s.setKv n v).kv k = s.kv k := by
  simp [State.kv, tget_tput_ne _ _ _ h]
@[simp] theorem entry_setEntry (n : Nat) (v : CmdEntry) : (s.setEntry n v).entry n = v := by simp [State.entry]
theorem entry_setEntry_ne {n k : Nat} (v : CmdEntry) (h : k ≠ n) : (s.setEntry n v).entry k = s.entry k := by
  simp [State.entry, tget_tput_ne _ _ _ h]
@[simp] theorem region_setRegion (n : Nat) (v : Region) : (s.setRegion n v).region n = v := by simp [State.region]
theorem region_setRegion_ne {n k : Nat} (v : Region) (h : k ≠ n) : (s.setRegion n v).region k = s.region k := by
  simp [State.region, tget_tput_ne _ _ _ h]
@[simp] theorem fslot_setFslot (n : Nat) (v : FlashSlot) : (s.setFslot n v).fslot n = v := by simp [State.fslot]
@[simp] theorem shadow_setShadow (n : Nat) (v : Shadow) : (s.setShadow n v).shadow n = v := by simp [State.shadow]

theorem getV_setV (g : Group) (r l : Nat) (w : Word) (r' l' : Nat) :
    (g.setV r l w).getV r' l' = if 32 * r + l = 32 * r' + l' then w else g.getV r' l' := by
  simp [Group.getV, Group.setV, tget_tput]
theorem getU_setU (g : Group) (r : Nat) (w : Word) (r' : Nat) :
    (g.setU r w).getU r' = if r = r' then w else g.getU r' := by simp [Group.getU, Group.setU, tget_tput]
@[simp] theorem getU_setV (g : Group) (r l : Nat) (w : Word) (r' : Nat) : (g.setV r l w).getU r' = g.getU r' := rfl
@[simp] theorem getV_setU (g : Group) (r : Nat) (w : Word) (r' l' : Nat) :
    (g.setU r w).getV r' l' = g.getV r' l' := rfl

end Sys2Proof.Machine
end

