-- ==== Sys2Proof/Laws/Issue.lean ====
section
/-! SUPPORT. What issuing a word does, and what writing a destination does, said once. -/

namespace Sys2Proof.Machine

open Sys2Proof

theorem popStops_of_ne (k : Nat) (x : Group) (h : x.stop ≠ some x.pc) : popStops k x = x := by
  cases k with
  | zero => rfl
  | succ k => rw [popStops, if_neg h]

/-- A group that issues a word hands it to the body of the instruction. -/
theorem issueAs_of_issues {s : State} {c : Fin 272} {g : Fin 16} {w : Nat} (h : Issues s c g w) (f : Body) {op : Nat}
    (ho : major w = op) : issueAs op c g .ok s f = f s c g w .ok := by
  obtain ⟨⟨⟨h1, h2, h3, h4, h5, h6, h7, h8⟩, h11⟩, h9, h10⟩ := h
  have hm : mayIssue s c g = true := by
    rcases h3 with h3 | h3 <;> simp [mayIssue, h1, h2, h3]
  have ha : allOps.contains (major w) = true := by
    simp only [legal, Bool.and_eq_true] at h9; exact h9.1.1.1.1
  have hb : (bpHit (s.core c) g (s.grp c g).pc.toNat && !(s.grp c g).skipBp && !class0Core s c) = false := by
    rcases h8 with h | h | h <;> simp [h]
  subst ho
  simp only [issueAs, issue, hm, h4, popStops_of_ne _ _ h5, if_neg h5, h6, h7, hb, ha, h9, h10, badSource,
    Bool.not_true, Bool.false_eq_true, if_false, Option.any_some, bne_self_eq_false, regEcc, finishIssue, Group.stepped, h11,
    Bool.false_and, endStep]

/-- Registers of a selector in range: the next one up is the next register of the same file. -/
theorem sel_add {x n al i : Nat} (h : selOk x n al = true) (hi : i < n) :
    selU (x + i) = selU x ∧ selReg (x + i) = selReg x + i := by
  have hb : ∀ y : Nat, bit y 7 = decide (y / 128 % 2 = 1) := fun y => by
    rw [bit, Nat.testBit_eq_decide_div_mod_eq]
  unfold selOk fld at h
  unfold selU selReg
  simp only [hb, Bool.and_eq_true, decide_eq_true_eq] at h ⊢
  by_cases c : x / 128 % 2 = 1
  · simp only [c, if_true, Bool.and_eq_true, beq_iff_eq, decide_eq_true_eq] at h
    have : (x + i) / 128 % 2 = 1 := by omega
    simp only [c, this, if_true, true_and]
    omega
  · simp only [c, if_false, decide_eq_true_eq] at h
    have : (x + i) / 128 % 2 ≠ 1 := by omega
    simp only [c, this, if_false, true_and]
    omega

/-- `n` registers written from a selector for one lane, in a v file. -/
theorem wrN_v (n : Nat) : ∀ (x : Group) (sel lane v R : Nat),
    (∀ i, i < n → selU (sel + i) = false ∧ selReg (sel + i) = R + i) → lane < 32 →
    (∀ r l, l < 32 → (x.wrN sel lane n v).getV r l =
      if l = lane ∧ R ≤ r ∧ r < R + n then BitVec.ofNat 32 (v / 2 ^ (32 * (r - R))) else x.getV r l) ∧
    (∀ r, (x.wrN sel lane n v).getU r = x.getU r) := by
  induction n with
  | zero => intro x sel lane v R _ _; exact ⟨fun r l _ => by rw [if_neg (by omega)]; rfl, fun r => rfl⟩
  | succ n ih =>
    intro x sel lane v R h hl
    obtain ⟨hu, hr⟩ := h 0 (by omega)
    simp only [Nat.add_zero] at hu hr
    have ih := ih (x.setV R lane (BitVec.ofNat 32 v)) (sel + 1) lane (v / 2 ^ 32) (R + 1)
      (fun i hi => by have := h (i + 1) (by omega); rw [show sel + 1 + i = sel + (i + 1) by omega]; refine ⟨this.1, ?_⟩; omega) hl
    have e : x.wrN sel lane (n + 1) v = (x.setV R lane (BitVec.ofNat 32 v)).wrN (sel + 1) lane n (v / 2 ^ 32) := by
      simp only [Group.wrN, hu, hr, Bool.false_eq_true, if_false]
    rw [e]
    refine ⟨fun r l hl' => ?_, fun r => by rw [ih.2]; rfl⟩
    rw [ih.1 r l hl', getV_setV]
    by_cases hll : l = lane
    · subst hll
      by_cases h1 : R = r
      · subst h1
        rw [if_neg (by omega), if_pos rfl, if_pos (by omega)]; simp
      · by_cases h2 : R + 1 ≤ r ∧ r < R + 1 + n
        · rw [if_pos ⟨rfl, h2⟩, if_pos (by omega), Nat.div_div_eq_div_mul, ← Nat.pow_add]
          congr 3; omega
        · rw [if_neg (by omega), if_neg (by omega), if_neg (by omega)]
    · rw [if_neg (by omega), if_neg (by omega), if_neg (by omega)]

/-- The same in a u file. -/
theorem wrN_u (n : Nat) : ∀ (x : Group) (sel lane v R : Nat),
    (∀ i, i < n → selU (sel + i) = true ∧ selReg (sel + i) = R + i) →
    (∀ r, (x.wrN sel lane n v).getU r =
      if R ≤ r ∧ r < R + n then BitVec.ofNat 32 (v / 2 ^ (32 * (r - R))) else x.getU r) ∧
    (∀ r l, (x.wrN sel lane n v).getV r l = x.getV r l) := by
  induction n with
  | zero => intro x sel lane v R _; exact ⟨fun r => by rw [if_neg (by omega)]; rfl, fun r l => rfl⟩
  | succ n ih =>
    intro x sel lane v R h
    obtain ⟨hu, hr⟩ := h 0 (by omega)
    simp only [Nat.add_zero] at hu hr
    have ih := ih (x.setU R (BitVec.ofNat 32 v)) (sel + 1) lane (v / 2 ^ 32) (R + 1)
      (fun i hi => by have := h (i + 1) (by omega); rw [show sel + 1 + i = sel + (i + 1) by omega]; refine ⟨this.1, ?_⟩; omega)
    have e : x.wrN sel lane (n + 1) v = (x.setU R (BitVec.ofNat 32 v)).wrN (sel + 1) lane n (v / 2 ^ 32) := by
      simp only [Group.wrN, hu, hr, if_true]
    rw [e]
    refine ⟨fun r => ?_, fun r l => by rw [ih.2]; rfl⟩
    rw [ih.1 r, getU_setU]
    by_cases h1 : R = r
    · subst h1
      rw [if_neg (by omega), if_pos rfl, if_pos (by omega)]; simp
    · by_cases h2 : R + 1 ≤ r ∧ r < R + 1 + n
      · rw [if_pos h2, if_pos (by omega), Nat.div_div_eq_div_mul, ← Nat.pow_add]
        congr 3; omega
      · rw [if_neg h2, if_neg h1, if_neg (by omega)]

/-- What a register write leaves alone. -/
theorem wrN_rest (n : Nat) : ∀ (x : Group) (sel lane v : Nat),
    { x.wrN sel lane n v with v := x.v, u := x.u } = x := by
  induction n with
  | zero => intro x sel lane v; rfl
  | succ n ih =>
    intro x sel lane v
    simp only [Group.wrN]
    split
    · have h := ih (x.setU (selReg sel) (BitVec.ofNat 32 v)) (sel + 1) lane (v / 2 ^ 32)
      have := congrArg (fun y : Group => { y with v := x.v, u := x.u }) h
      exact this
    · have h := ih (x.setV (selReg sel) lane (BitVec.ofNat 32 v)) (sel + 1) lane (v / 2 ^ 32)
      have := congrArg (fun y : Group => { y with v := x.v, u := x.u }) h
      exact this

theorem lanes_mem (m : Word) (l : Nat) : l ∈ lanes m ↔ l < 32 ∧ m.getLsbD l = true := by
  simp [lanes, BitVec.getLsbD]

/-- A destination written under R160. -/
theorem written_wrDst (x : Group) (sel n al : Nat) (f : Nat → Nat) (h : selOk sel n al = true) :
    Written x (x.wrDst sel n f) sel n f ∧ { x.wrDst sel n f with v := x.v, u := x.u } = x := by
  have hs := fun i (hi : i < n) => sel_add (x := sel) h hi
  unfold Group.wrDst
  cases hu : selU sel with
  | true =>
    simp only [if_true]
    have k := wrN_u n x sel 0 (f 0) (selReg sel) fun i hi => ⟨by rw [(hs i hi).1, hu], (hs i hi).2⟩
    refine ⟨⟨fun r l _ => ?_, fun r => ?_⟩, wrN_rest _ _ _ _ _⟩
    · rw [k.2]; simp [hu]
    · rw [k.1]; simp [hu]
  | false =>
    simp only [Bool.false_eq_true, if_false]
    have key : ∀ (ls : List Nat) (y : Group), (∀ l ∈ ls, l < 32) →
        (∀ r l, l < 32 → (ls.foldl (fun x l => x.wrN sel l n (f l)) y).getV r l =
          if l ∈ ls ∧ selReg sel ≤ r ∧ r < selReg sel + n then BitVec.ofNat 32 (f l / 2 ^ (32 * (r - selReg sel)))
          else y.getV r l) ∧
        (∀ r, (ls.foldl (fun x l => x.wrN sel l n (f l)) y).getU r = y.getU r) ∧
        ∀ z : Group, { y with v := z.v, u := z.u } = z →
          { ls.foldl (fun x l => x.wrN sel l n (f l)) y with v := z.v, u := z.u } = z := by
      intro ls
      induction ls with
      | nil => intro y _; exact ⟨fun r l _ => by simp, fun r => rfl, fun z hz => hz⟩
      | cons a ls ih =>
        intro y hy
        have ha := hy a (by simp)
        have k := wrN_v n y sel a (f a) (selReg sel) (fun i hi => ⟨by rw [(hs i hi).1, hu], (hs i hi).2⟩) ha
        have i := ih (y.wrN sel a n (f a)) fun l hl => hy l (by simp [hl])
        refine ⟨fun r l hl => ?_, fun r => by rw [List.foldl_cons, i.2.1, k.2], fun z hz => ?_⟩
        · rw [List.foldl_cons, i.1 r l hl, k.1 r l hl]
          by_cases h1 : l = a
          · subst h1; by_cases h2 : selReg sel ≤ r ∧ r < selReg sel + n
            · simp [h2]
            · simp [h2]
          · simp [h1]
        · refine i.2.2 z ?_
          have h := wrN_rest n y sel a (f a)
          have h' := congrArg (fun q : Group => { q with v := z.v, u := z.u }) h
          exact h'.trans hz
    have k := key (lanes x.mask) x fun l hl => ((lanes_mem _ _).1 hl).1
    refine ⟨⟨fun r l hl => ?_, fun r => ?_⟩, k.2.2 x rfl⟩
    · rw [k.1 r l hl]
      simp only [lanes_mem, hl, true_and, hu]
      by_cases h1 : x.mask.getLsbD l = true <;> simp [h1]
    · rw [k.2.1]; simp [hu]

/-- A group replaced: nothing outside it has changed. -/
theorem groupOnly_setGrp (s : State) (c g : Nat) (v : Group) : GroupOnly s (s.setGrp c g v) c g :=
  ⟨rfl, fun _ h => core_setGrp_ne s g v h, by rw [core_setGrp]; rfl, fun _ h => grp_setGrp_ne s c v h⟩

theorem groupOnly_trans {s t u : State} {c g : Nat} (h : GroupOnly s t c g) (k : GroupOnly t u c g) :
    GroupOnly s u c g := by
  obtain ⟨h1, h2, h3, h4⟩ := h
  obtain ⟨k1, k2, k3, k4⟩ := k
  refine ⟨?_, fun j hj => (k2 j hj).trans (h2 j hj), ?_, fun j hj => (k4 j hj).trans (h4 j hj)⟩
  · have := congrArg (fun q : State => { q with cores := s.cores }) k1
    exact this.trans h1
  · have := congrArg (fun q : Core => { q with groups := (s.core c).groups }) k3
    exact this.trans h3

/-- An ALU body (R160, R161): the destination is written lane by lane, and the group goes on. -/
theorem aluBody_effect (f : Nat → Nat → Nat → Nat → Nat) (s : State) (c g w : Nat) (e : Ecc) {al : Nat}
    (h : selOk (fRd w) (if fWide w then 2 else 1) al = true) :
    let x := s.grp c g
    let k := if fWide w then 2 else 1
    let t := aluBody f s c g w e
    GroupOnly s t c g ∧ StepsOn x (t.grp c g) ∧
    Written x (t.grp c g) (fRd w) k fun l =>
      f (aluBits w) (x.rdN (fRa w) l k) (srcB x w l) (x.rdN (fRc w) l k) := by
  intro x k t
  have e : t.grp c g = aluGroup x w f := by simp [t, x, aluBody, State.updGrp]
  have hw := written_wrDst x (fRd w) k al
    (fun l => f (aluBits w) (x.rdN (fRa w) l k) (srcB x w l) (x.rdN (fRc w) l k)) h
  refine ⟨groupOnly_setGrp s c g _, ?_, ?_⟩
  · rw [e]
    refine ⟨?_, ?_, rfl, rfl⟩
    · have := congrArg (fun q : Group => { q with pc := x.pc, stall := x.stall, skipBp := x.skipBp }) hw.2
      exact this
    · have := congrArg Group.pc hw.2
      show (x.wrDst (fRd w) k _).pc + 8 = _
      exact congrArg (· + 8) this
  · rw [e]; exact hw.1

/-- A legal word's first operand is its destination where it has one. -/
theorem selOk_of_legal {w : Nat} (h : legal w = true) {o : Opnd} (ho : o ∈ operands w) : selOk o.sel o.n o.n = true := by
  simp only [legal, Bool.and_eq_true, List.all_eq_true] at h
  exact h.1.1.2 o ho

end Sys2Proof.Machine
end

