-- ==== Sys2Proof/Laws/Keeps.lean ====
section
/-! SUPPORT. What every operation keeps (`Keeps`): the rules it is composed by. -/

namespace Sys2Proof

open Machine

theorem Worse.refl (n : Nat) : Worse n n := .inl rfl

theorem Worse.trans {a b c : Nat} (h : Worse a b) (k : Worse b c) : Worse a c := by
  unfold Worse at *
  omega

variable {afresh : Prop}

theorem NoBetter.refl (s : State) : NoBetter afresh s s := fun _ _ => .inl (Worse.refl _)

theorem NoBetter.trans {s t u : State} (e : t.flp.delivered = s.flp.delivered) (h : NoBetter afresh s t) (k : NoBetter afresh t u) :
    NoBetter afresh s u := fun ut id => by
  rcases k ut id with k | k
  · exact (h ut id).imp (·.trans k) fun h => ⟨h.1, h.2.trans k⟩
  · rw [e] at k; exact .inr k

theorem Keeps.refl (s : State) : Keeps afresh s s := ⟨rfl, ⟨rfl, fun _ => NoBetter.refl s⟩, id⟩

theorem Keeps.trans {s t u : State} (h : Keeps afresh s t) (k : Keeps afresh t u) : Keeps afresh s u :=
  ⟨k.1.trans h.1, ⟨k.2.1.1.trans h.2.1.1, fun i => (h.2.1.2 i).trans h.2.1.1 (k.2.1.2 (h.2.2 i))⟩, fun i => k.2.2 (h.2.2 i)⟩

/-- A change of none of these. -/
theorem Keeps.upd {z t u : State} (h1 : u.pending = t.pending) (h2 : u.flp = t.flp) (h3 : u.mem = t.mem)
    (h : Keeps afresh z t) : Keeps afresh z u := by
  refine ⟨h1.trans h.1, ?_, fun i => ?_⟩
  · have := h.2.1
    unfold NoBetter State.unitState at *
    rw [h2]; exact this
  have := h.2.2 i
  unfold Inv at *
  rw [h2, h3]; exact this

/-- A change of other fields. -/
theorem keeps_with {z t : State} {now nextLaunch freeCtr rngDraws : Nat} {cores : Tab Core} {engines : Tab
    Engine} {launches : Tab Launch} {slices : Tab Slice} {homes : Tab Nat} {bcs lps : Tab Ctlr} {pages : Tab Page}
    {ctrs : Tab CtrEnt} {keys : MemKeys} {reg : Reg} {img : Img} {fit : Fit} {streams : Tab Stream} {kvs : Tab Kv}
    {hlk : Hlk} {jobs : List Job} {sec : Sec} {vis : Visor} {evt : Evt} {ep : Epoch} {boot : Boot} {rst : Rst} {pwr
    : Pwr} {thm : Thm} {pins : Pins} {out : List Out}
    : Keeps afresh z (State.mk now t.flp cores engines launches nextLaunch slices homes bcs lps t.mem
    pages ctrs keys reg img fit streams kvs hlk jobs sec vis evt ep boot rst pwr thm pins out freeCtr rngDraws
    t.pending) ↔ Keeps afresh z t :=
  ⟨Keeps.upd (by rfl) (by rfl) (by rfl), Keeps.upd (by rfl) (by rfl) (by rfl)⟩

/-- A second part of a pair. -/
theorem Keeps.snd {α : Type} {z t : State} {p : α × State} {a : α} (e : p = (a, t)) (h : Keeps afresh z p.2) : Keeps afresh z t := by
  subst e; exact h

theorem Keeps.fst {α : Type} {z t : State} {p : State × α} {a : α} (e : p = (t, a)) (h : Keeps afresh z p.1) : Keeps afresh z t := by
  subst e; exact h

/-- An optional state. -/
def KeepsOpt (afresh : Prop) (z : State) (o : Option State) : Prop := ∀ t, o = some t → Keeps afresh z t

theorem Keeps.opt {z t : State} {o : Option State} (e : o = some t) (h : KeepsOpt afresh z o) : Keeps afresh z t := h t e
theorem KeepsOpt.some {z t : State} (h : Keeps afresh z t) : KeepsOpt afresh z (.some t) := fun _ e => Option.some.inj e ▸ h
theorem KeepsOpt.none {z : State} : KeepsOpt afresh z .none := fun _ e => by cases e
theorem Keeps.getD {z t : State} {o : Option State} (h : KeepsOpt afresh z o) (k : Keeps afresh z t) : Keeps afresh z (o.getD t) := by
  cases o with
  | none => exact k
  | some u => exact h u rfl

/-- The outcome of a command. -/
def KeepsOut (afresh : Prop) (z : State) (o : Host.Outcome State Fault Refusal) : Prop := ∀ t, o = .next t → Keeps afresh z t

theorem KeepsOut.next {z t : State} (h : Keeps afresh z t) : KeepsOut afresh z (.next t) := fun _ e => by cases e; exact h

theorem Keeps.fold {α : Type} {z t : State} {g : State → α → State} {l : List α}
    (hg : ∀ s x, Keeps afresh z s → Keeps afresh z (g s x)) (h : Keeps afresh z t) : Keeps afresh z (l.foldl g t) := by
  induction l generalizing t with
  | nil => exact h
  | cons x l ih => exact ih (hg t x h)

theorem Keeps.fold2 {α β : Type} {z : State} {g : State × β → α → State × β} {l : List α} {p : State × β}
    (hg : ∀ s b x, Keeps afresh z s → Keeps afresh z (g (s, b) x).1) (h : Keeps afresh z p.1) : Keeps afresh z (l.foldl g p).1 := by
  induction l generalizing p with
  | nil => exact h
  | cons x l ih => exact ih (hg p.1 p.2 x h)

theorem Keeps.fold2' {α β : Type} {z : State} {g : β × State → α → β × State} {l : List α} {p : β × State}
    (hg : ∀ b s x, Keeps afresh z s → Keeps afresh z (g (b, s) x).2) (h : Keeps afresh z p.2) : Keeps afresh z (l.foldl g p).2 := by
  induction l generalizing p with
  | nil => exact h
  | cons x l ih => exact ih (hg p.1 p.2 x h)

theorem Keeps.fold3 {α β γ : Type} {z : State} {g : β × γ × State → α → β × γ × State} {l : List α}
    {p : β × γ × State} (hg : ∀ b c s x, Keeps afresh z s → Keeps afresh z (g (b, c, s) x).2.2) (h : Keeps afresh z p.2.2) :
    Keeps afresh z (l.foldl g p).2.2 := by
  induction l generalizing p with
  | nil => exact h
  | cons x l ih => exact ih (hg p.1 p.2.1 p.2.2 x h)

theorem codesOk_congr {f g : FloorPlan} (e : g.get = f.get) (h : codesOk f) : codesOk g := fun x y => by
  rw [e]; exact h x y

/-- A unit's code after another's or its own has been written. -/
theorem FloorPlan.get_put (f : FloorPlan) (ut id v x y : Nat) :
    (f.put ut id v).get x y = if x = ut ∧ y = id ∧ 1 ≤ ut ∧ ut ≤ 5 then v else f.get x y := by
  unfold FloorPlan.put FloorPlan.get
  split <;> split <;> simp_all [tget_tput, eq_comm] <;> omega

/-- A code of Table 1-8 written keeps every code legal. -/
theorem codesOk_put {f : FloorPlan} (h : codesOk f) (ut id v : Nat) (hv : codeOk ut v) : codesOk (f.put ut id v) := by
  intro x y
  rw [FloorPlan.get_put]
  split
  · rename_i e; rw [e.1]; exact hv
  · exact h x y

/-- A change of the floor plan's registers that leaves every unit's code. -/
theorem Keeps.flp {z t : State} {f : FloorSt} (h1 : f.delivered = t.flp.delivered) (h2 : f.cur.get = t.flp.cur.get)
    (h3 : f.deferred = t.flp.deferred) (h : Keeps afresh z t) : Keeps afresh z { t with flp := f } := by
  refine ⟨h.1, ⟨h1.trans h.2.1.1, fun i ut id => ?_⟩, fun i => ?_⟩
  · show Worse _ (f.cur.get ut id) ∨ (afresh ∧ Worse _ (f.cur.get ut id))
    rw [h2]; exact h.2.1.2 i ut id
  have k := h.2.2 i
  exact ⟨k.1, codesOk_congr h2 k.2.1, h1 ▸ k.2.2.1, h3 ▸ k.2.2.2⟩

theorem Keeps.ite {z a b : State} {c : Prop} [Decidable c] (h : Keeps afresh z a) (k : Keeps afresh z b) :
    Keeps afresh z (if c then a else b) := by split <;> assumption

end Sys2Proof
end

