-- ==== Sys2Proof/Laws/KeepsAccess.lean ====
section
/-! SUPPORT. What each operation of Machine/Access.lean keeps. -/

set_option linter.all false

namespace Sys2Proof.Machine

variable {afresh : Prop}

theorem State.setCore_keeps {z s : State} (c : Nat) (v : Core) (hz : Keeps afresh z s) :
    Keeps afresh z (State.setCore s c v) := by
  unfold State.setCore
  try dsimp only
  repeat' first
    | (with_reducible first | assumption)
    | simp only [keeps_with] | dsimp only | intro _

theorem State.updCore_keeps {z s : State} (c : Nat) (f : Core → Core) (hz : Keeps afresh z s) :
    Keeps afresh z (State.updCore s c f) := by
  unfold State.updCore
  try dsimp only
  repeat' first
    | (with_reducible first | assumption | apply State.setCore_keeps)
    | dsimp only | intro _

theorem State.setGrp_keeps {z s : State} (c g : Nat) (v : Group) (hz : Keeps afresh z s) :
    Keeps afresh z (State.setGrp s c g v) := by
  unfold State.setGrp
  try dsimp only
  repeat' first
    | (with_reducible first | assumption | apply State.setCore_keeps)
    | dsimp only | intro _

theorem State.updGrp_keeps {z s : State} (c g : Nat) (f : Group → Group) (hz : Keeps afresh z s) :
    Keeps afresh z (State.updGrp s c g f) := by
  unfold State.updGrp
  try dsimp only
  repeat' first
    | (with_reducible first | assumption | apply State.setGrp_keeps)
    | dsimp only | intro _

theorem State.storeLm_keeps {z s : State} (c : Nat) (ws : List (Nat × Byte)) (hz : Keeps afresh z s) :
    Keeps afresh z (State.storeLm s c ws) := by
  unfold State.storeLm
  try dsimp only
  repeat' first
    | (with_reducible first | assumption | apply State.setCore_keeps | (apply Keeps.fold <;> intros))
    | (with_reducible first | (apply Keeps.fold2 <;> intros) | (apply Keeps.fold2' <;> intros))
    | (with_reducible first | (apply Keeps.fold3 <;> intros))
    | split
    | simp only [keeps_with] | dsimp only | intro _

theorem State.setEngine_keeps {z s : State} (n : Nat) (v : Engine) (hz : Keeps afresh z s) :
    Keeps afresh z (State.setEngine s n v) := by
  unfold State.setEngine
  try dsimp only
  repeat' first
    | (with_reducible first | assumption)
    | simp only [keeps_with] | dsimp only | intro _

theorem State.updEngine_keeps {z s : State} (n : Nat) (f : Engine → Engine) (hz : Keeps afresh z s) :
    Keeps afresh z (State.updEngine s n f) := by
  unfold State.updEngine
  try dsimp only
  repeat' first
    | (with_reducible first | assumption | apply State.setEngine_keeps)
    | dsimp only | intro _

theorem State.setSlice_keeps {z s : State} (n : Nat) (v : Slice) (hz : Keeps afresh z s) :
    Keeps afresh z (State.setSlice s n v) := by
  unfold State.setSlice
  try dsimp only
  repeat' first
    | (with_reducible first | assumption)
    | simp only [keeps_with] | dsimp only | intro _

theorem State.updSlice_keeps {z s : State} (n : Nat) (f : Slice → Slice) (hz : Keeps afresh z s) :
    Keeps afresh z (State.updSlice s n f) := by
  unfold State.updSlice
  try dsimp only
  repeat' first
    | (with_reducible first | assumption | apply State.setSlice_keeps)
    | dsimp only | intro _

theorem State.setBc_keeps {z s : State} (n : Nat) (v : Ctlr) (hz : Keeps afresh z s) :
    Keeps afresh z (State.setBc s n v) := by
  unfold State.setBc
  try dsimp only
  repeat' first
    | (with_reducible first | assumption)
    | simp only [keeps_with] | dsimp only | intro _

theorem State.setLp_keeps {z s : State} (n : Nat) (v : Ctlr) (hz : Keeps afresh z s) :
    Keeps afresh z (State.setLp s n v) := by
  unfold State.setLp
  try dsimp only
  repeat' first
    | (with_reducible first | assumption)
    | simp only [keeps_with] | dsimp only | intro _

theorem State.setMc_keeps {z s : State} (lpddr : Bool) (n : Nat) (v : Ctlr) (hz : Keeps afresh z s) :
    Keeps afresh z (State.setMc s lpddr n v) := by
  unfold State.setMc
  try dsimp only
  repeat' first
    | (with_reducible first | assumption | apply State.setLp_keeps | apply State.setBc_keeps)
    | split
    | dsimp only | intro _

theorem State.updMc_keeps {z s : State} (lpddr : Bool) (n : Nat) (f : Ctlr → Ctlr) (hz : Keeps afresh z s) :
    Keeps afresh z (State.updMc s lpddr n f) := by
  unfold State.updMc
  try dsimp only
  repeat' first
    | (with_reducible first | assumption | apply State.setMc_keeps)
    | dsimp only | intro _

theorem State.setStream_keeps {z s : State} (n : Nat) (v : Stream) (hz : Keeps afresh z s) :
    Keeps afresh z (State.setStream s n v) := by
  unfold State.setStream
  try dsimp only
  repeat' first
    | (with_reducible first | assumption)
    | simp only [keeps_with] | dsimp only | intro _

theorem State.updStream_keeps {z s : State} (n : Nat) (f : Stream → Stream) (hz : Keeps afresh z s) :
    Keeps afresh z (State.updStream s n f) := by
  unfold State.updStream
  try dsimp only
  repeat' first
    | (with_reducible first | assumption | apply State.setStream_keeps)
    | dsimp only | intro _

theorem State.setKv_keeps {z s : State} (n : Nat) (v : Kv) (hz : Keeps afresh z s) :
    Keeps afresh z (State.setKv s n v) := by
  unfold State.setKv
  try dsimp only
  repeat' first
    | (with_reducible first | assumption)
    | simp only [keeps_with] | dsimp only | intro _

theorem State.setEntry_keeps {z s : State} (n : Nat) (v : CmdEntry) (hz : Keeps afresh z s) :
    Keeps afresh z (State.setEntry s n v) := by
  unfold State.setEntry
  try dsimp only
  repeat' first
    | (with_reducible first | assumption)
    | simp only [keeps_with] | dsimp only | intro _

theorem State.setRegion_keeps {z s : State} (c : Nat) (r : Region) (hz : Keeps afresh z s) :
    Keeps afresh z (State.setRegion s c r) := by
  unfold State.setRegion
  try dsimp only
  repeat' first
    | (with_reducible first | assumption)
    | simp only [keeps_with] | dsimp only | intro _

theorem State.setFslot_keeps {z s : State} (n : Nat) (v : FlashSlot) (hz : Keeps afresh z s) :
    Keeps afresh z (State.setFslot s n v) := by
  unfold State.setFslot
  try dsimp only
  repeat' first
    | (with_reducible first | assumption)
    | simp only [keeps_with] | dsimp only | intro _

theorem State.setShadow_keeps {z s : State} (n : Nat) (v : Shadow) (hz : Keeps afresh z s) :
    Keeps afresh z (State.setShadow s n v) := by
  unfold State.setShadow
  try dsimp only
  repeat' first
    | (with_reducible first | assumption)
    | simp only [keeps_with] | dsimp only | intro _

theorem State.drawWord_keeps {z s : State} (hz : Keeps afresh z s) :
    Keeps afresh z (State.drawWord s).2 := by
  unfold State.drawWord
  try dsimp only
  repeat' first
    | (with_reducible first | assumption)
    | simp only [keeps_with] | dsimp only | intro _

theorem State.draw_keeps {z s : State} (hz : Keeps afresh z s) :
    Keeps afresh z (State.draw s).2 := by
  unfold State.draw
  try dsimp only
  repeat' first
    | (with_reducible first | assumption)
    | simp only [keeps_with] | dsimp only | intro _

theorem State.emit_keeps {z s : State} (o : Out) (hz : Keeps afresh z s) :
    Keeps afresh z (State.emit s o) := by
  unfold State.emit
  try dsimp only
  repeat' first
    | (with_reducible first | assumption)
    | simp only [keeps_with] | dsimp only | intro _

end Sys2Proof.Machine
end

