-- ==== Sys2Proof/Laws/KeepsEvents.lean ====
section
/-! SUPPORT. What each operation of Machine/Events.lean keeps. -/

set_option linter.all false

namespace Sys2Proof.Machine

variable {afresh : Prop}

theorem logEvent_keeps {z s : State} (ev : EvRec) (hz : Keeps afresh z s) :
    Keeps afresh z (logEvent s ev) := by
  unfold logEvent
  try dsimp only
  repeat' first
    | (with_reducible first | assumption)
    | split
    | simp only [keeps_with] | dsimp only | intro _

theorem notice_keeps {z s : State} (source code : Nat) (stream : Nat) (detail : Nat) (hz : Keeps afresh z s) :
    Keeps afresh z (notice s source code stream detail) := by
  unfold notice
  try dsimp only
  repeat' first
    | (with_reducible first | assumption | apply logEvent_keeps)
    | dsimp only | intro _

theorem correction_keeps {z s : State} (source ut uid : Nat) (code : Nat) (detail : Nat) (hz : Keeps afresh z s) :
    Keeps afresh z (correction s source ut uid code detail) := by
  unfold correction
  try dsimp only
  repeat' first
    | (with_reducible first | assumption | apply logEvent_keeps)
    | split
    | (with_reducible first | refine Keeps.snd (by assumption) ?_ | refine Keeps.fst (by assumption) ?_)
    | (with_reducible first | refine Keeps.opt (by assumption) ?_)
    | simp only [keeps_with] | dsimp only | intro _

theorem restoreRing_keeps {z s : State} (hz : Keeps afresh z s) :
    Keeps afresh z (restoreRing s) := by
  unfold restoreRing
  try dsimp only
  repeat' first
    | (with_reducible first | assumption | (apply Keeps.fold <;> intros) | (apply Keeps.fold2 <;> intros))
    | (with_reducible first | (apply Keeps.fold2' <;> intros) | (apply Keeps.fold3 <;> intros))
    | simp only [keeps_with] | dsimp only | intro _

theorem hlkEvent_keeps {z s : State} (b : Nat) (hz : Keeps afresh z s) :
    Keeps afresh z (hlkEvent s b) := by
  unfold hlkEvent
  try dsimp only
  repeat' first
    | (with_reducible first | assumption)
    | simp only [keeps_with] | dsimp only | intro _

end Sys2Proof.Machine
end

