-- ==== Sys2Proof/Laws/KeepsFaults.lean ====
section
/-! SUPPORT. What each operation of Machine/Faults.lean keeps. -/

set_option linter.all false

namespace Sys2Proof.Machine

variable {afresh : Prop}

theorem raiseFault_keeps {z s : State} (ut id reason : Nat) (hz : Keeps afresh z s) :
    Keeps afresh z (raiseFault s ut id reason) := by
  unfold raiseFault
  try dsimp only
  repeat' first
    | (with_reducible first | assumption)
    | split
    | simp only [keeps_with] | simp only [id_eq] | dsimp only | intro _

theorem faultEvent_keeps {z s : State} (ev : EvRec) (hz : Keeps afresh z s) :
    Keeps afresh z (faultEvent s ev) := by
  unfold faultEvent
  try dsimp only
  repeat' first
    | (with_reducible first | assumption | apply raiseFault_keeps | apply logEvent_keeps)
    | simp only [keeps_with] | dsimp only | intro _

theorem faultPart_keeps {z s : State} (ev : EvRec) (hz : Keeps afresh z s) :
    Keeps afresh z (faultPart s ev) := by
  unfold faultPart
  try dsimp only
  repeat' first
    | (with_reducible first | assumption | apply logEvent_keeps | apply faultEvent_keeps)
    | split
    | simp only [keeps_with] | dsimp only | intro _

theorem faultIf_keeps {z s : State} (c0 : Bool) (ev : EvRec) (hz : Keeps afresh z s) :
    Keeps afresh z (faultIf s c0 ev) := by
  unfold faultIf
  try dsimp only
  repeat' first
    | (with_reducible first | assumption | apply faultEvent_keeps | apply logEvent_keeps)
    | split
    | dsimp only | intro _

theorem memError_keeps {z s : State} (lpddr : Bool) (ch cause cls line : Nat) (hz : Keeps afresh z s) :
    Keeps afresh z (memError s lpddr ch cause cls line) := by
  unfold memError
  try dsimp only
  repeat' first
    | (with_reducible first | assumption | apply State.updMc_keeps | apply faultIf_keeps)
    | split
    | simp only [keeps_with] | dsimp only | intro _

theorem scheduleTest_keeps {z s : State} (unit : Nat) (hz : Keeps afresh z s) :
    Keeps afresh z (scheduleTest s unit) := by
  unfold scheduleTest
  try dsimp only
  repeat' first
    | (with_reducible first | assumption)
    | split
    | simp only [keeps_with] | dsimp only | intro _

end Sys2Proof.Machine
end

