-- ==== Sys2Proof/Laws/KeepsQueue.lean ====
section
/-! SUPPORT. What each operation of Machine/Queue.lean keeps. -/

set_option linter.all false

namespace Sys2Proof.Machine

variable {afresh : Prop}

theorem admitCtl_keeps {z s : State} (lpddr : Bool) (c : Nat) (hz : Keeps afresh z s) :
    Keeps afresh z (admitCtl s lpddr c) := by
  unfold admitCtl
  try dsimp only
  repeat' first
    | (with_reducible first | assumption | apply State.setMc_keeps | (apply Keeps.fold <;> intros))
    | (with_reducible first | (apply Keeps.fold2 <;> intros) | (apply Keeps.fold2' <;> intros))
    | (with_reducible first | (apply Keeps.fold3 <;> intros))
    | split
    | simp only [keeps_with] | dsimp only | intro _

theorem countOver_keeps {z s : State} (hz : Keeps afresh z s) :
    Keeps afresh z (countOver s) := by
  unfold countOver
  try dsimp only
  repeat' first
    | (with_reducible first | assumption)
    | simp only [keeps_with] | dsimp only | intro _

theorem chargeSlice_keeps {z s : State} (k cls n : Nat) (hz : Keeps afresh z s) :
    Keeps afresh z (chargeSlice s k cls n) := by
  unfold chargeSlice
  try dsimp only
  repeat' first
    | (with_reducible first | assumption | apply State.updSlice_keeps | apply countOver_keeps)
    | split
    | simp only [keeps_with] | dsimp only | intro _

theorem chargeCtl_keeps {z s : State} (lpddr : Bool) (c cls : Nat) (hz : Keeps afresh z s) :
    Keeps afresh z (chargeCtl s lpddr c cls) := by
  unfold chargeCtl
  try dsimp only
  repeat' first
    | (with_reducible first | assumption | apply State.updMc_keeps | apply countOver_keeps)
    | split
    | simp only [keeps_with] | dsimp only | intro _

theorem countHeld_keeps {z s : State} (cls : Nat) (hz : Keeps afresh z s) :
    Keeps afresh z (countHeld s cls) := by
  unfold countHeld
  try dsimp only
  repeat' first
    | (with_reducible first | assumption)
    | simp only [keeps_with] | dsimp only | intro _

end Sys2Proof.Machine
end

