-- ==== Sys2Proof/Laws/KeepsDram.lean ====
section
/-! SUPPORT. What each operation of Machine/Dram.lean keeps. -/

set_option linter.all false

namespace Sys2Proof.Machine

variable {afresh : Prop}

theorem State.setCtr_keeps {z s : State} (c p : Nat) (e : CtrEnt) (hz : Keeps afresh z s) :
    Keeps afresh z (State.setCtr s c p e) := by
  unfold State.setCtr
  try dsimp only
  repeat' first
    | (with_reducible first | assumption | apply State.updMc_keeps)
    | simp only [keeps_with] | dsimp only | intro _

theorem dieWrite_keeps {z s : State} (line : Nat) (ws : List (Nat × Byte)) (h : Keeps afresh z s) :
    Keeps afresh z (dieWrite s line ws) := by
  unfold dieWrite
  split
  · exact keeps_with.2 h
  split
  · exact keeps_with.2 h
  · refine ⟨h.1, h.2.1, fun i => ⟨?_, (h.2.2 i).2⟩⟩
    have : ∀ (m : Mem), twf 0#8 m = true → twf 0#8 (ws.foldl (fun m w => mput m (256 * line + w.1) w.2) m) = true := by
      induction ws with
      | nil => intro m hm; exact hm
      | cons w ws ih => intro m hm; exact ih _ (twf_mput m _ _ hm)
    exact this _ (h.2.2 i).1

theorem updBad_keeps {z s : State} (c line : Nat) (f : List Nat → List Nat) (hz : Keeps afresh z s) :
    Keeps afresh z (updBad s c line f) := by
  unfold updBad
  try dsimp only
  repeat' first
    | (with_reducible first | assumption | apply State.updMc_keeps)
    | split
    | simp only [keeps_with] | dsimp only | intro _

theorem markBad_keeps {z s : State} (c line word : Nat) (hz : Keeps afresh z s) :
    Keeps afresh z (markBad s c line word) := by
  unfold markBad
  try dsimp only
  repeat' first
    | (with_reducible first | assumption | apply updBad_keeps)
    | split
    | dsimp only | intro _

theorem soundAfter_keeps {z s : State} (c line : Nat) (covered : Nat → Bool) (hz : Keeps afresh z s) :
    Keeps afresh z (soundAfter s c line covered) := by
  unfold soundAfter
  try dsimp only
  repeat' first
    | (with_reducible first | assumption | apply updBad_keeps | apply State.updMc_keeps)
    | split
    | simp only [keeps_with] | dsimp only | intro _

theorem bondedStore_keeps {z s : State} (c line : Nat) (ws : List (Nat × Byte)) (h : Keeps afresh z s) :
    Keeps afresh z (bondedStore s c line ws) := soundAfter_keeps _ _ _ (dieWrite_keeps _ _ h)

theorem shadowAccess_keeps {z s : State} (line : Nat) (hz : Keeps afresh z s) :
    Keeps afresh z (shadowAccess s line) := by
  unfold shadowAccess
  try dsimp only
  repeat' first
    | (with_reducible first | assumption | apply chargeCtl_keeps)
    | dsimp only | intro _

theorem touchShadow_keeps {z s : State} (n : Nat) (hz : Keeps afresh z s) :
    Keeps afresh z (touchShadow s n) := by
  unfold touchShadow
  try dsimp only
  repeat' first
    | (with_reducible first | assumption | apply shadowAccess_keeps | apply memError_keeps)
    | (with_reducible first | (apply Keeps.fold <;> intros) | (apply Keeps.fold2 <;> intros))
    | (with_reducible first | (apply Keeps.fold2' <;> intros) | (apply Keeps.fold3 <;> intros))
    | split
    | (with_reducible first | refine Keeps.snd (by assumption) ?_ | refine Keeps.fst (by assumption) ?_)
    | (with_reducible first | refine Keeps.opt (by assumption) ?_)
    | dsimp only | intro _

theorem State.putShadow_keeps {z s : State} (n : Nat) (b : List Byte) (hz : Keeps afresh z s) : Keeps afresh z (s.putShadow n b) := by
  unfold State.putShadow
  apply Keeps.fold
  · intro s l hs
    exact soundAfter_keeps _ _ _ (shadowAccess_keeps _ hs)
  · exact ⟨hz.1, hz.2.1, fun i => ⟨twf_mwrite _ _ _ (hz.2.2 i).1, (hz.2.2 i).2⟩⟩

theorem bondedEv_keeps {z s : State} (c : Nat) (ev : BcEv) (hz : Keeps afresh z s) :
    Keeps afresh z (bondedEv s c ev) := by
  unfold bondedEv
  try dsimp only
  repeat' first
    | (with_reducible first | assumption | apply correction_keeps | apply State.updMc_keeps)
    | (with_reducible first | apply scheduleTest_keeps)
    | split
    | (with_reducible first | refine Keeps.snd (by assumption) ?_ | refine Keeps.fst (by assumption) ?_)
    | (with_reducible first | refine Keeps.opt (by assumption) ?_)
    | simp only [keeps_with] | dsimp only | intro _

theorem bondedTake_keeps {z s : State} (c line cls : Nat) (ev : BcEv) (hz : Keeps afresh z s) :
    Keeps afresh z (bondedTake s c line cls ev).2 := by
  unfold bondedTake
  try dsimp only
  repeat' first
    | (with_reducible first | assumption | apply bondedEv_keeps | apply markBad_keeps | apply memError_keeps)
    | split
    | (with_reducible first | refine Keeps.snd (by assumption) ?_ | refine Keeps.fst (by assumption) ?_)
    | (with_reducible first | refine Keeps.opt (by assumption) ?_)
    | dsimp only | intro _

theorem rollover_keeps {z s : State} (c p : Nat) (hz : Keeps afresh z s) :
    Keeps afresh z (rollover s c p) := by
  unfold rollover
  try dsimp only
  repeat' first
    | (with_reducible first | assumption | apply State.setCtr_keeps | apply State.updMc_keeps)
    | (with_reducible first | (apply Keeps.fold <;> intros) | (apply Keeps.fold2 <;> intros))
    | (with_reducible first | (apply Keeps.fold2' <;> intros) | (apply Keeps.fold3 <;> intros))
    | split
    | simp only [keeps_with] | dsimp only | intro _

theorem writePage_keeps {z s : State} (c p : Nat) (plain : List Byte) (poison : Bool) (hz : Keeps afresh z s) :
    Keeps afresh z (writePage s c p plain poison) := by
  unfold writePage
  try dsimp only
  repeat' first
    | (with_reducible first | assumption | apply rollover_keeps | apply State.setCtr_keeps)
    | (with_reducible first | apply State.updMc_keeps)
    | split
    | simp only [keeps_with] | dsimp only | intro _

theorem pageCorrection_keeps {z s : State} (c : Nat) (hz : Keeps afresh z s) :
    Keeps afresh z (pageCorrection s c) := by
  unfold pageCorrection
  try dsimp only
  repeat' first
    | (with_reducible first | assumption | apply correction_keeps | apply State.updMc_keeps)
    | simp only [keeps_with] | dsimp only | intro _

theorem fetchPage_keeps {z s : State} (c p cls : Nat) (noise : LpNoise) (hz : Keeps afresh z s) :
    Keeps afresh z (fetchPage s c p cls noise).2 := by
  unfold fetchPage
  try dsimp only
  repeat' first
    | (with_reducible first | assumption | apply chargeCtl_keeps | apply pageCorrection_keeps)
    | (with_reducible first | apply State.updMc_keeps)
    | split
    | (with_reducible first | refine Keeps.snd (by assumption) ?_ | refine Keeps.fst (by assumption) ?_)
    | (with_reducible first | refine Keeps.opt (by assumption) ?_)
    | dsimp only | intro _

theorem pageError_keeps {z s : State} (c p cause cls line : Nat) (hz : Keeps afresh z s) :
    Keeps afresh z (pageError s c p cause cls line) := by
  unfold pageError
  try dsimp only
  repeat' first
    | (with_reducible first | assumption | apply memError_keeps)
    | split
    | dsimp only | intro _

theorem drainEntry_keeps {z s : State} (c i : Nat) (noise : LpNoise) (hz : Keeps afresh z s) :
    Keeps afresh z (drainEntry s c i noise) := by
  unfold drainEntry
  try dsimp only
  repeat' first
    | (with_reducible first | assumption | apply State.updMc_keeps | apply memError_keeps | apply chargeCtl_keeps)
    | (with_reducible first | apply writePage_keeps | apply fetchPage_keeps | apply logEvent_keeps)
    | split
    | (with_reducible first | refine Keeps.snd (by assumption) ?_ | refine Keeps.fst (by assumption) ?_)
    | (with_reducible first | refine Keeps.opt (by assumption) ?_)
    | simp only [keeps_with] | dsimp only | intro _

theorem backingLine_keeps {z s : State} (line cls : Nat) (hz : Keeps afresh z s) :
    Keeps afresh z (backingLine s line cls).2 := by
  unfold backingLine
  try dsimp only
  repeat' first
    | (with_reducible first | assumption | apply chargeCtl_keeps | apply fetchPage_keeps | apply pageError_keeps)
    | (with_reducible first | apply memError_keeps)
    | split
    | (with_reducible first | refine Keeps.snd (by assumption) ?_ | refine Keeps.fst (by assumption) ?_)
    | (with_reducible first | refine Keeps.opt (by assumption) ?_)
    | dsimp only | intro _

theorem makeMergeRoom_keeps {z : State} (c p cls : Nat) (k : Nat) : ∀ {s : State}, Keeps afresh z s →
    Keeps afresh z (makeMergeRoom k s c p cls) := by
  induction k with
  | zero => intro s hz; exact hz
  | succ k ih =>
    intro s hz
    unfold makeMergeRoom
    dsimp only
    split
    · exact hz
    · exact ih (drainEntry_keeps _ _ _ hz)

theorem storeAtCtl_keeps {z s : State} (lpddr : Bool) (c line cls : Nat) (ws : List (Nat × Byte)) (hz : Keeps afresh z s) :
    Keeps afresh z (storeAtCtl s lpddr c line cls ws) := by
  unfold storeAtCtl
  try dsimp only
  repeat' first
    | (with_reducible first | assumption | apply chargeCtl_keeps | apply makeMergeRoom_keeps)
    | (with_reducible first | apply State.updMc_keeps | apply bondedStore_keeps)
    | split
    | simp only [keeps_with] | dsimp only | intro _

theorem writeBack_keeps {z s : State} (n line cls : Nat) (ws : List (Nat × Byte)) (hz : Keeps afresh z s) :
    Keeps afresh z (writeBack s n line cls ws) := by
  unfold writeBack
  try dsimp only
  repeat' first
    | (with_reducible first | assumption | apply State.updMc_keeps | apply State.setMc_keeps)
    | (with_reducible first | apply storeAtCtl_keeps | apply admitCtl_keeps | (apply Keeps.fold <;> intros))
    | (with_reducible first | (apply Keeps.fold2 <;> intros) | (apply Keeps.fold2' <;> intros))
    | (with_reducible first | (apply Keeps.fold3 <;> intros))
    | split
    | (with_reducible first | apply Keeps.getD)
    | simp only [keeps_with] | dsimp only | intro _

end Sys2Proof.Machine
end

