-- ==== Sys2Proof/Laws/KeepsCache.lean ====
section
/-! SUPPORT. What each operation of Machine/Cache.lean keeps. -/

set_option linter.all false

namespace Sys2Proof.Machine

variable {afresh : Prop}

theorem sendSnp_keeps {z s : State} (data : Bool) (l : Nat) (hz : Keeps afresh z s) :
    Keeps afresh z (sendSnp s data l) := by
  unfold sendSnp
  try dsimp only
  repeat' first
    | (with_reducible first | assumption | apply State.emit_keeps)
    | simp only [keeps_with] | dsimp only | intro _

theorem dirInvalidate_keeps {z s : State} (l : Nat) (hz : Keeps afresh z s) :
    Keeps afresh z (dirInvalidate s l) := by
  unfold dirInvalidate
  try dsimp only
  repeat' first
    | (with_reducible first | assumption | apply sendSnp_keeps)
    | split
    | simp only [keeps_with] | dsimp only | intro _

theorem dirInvRange_keeps {z s : State} (a n : Nat) (hz : Keeps afresh z s) :
    Keeps afresh z (dirInvRange s a n) := by
  unfold dirInvRange
  try dsimp only
  repeat' first
    | (with_reducible first | assumption | apply dirInvalidate_keeps | (apply Keeps.fold <;> intros))
    | (with_reducible first | (apply Keeps.fold2 <;> intros) | (apply Keeps.fold2' <;> intros))
    | (with_reducible first | (apply Keeps.fold3 <;> intros))
    | dsimp only | intro _

theorem dirRecall_keeps {z s : State} (a n : Nat) (hz : Keeps afresh z s) :
    Keeps afresh z (dirRecall s a n).2 := by
  unfold dirRecall
  try dsimp only
  repeat' first
    | (with_reducible first | assumption | apply sendSnp_keeps | (apply Keeps.fold <;> intros))
    | (with_reducible first | (apply Keeps.fold2 <;> intros) | (apply Keeps.fold2' <;> intros))
    | (with_reducible first | (apply Keeps.fold3 <;> intros))
    | split
    | dsimp only | intro _

theorem snoopRead_keeps {z s : State} (cls a n : Nat) (hz : Keeps afresh z s) :
    Keeps afresh z (snoopRead s cls a n).2 := by
  unfold snoopRead
  try dsimp only
  repeat' first
    | (with_reducible first | assumption | apply dirInvRange_keeps | apply dirRecall_keeps)
    | split
    | dsimp only | intro _

theorem evict_keeps {z s : State} (send : State → Nat → Nat → Nat → List (Nat × Byte) → State) (n set way cls : Nat) (hsend : ∀ (t : State) x0 x1 x2 x3, Keeps afresh z t → Keeps afresh z (send t x0 x1 x2 x3)) (hz : Keeps afresh z s) :
    Keeps afresh z (evict send s n set way cls) := by
  unfold evict
  try dsimp only
  repeat' first
    | (with_reducible first | assumption | apply State.updSlice_keeps | apply hsend)
    | split
    | dsimp only | intro _

theorem allocate_keeps {z s : State} (send : State → Nat → Nat → Nat → List (Nat × Byte) → State) (n : Nat) (h : Home) (w : Option WinRec) (cls : Nat) (hsend : ∀ (t : State) x0 x1 x2 x3, Keeps afresh z t → Keeps afresh z (send t x0 x1 x2 x3)) (hz : Keeps afresh z s) :
    Keeps afresh z (allocate send s n h w cls).2 := by
  unfold allocate
  try dsimp only
  repeat' first
    | (with_reducible first | assumption | apply evict_keeps | apply State.setSlice_keeps | apply hsend)
    | split
    | (with_reducible first | refine Keeps.snd (by assumption) ?_ | refine Keeps.fst (by assumption) ?_)
    | (with_reducible first | refine Keeps.opt (by assumption) ?_)
    | simp only [keeps_with] | dsimp only | intro _

theorem answer_keeps {z s : State} (r : Req) (res : Except Nat (List (Nat × Nat))) (hz : Keeps afresh z s) :
    Keeps afresh z (answer s r res) := by
  unfold answer
  try dsimp only
  repeat' first
    | (with_reducible first | assumption | apply State.updGrp_keeps)
    | split
    | (with_reducible first | refine Keeps.snd (by assumption) ?_ | refine Keeps.fst (by assumption) ?_)
    | (with_reducible first | refine Keeps.opt (by assumption) ?_)
    | simp only [keeps_with] | simp only [id_eq] | dsimp only | intro _

theorem toChannel_keeps {z s : State} (r : MemReq) (hz : Keeps afresh z s) :
    Keeps afresh z (toChannel s r) := by
  unfold toChannel
  try dsimp only
  repeat' first
    | (with_reducible first | assumption | apply admitCtl_keeps | apply State.updMc_keeps)
    | simp only [keeps_with] | dsimp only | intro _

theorem queueWrite_keeps {z s : State} (n line cls : Nat) (ws : List (Nat × Byte)) (hz : Keeps afresh z s) :
    Keeps afresh z (queueWrite s n line cls ws) := by
  unfold queueWrite
  try dsimp only
  repeat' first
    | (with_reducible first | assumption | apply toChannel_keeps)
    | dsimp only | intro _

theorem release_keeps {z s : State} (n : Nat) (hz : Keeps afresh z s) :
    Keeps afresh z (release s n) := by
  unfold release
  try dsimp only
  repeat' first
    | (with_reducible first | assumption | apply State.setSlice_keeps | (apply Keeps.fold <;> intros))
    | (with_reducible first | (apply Keeps.fold2 <;> intros) | (apply Keeps.fold2' <;> intros))
    | (with_reducible first | (apply Keeps.fold3 <;> intros))
    | split
    | simp only [keeps_with] | dsimp only | intro _

theorem deliver_keeps {z s : State} (n : Nat) (r : Req) (hz : Keeps afresh z s) :
    Keeps afresh z (deliver s n r) := by
  unfold deliver
  try dsimp only
  repeat' first
    | (with_reducible first | assumption | apply release_keeps | apply State.updSlice_keeps)
    | simp only [keeps_with] | dsimp only | intro _

theorem sendBack_keeps {z s : State} (n : Nat) (r : Req) (hz : Keeps afresh z s) :
    Keeps afresh z (sendBack s n r) := by
  unfold sendBack
  try dsimp only
  repeat' first
    | (with_reducible first | assumption | apply State.updSlice_keeps)
    | simp only [keeps_with] | dsimp only | intro _

theorem startMiss_keeps {z s : State} (k : Nat) (h : Home) (r : Req) (hz : Keeps afresh z s) :
    Keeps afresh z (startMiss s k h r) := by
  unfold startMiss
  try dsimp only
  repeat' first
    | (with_reducible first | assumption | apply allocate_keeps | apply queueWrite_keeps)
    | (with_reducible first | apply State.updSlice_keeps | apply toChannel_keeps)
    | split
    | (with_reducible first | refine Keeps.snd (by assumption) ?_ | refine Keeps.fst (by assumption) ?_)
    | (with_reducible first | refine Keeps.opt (by assumption) ?_)
    | simp only [keeps_with] | dsimp only | intro _

theorem missOf_keeps {z s : State} (k : Nat) (h : Home) (r : Req) (hz : Keeps afresh z s) :
    Keeps afresh z (missOf s k h r) := by
  unfold missOf
  try dsimp only
  repeat' first
    | (with_reducible first | assumption | apply State.updSlice_keeps | apply answer_keeps | apply startMiss_keeps)
    | split
    | dsimp only | intro _

theorem readLine_keeps {z s : State} (k set way : Nat) (r : Req) (hz : Keeps afresh z s) :
    Keeps afresh z (readLine s k set way r) := by
  unfold readLine
  try dsimp only
  repeat' first
    | (with_reducible first | assumption | apply answer_keeps)
    | dsimp only | intro _

theorem atomLine_keeps {z s : State} (k set way : Nat) (r : Req) (op : AtomOp) (ls : List (Nat × Nat × Nat)) (hz : Keeps afresh z s) :
    Keeps afresh z (atomLine s k set way r op ls) := by
  unfold atomLine
  try dsimp only
  repeat' first
    | (with_reducible first | assumption | apply State.updSlice_keeps | apply answer_keeps)
    | (with_reducible first | apply dirInvRange_keeps)
    | dsimp only | intro _

theorem retireLine_keeps {z s : State} (k : Nat) (h : Home) (L : Nat) (hz : Keeps afresh z s) :
    Keeps afresh z (retireLine s k h L) := by
  unfold retireLine
  try dsimp only
  repeat' first
    | (with_reducible first | assumption | apply State.updSlice_keeps | apply dirInvRange_keeps)
    | split
    | (with_reducible first | refine Keeps.snd (by assumption) ?_ | refine Keeps.fst (by assumption) ?_)
    | (with_reducible first | refine Keeps.opt (by assumption) ?_ | apply Keeps.getD)
    | simp only [keeps_with] | dsimp only | intro _

theorem storeLine_keeps {z s : State} (send : State → Nat → Nat → Nat → List (Nat × Byte) → State) (k : Nat) (h : Home) (cls : Nat) (ws : List (Nat × Byte)) (hsend : ∀ (t : State) x0 x1 x2 x3, Keeps afresh z t → Keeps afresh z (send t x0 x1 x2 x3)) (hz : Keeps afresh z s) :
    Keeps afresh z (storeLine send s k h cls ws) := by
  unfold storeLine
  try dsimp only
  repeat' first
    | (with_reducible first | assumption | apply State.updSlice_keeps | apply allocate_keeps | apply hsend)
    | split
    | (with_reducible first | refine Keeps.snd (by assumption) ?_ | refine Keeps.fst (by assumption) ?_)
    | (with_reducible first | refine Keeps.opt (by assumption) ?_)
    | dsimp only | intro _

theorem serveHere_keeps {z s : State} (k : Nat) (h : Home) (r : Req) (hz : Keeps afresh z s) :
    Keeps afresh z (serveHere s k h r) := by
  unfold serveHere
  try dsimp only
  repeat' first
    | (with_reducible first | assumption | apply answer_keeps | apply retireLine_keeps | apply State.updSlice_keeps)
    | (with_reducible first | apply dirInvRange_keeps | apply storeLine_keeps | apply queueWrite_keeps)
    | (with_reducible first | apply readLine_keeps | apply missOf_keeps | apply atomLine_keeps)
    | split
    | (with_reducible first | refine Keeps.snd (by assumption) ?_ | refine Keeps.fst (by assumption) ?_)
    | (with_reducible first | refine Keeps.opt (by assumption) ?_)
    | dsimp only | intro _

theorem snoopReq_keeps {z s : State} (r : Req) (hz : Keeps afresh z s) :
    Keeps afresh z (snoopReq s r).2 := by
  unfold snoopReq
  try dsimp only
  repeat' first
    | (with_reducible first | assumption | apply snoopRead_keeps)
    | split
    | (with_reducible first | refine Keeps.snd (by assumption) ?_ | refine Keeps.fst (by assumption) ?_)
    | (with_reducible first | refine Keeps.opt (by assumption) ?_)
    | dsimp only | intro _

theorem joinMiss_keeps {z s : State} (k : Nat) (r : Req) (hz : Keeps afresh z s) :
    Keeps afresh z (joinMiss s k r) := by
  unfold joinMiss
  try dsimp only
  repeat' first
    | (with_reducible first | assumption | apply State.updSlice_keeps)
    | split
    | simp only [keeps_with] | dsimp only | intro _

theorem countMerge_keeps {z s : State} (k cls : Nat) (hz : Keeps afresh z s) :
    Keeps afresh z (countMerge s k cls) := by
  unfold countMerge
  try dsimp only
  repeat' first
    | (with_reducible first | assumption | apply State.updSlice_keeps)
    | simp only [keeps_with] | dsimp only | intro _

theorem serveAnew_keeps {z : State} (k : Nat) (h : Home) (rs : List Req) : ∀ {s : State}, Keeps afresh z s → Keeps afresh z (serveAnew k h rs s) := by
  induction rs with
  | nil => intro s hz; exact hz
  | cons r rs ih =>
    intro s hz
    unfold serveAnew
    try dsimp only
    repeat' first
    | with_reducible apply ih
      | (with_reducible first | assumption | apply joinMiss_keeps | apply serveHere_keeps)
      | split
      | dsimp only | intro _

theorem storeFilled_keeps {z s : State} (k : Nat) (h : Home) (cls : Nat) (ws : List (Nat × Byte)) (hz : Keeps afresh z s) :
    Keeps afresh z (storeFilled s k h cls ws) := by
  unfold storeFilled
  try dsimp only
  repeat' first
    | (with_reducible first | assumption | apply State.updSlice_keeps | apply writeBack_keeps)
    | split
    | (with_reducible first | refine Keeps.snd (by assumption) ?_ | refine Keeps.fst (by assumption) ?_)
    | (with_reducible first | refine Keeps.opt (by assumption) ?_)
    | dsimp only | intro _

theorem readFilled_keeps {z s : State} (k : Nat) (h : Home) (pre : Nat) (b : List Byte) (off n : Nat) (hz : Keeps afresh z s) :
    Keeps afresh z (readFilled s k h pre b off n).2 := by
  unfold readFilled
  try dsimp only
  repeat' first
    | (with_reducible first | assumption | apply State.updSlice_keeps)
    | split
    | (with_reducible first | refine Keeps.snd (by assumption) ?_ | refine Keeps.fst (by assumption) ?_)
    | (with_reducible first | refine Keeps.opt (by assumption) ?_)
    | dsimp only | intro _

theorem serveWaiters_keeps {z : State} (k : Nat) (h : Home) (pre : Nat) (rs : List Req) : ∀ (f : FillEnd) {s : State}, Keeps afresh z s → Keeps afresh z (serveWaiters k h pre f rs s).2 := by
  induction rs with
  | nil => intro f s hz; exact hz
  | cons r rs ih =>
    intro f s hz
    unfold serveWaiters
    try dsimp only
    repeat' first
    | with_reducible apply ih
      | (with_reducible first | assumption | apply serveAnew_keeps | apply answer_keeps | apply retireLine_keeps)
      | (with_reducible first | apply dirInvRange_keeps | apply storeFilled_keeps | apply readFilled_keeps)
      | split
      | (with_reducible first | refine Keeps.snd (by assumption) ?_ | refine Keeps.fst (by assumption) ?_)
      | (with_reducible first | refine Keeps.opt (by assumption) ?_)
      | dsimp only | intro _

theorem fillLine_keeps {z s : State} (k L : Nat) (bytes : Option (List Byte)) (also : Option (Nat × Nat)) (hz : Keeps afresh z s) :
    Keeps afresh z (fillLine s k L bytes also).2 := by
  unfold fillLine
  try dsimp only
  repeat' first
    | (with_reducible first | assumption | apply State.updSlice_keeps | apply answer_keeps)
    | (with_reducible first | apply serveWaiters_keeps | apply serveAnew_keeps | (apply Keeps.fold <;> intros))
    | (with_reducible first | (apply Keeps.fold2 <;> intros) | (apply Keeps.fold2' <;> intros))
    | (with_reducible first | (apply Keeps.fold3 <;> intros))
    | split
    | (with_reducible first | refine Keeps.snd (by assumption) ?_ | refine Keeps.fst (by assumption) ?_)
    | (with_reducible first | refine Keeps.opt (by assumption) ?_)
    | simp only [keeps_with] | dsimp only | intro _

theorem fetchFill_keeps {z s : State} (k L : Nat) (hz : Keeps afresh z s) :
    Keeps afresh z (fetchFill s k L).2 := by
  unfold fetchFill
  try dsimp only
  repeat' first
    | (with_reducible first | assumption | apply State.updSlice_keeps | apply State.updMc_keeps)
    | (with_reducible first | apply admitCtl_keeps | apply backingLine_keeps)
    | split
    | (with_reducible first | refine Keeps.snd (by assumption) ?_ | refine Keeps.fst (by assumption) ?_)
    | (with_reducible first | refine Keeps.opt (by assumption) ?_)
    | simp only [keeps_with] | dsimp only | intro _

theorem fillNow_keeps {z s : State} (k L : Nat) (also : Option (Nat × Nat)) (hz : Keeps afresh z s) :
    Keeps afresh z (fillNow s k L also).2 := by
  unfold fillNow
  try dsimp only
  repeat' first
    | (with_reducible first | assumption | apply fetchFill_keeps | apply fillLine_keeps)
    | dsimp only | intro _

theorem joinAll_keeps {z : State} (f : Nat) : ∀ {s : State} (k L : Nat), Keeps afresh z s → Keeps afresh z (joinAll f s k L) := by
  induction f with
  | zero => intro s k L hz; exact hz
  | succ f ih =>
    intro s k L hz
    unfold joinAll
    try dsimp only
    repeat' first
    | with_reducible apply ih
      | (with_reducible first | assumption | apply snoopReq_keeps | apply State.updSlice_keeps | apply joinMiss_keeps)
      | (with_reducible first | apply countMerge_keeps | apply chargeSlice_keeps | apply sendBack_keeps)
      | split
      | (with_reducible first | refine Keeps.snd (by assumption) ?_ | refine Keeps.fst (by assumption) ?_)
      | (with_reducible first | refine Keeps.opt (by assumption) ?_)
      | simp only [keeps_with] | dsimp only | intro _

theorem settle_keeps {z : State} (f : Nat) : ∀ {s : State} (k L : Nat), Keeps afresh z s → Keeps afresh z (settle f s k L) := by
  induction f with
  | zero => intro s k L hz; exact hz
  | succ f ih =>
    intro s k L hz
    unfold settle
    try dsimp only
    repeat' first
    | with_reducible apply ih
      | (with_reducible first | assumption | apply fillNow_keeps | apply joinAll_keeps | apply State.updSlice_keeps)
      | (with_reducible first | apply answer_keeps | apply snoopReq_keeps | apply serveHere_keeps)
      | (with_reducible first | apply chargeSlice_keeps | apply sendBack_keeps)
      | split
      | (with_reducible first | refine Keeps.snd (by assumption) ?_ | refine Keeps.fst (by assumption) ?_)
      | (with_reducible first | refine Keeps.opt (by assumption) ?_)
      | simp only [keeps_with] | dsimp only | intro _

theorem settleLine_keeps {z s : State} (k L : Nat) (hz : Keeps afresh z s) :
    Keeps afresh z (settleLine s k L) := by
  unfold settleLine
  try dsimp only
  repeat' first
    | (with_reducible first | assumption | apply settle_keeps)
    | dsimp only | intro _

theorem mergeAt_keeps {z s : State} (k L : Nat) (hz : Keeps afresh z s) :
    KeepsOpt afresh z (mergeAt s k L) := by
  unfold mergeAt
  try dsimp only
  repeat' first
    | (with_reducible first | assumption | apply joinAll_keeps | apply KeepsOpt.some | exact KeepsOpt.none)
    | split
    | dsimp only | intro _

theorem homeWrite_keeps {z s : State} (h : Home) (cls off : Nat) (bs : List Byte) (hz : Keeps afresh z s) :
    Keeps afresh z (homeWrite s h cls off bs) := by
  unfold homeWrite
  try dsimp only
  repeat' first
    | (with_reducible first | assumption | apply deliver_keeps | apply settleLine_keeps | apply storeLine_keeps)
    | (with_reducible first | apply writeBack_keeps | apply chargeSlice_keeps | apply mergeAt_keeps)
    | (with_reducible first | apply fillNow_keeps | apply countMerge_keeps | apply storeFilled_keeps)
    | split
    | (with_reducible first | refine Keeps.snd (by assumption) ?_ | refine Keeps.fst (by assumption) ?_)
    | (with_reducible first | refine Keeps.opt (by assumption) ?_)
    | dsimp only | intro _

theorem readFresh_keeps {z s : State} (h : Home) (cls off n : Nat) (hz : Keeps afresh z s) :
    Keeps afresh z (readFresh s h cls off n).2 := by
  unfold readFresh
  try dsimp only
  repeat' first
    | (with_reducible first | assumption | apply backingLine_keeps | apply State.updSlice_keeps)
    | (with_reducible first | apply allocate_keeps | apply writeBack_keeps)
    | split
    | (with_reducible first | refine Keeps.snd (by assumption) ?_ | refine Keeps.fst (by assumption) ?_)
    | (with_reducible first | refine Keeps.opt (by assumption) ?_)
    | dsimp only | intro _

theorem homeRead_keeps {z s : State} (h : Home) (cl : Option Nat) (cls off n : Nat) (hz : Keeps afresh z s) :
    Keeps afresh z (homeRead s h cl cls off n).2 := by
  unfold homeRead
  try dsimp only
  repeat' first
    | (with_reducible first | assumption | apply mergeAt_keeps | apply readFresh_keeps | apply chargeSlice_keeps)
    | (with_reducible first | apply settleLine_keeps | apply fillNow_keeps | apply countMerge_keeps)
    | (with_reducible first | apply readFilled_keeps)
    | split
    | (with_reducible first | refine Keeps.snd (by assumption) ?_ | refine Keeps.fst (by assumption) ?_)
    | (with_reducible first | refine Keeps.opt (by assumption) ?_)
    | dsimp only | intro _

theorem mayAccess_keeps {z s : State} (kind cls a n : Nat) (write : Bool) (hz : Keeps afresh z s) :
    Keeps afresh z (mayAccess s kind cls a n write).2 := by
  unfold mayAccess
  try dsimp only
  repeat' first
    | (with_reducible first | assumption | apply countHeld_keeps)
    | split
    | dsimp only | intro _

theorem devRead_keeps {z s : State} (priv : Bool) (cls a n : Nat) (cl : Option Nat) (hz : Keeps afresh z s) :
    Keeps afresh z (devRead s priv cls a n cl).2 := by
  unfold devRead
  try dsimp only
  repeat' first
    | (with_reducible first | assumption | apply homeRead_keeps | (apply Keeps.fold <;> intros))
    | (with_reducible first | (apply Keeps.fold2 <;> intros) | (apply Keeps.fold2' <;> intros))
    | (with_reducible first | (apply Keeps.fold3 <;> intros))
    | split
    | (with_reducible first | refine Keeps.snd (by assumption) ?_ | refine Keeps.fst (by assumption) ?_)
    | (with_reducible first | refine Keeps.opt (by assumption) ?_)
    | dsimp only | intro _

theorem devStore_keeps {z s : State} (priv : Bool) (cls a : Nat) (bs : List Byte) (hz : Keeps afresh z s) :
    Keeps afresh z (devStore s priv cls a bs).2 := by
  unfold devStore
  try dsimp only
  repeat' first
    | (with_reducible first | assumption | apply homeWrite_keeps | apply dirInvRange_keeps)
    | (with_reducible first | (apply Keeps.fold <;> intros) | (apply Keeps.fold2 <;> intros))
    | (with_reducible first | (apply Keeps.fold2' <;> intros) | (apply Keeps.fold3 <;> intros))
    | split
    | (with_reducible first | refine Keeps.snd (by assumption) ?_ | refine Keeps.fst (by assumption) ?_)
    | (with_reducible first | refine Keeps.opt (by assumption) ?_)
    | dsimp only | intro _

theorem devWrite_keeps {z s : State} (cls a : Nat) (bs : List Byte) (hz : Keeps afresh z s) :
    Keeps afresh z (devWrite s cls a bs) := by
  unfold devWrite
  try dsimp only
  repeat' first
    | (with_reducible first | assumption | apply devStore_keeps)
    | dsimp only | intro _

theorem devTake_keeps {z s : State} (cls a n : Nat) (hz : Keeps afresh z s) :
    Keeps afresh z (devTake s cls a n).2 := by
  unfold devTake
  try dsimp only
  repeat' first
    | (with_reducible first | assumption | apply devRead_keeps)
    | split
    | (with_reducible first | refine Keeps.snd (by assumption) ?_ | refine Keeps.fst (by assumption) ?_)
    | (with_reducible first | refine Keeps.opt (by assumption) ?_)
    | dsimp only | intro _

end Sys2Proof.Machine
end

