-- ==== Sys2Proof/Laws/KeepsKvBase.lean ====
section
/-! SUPPORT. What each operation of Machine/KvBase.lean keeps. -/

set_option linter.all false

namespace Sys2Proof.Machine

variable {afresh : Prop}

theorem writeSeqRecord_keeps {z s : State} (n q : Nat) (hz : Keeps afresh z s) :
    Keeps afresh z (writeSeqRecord s n q) := by
  unfold writeSeqRecord
  try dsimp only
  repeat' first
    | (with_reducible first | assumption | apply devWrite_keeps)
    | split
    | (with_reducible first | refine Keeps.snd (by assumption) ?_ | refine Keeps.fst (by assumption) ?_)
    | (with_reducible first | refine Keeps.opt (by assumption) ?_)
    | dsimp only | intro _

theorem writePt_keeps {z s : State} (n q idx : Nat) (hz : Keeps afresh z s) :
    Keeps afresh z (writePt s n q idx) := by
  unfold writePt
  try dsimp only
  repeat' first
    | (with_reducible first | assumption | apply devWrite_keeps)
    | split
    | (with_reducible first | refine Keeps.snd (by assumption) ?_ | refine Keeps.fst (by assumption) ?_)
    | (with_reducible first | refine Keeps.opt (by assumption) ?_ | apply Keeps.getD)
    | dsimp only | intro _

theorem closeSeq_keeps {z s : State} (n q : Nat) (hz : Keeps afresh z s) :
    Keeps afresh z (closeSeq s n q) := by
  unfold closeSeq
  try dsimp only
  repeat' first
    | (with_reducible first | assumption | apply State.setKv_keeps | apply writePt_keeps)
    | (with_reducible first | apply writeSeqRecord_keeps | (apply Keeps.fold <;> intros))
    | (with_reducible first | (apply Keeps.fold2 <;> intros) | (apply Keeps.fold2' <;> intros))
    | (with_reducible first | (apply Keeps.fold3 <;> intros))
    | split
    | (with_reducible first | refine Keeps.snd (by assumption) ?_ | refine Keeps.fst (by assumption) ?_)
    | (with_reducible first | refine Keeps.opt (by assumption) ?_)
    | dsimp only | intro _

theorem closeSequences_keeps {z s : State} (n slot : Nat) (hz : Keeps afresh z s) :
    Keeps afresh z (closeSequences s n slot) := by
  unfold closeSequences
  try dsimp only
  repeat' first
    | (with_reducible first | assumption | apply closeSeq_keeps | (apply Keeps.fold <;> intros))
    | (with_reducible first | (apply Keeps.fold2 <;> intros) | (apply Keeps.fold2' <;> intros))
    | (with_reducible first | (apply Keeps.fold3 <;> intros))
    | dsimp only | intro _

theorem loseSequences_keeps {z s : State} (n ut id : Nat) (hz : Keeps afresh z s) :
    Keeps afresh z (loseSequences s n ut id) := by
  unfold loseSequences
  try dsimp only
  repeat' first
    | (with_reducible first | assumption | apply State.setKv_keeps | apply writeSeqRecord_keeps)
    | (with_reducible first | apply State.updStream_keeps | apply faultIf_keeps | (apply Keeps.fold <;> intros))
    | (with_reducible first | (apply Keeps.fold2 <;> intros) | (apply Keeps.fold2' <;> intros))
    | (with_reducible first | (apply Keeps.fold3 <;> intros))
    | split
    | (with_reducible first | refine Keeps.snd (by assumption) ?_ | refine Keeps.fst (by assumption) ?_)
    | (with_reducible first | refine Keeps.opt (by assumption) ?_)
    | simp only [keeps_with] | simp only [id_eq] | dsimp only | intro _

theorem kvUnitFenced_keeps {z s : State} (ut id : Nat) (hz : Keeps afresh z s) :
    Keeps afresh z (kvUnitFenced s ut id) := by
  unfold kvUnitFenced
  try dsimp only
  repeat' first
    | (with_reducible first | assumption | apply loseSequences_keeps | apply State.setKv_keeps)
    | (with_reducible first | (apply Keeps.fold <;> intros) | (apply Keeps.fold2 <;> intros))
    | (with_reducible first | (apply Keeps.fold2' <;> intros) | (apply Keeps.fold3 <;> intros))
    | split
    | (with_reducible first | refine Keeps.snd (by assumption) ?_ | refine Keeps.fst (by assumption) ?_)
    | (with_reducible first | refine Keeps.opt (by assumption) ?_ | apply Keeps.getD)
    | simp only [keeps_with] | simp only [id_eq] | dsimp only | intro _

end Sys2Proof.Machine
end

