-- ==== Sys2Proof/Laws/KeepsOps.lean ====
section
/-! SUPPORT. What each operation of Machine/Ops.lean keeps. -/

set_option linter.all false

namespace Sys2Proof.Machine

variable {afresh : Prop}

theorem writeStatus_keeps {z s : State} (n slot state reason items commit : Nat) (hz : Keeps afresh z s) :
    Keeps afresh z (writeStatus s n slot state reason items commit) := by
  unfold writeStatus
  try dsimp only
  repeat' first
    | (with_reducible first | assumption | apply devWrite_keeps)
    | dsimp only | intro _

theorem updReq_keeps {z s : State} (n slot : Nat) (f : ReqSt → ReqSt) (hz : Keeps afresh z s) :
    Keeps afresh z (updReq s n slot f) := by
  unfold updReq
  try dsimp only
  repeat' first
    | (with_reducible first | assumption | apply State.updStream_keeps)
    | split
    | simp only [keeps_with] | dsimp only | intro _

theorem startQuiesce_keeps {z s : State} (hz : Keeps afresh z s) :
    Keeps afresh z (startQuiesce s) := by
  unfold startQuiesce
  try dsimp only
  repeat' first
    | (with_reducible first | assumption)
    | simp only [keeps_with] | dsimp only | intro _

theorem abortGoesOn_keeps {z s : State} (hz : Keeps afresh z s) :
    Keeps afresh z (abortGoesOn s) := by
  unfold abortGoesOn
  try dsimp only
  repeat' first
    | (with_reducible first | assumption | apply startQuiesce_keeps)
    | split
    | (with_reducible first | refine Keeps.snd (by assumption) ?_ | refine Keeps.fst (by assumption) ?_)
    | (with_reducible first | refine Keeps.opt (by assumption) ?_)
    | dsimp only | intro _

theorem endRequest_keeps {z s : State} (n slot state reason : Nat) (hz : Keeps afresh z s) :
    Keeps afresh z (endRequest s n slot state reason) := by
  unfold endRequest
  try dsimp only
  repeat' first
    | (with_reducible first | assumption | apply closeSequences_keeps | apply devWrite_keeps)
    | (with_reducible first | apply writeStatus_keeps | apply abortGoesOn_keeps | apply State.updStream_keeps)
    | split
    | (with_reducible first | refine Keeps.snd (by assumption) ?_ | refine Keeps.fst (by assumption) ?_)
    | (with_reducible first | refine Keeps.opt (by assumption) ?_)
    | simp only [keeps_with] | dsimp only | intro _

theorem failRequest_keeps {z s : State} (n slot reason : Nat) (hz : Keeps afresh z s) :
    Keeps afresh z (failRequest s n slot reason) := by
  unfold failRequest
  try dsimp only
  repeat' first
    | (with_reducible first | assumption | apply endRequest_keeps)
    | dsimp only | intro _

theorem failWhere_keeps {z s : State} (n reason : Nat) (p : ReqSt → Bool) (hz : Keeps afresh z s) :
    Keeps afresh z (failWhere s n reason p) := by
  unfold failWhere
  try dsimp only
  repeat' first
    | (with_reducible first | assumption | apply endRequest_keeps | (apply Keeps.fold <;> intros))
    | (with_reducible first | (apply Keeps.fold2 <;> intros) | (apply Keeps.fold2' <;> intros))
    | (with_reducible first | (apply Keeps.fold3 <;> intros))
    | dsimp only | intro _

theorem stepBoundary_keeps {z s : State} (n slot : Nat) (hz : Keeps afresh z s) :
    Keeps afresh z (stepBoundary s n slot) := by
  unfold stepBoundary
  try dsimp only
  repeat' first
    | (with_reducible first | assumption | apply failRequest_keeps)
    | split
    | (with_reducible first | refine Keeps.snd (by assumption) ?_ | refine Keeps.fst (by assumption) ?_)
    | (with_reducible first | refine Keeps.opt (by assumption) ?_)
    | dsimp only | intro _

theorem stopRequests_keeps {z s : State} (n reason : Nat) (hz : Keeps afresh z s) :
    Keeps afresh z (stopRequests s n reason) := by
  unfold stopRequests
  try dsimp only
  repeat' first
    | (with_reducible first | assumption | apply failWhere_keeps | apply State.updStream_keeps)
    | (with_reducible first | apply Keeps.getD)
    | simp only [keeps_with] | dsimp only | intro _

theorem shedStream_keeps {z s : State} (n : Nat) (hz : Keeps afresh z s) :
    Keeps afresh z (shedStream s n) := by
  unfold shedStream
  try dsimp only
  repeat' first
    | (with_reducible first | assumption | apply State.updStream_keeps | apply logEvent_keeps)
    | (with_reducible first | apply stopRequests_keeps)
    | split
    | simp only [keeps_with] | dsimp only | intro _

theorem stepEnd_keeps {z s : State} (req : Option (Nat × Nat)) (hz : Keeps afresh z s) :
    Keeps afresh z (stepEnd s req) := by
  unfold stepEnd
  try dsimp only
  repeat' first
    | (with_reducible first | assumption | apply stepBoundary_keeps | apply updReq_keeps)
    | split
    | (with_reducible first | refine Keeps.snd (by assumption) ?_ | refine Keeps.fst (by assumption) ?_)
    | (with_reducible first | refine Keeps.opt (by assumption) ?_)
    | simp only [keeps_with] | dsimp only | intro _

theorem drainEnd_keeps {z s : State} (c g : Nat) (hz : Keeps afresh z s) :
    Keeps afresh z (drainEnd s c g) := by
  unfold drainEnd
  try dsimp only
  repeat' first
    | (with_reducible first | assumption | apply State.setGrp_keeps | apply State.updCore_keeps)
    | (with_reducible first | apply stepEnd_keeps)
    | split
    | dsimp only | intro _

theorem endGroup_keeps {z s : State} (c g : Nat) (hz : Keeps afresh z s) :
    Keeps afresh z (endGroup s c g) := by
  unfold endGroup
  try dsimp only
  repeat' first
    | (with_reducible first | assumption | apply State.setGrp_keeps | apply State.updCore_keeps)
    | (with_reducible first | apply drainEnd_keeps)
    | simp only [keeps_with] | dsimp only | intro _

theorem abortBlock_keeps {z s : State} (c g : Nat) (hz : Keeps afresh z s) :
    Keeps afresh z (abortBlock s c g) := by
  unfold abortBlock
  try dsimp only
  repeat' first
    | (with_reducible first | assumption | apply State.updCore_keeps | apply State.setGrp_keeps)
    | (with_reducible first | apply drainEnd_keeps | (apply Keeps.fold <;> intros) | (apply Keeps.fold2 <;> intros))
    | (with_reducible first | (apply Keeps.fold2' <;> intros) | (apply Keeps.fold3 <;> intros))
    | simp only [keeps_with] | dsimp only | intro _

theorem abortBlocksOf_keeps {z s : State} (n slot : Nat) (hz : Keeps afresh z s) :
    Keeps afresh z (abortBlocksOf s n slot) := by
  unfold abortBlocksOf
  try dsimp only
  repeat' first
    | (with_reducible first | assumption | apply abortBlock_keeps | (apply Keeps.fold <;> intros))
    | (with_reducible first | (apply Keeps.fold2 <;> intros) | (apply Keeps.fold2' <;> intros))
    | (with_reducible first | (apply Keeps.fold3 <;> intros))
    | split
    | dsimp only | intro _

theorem endLost_keeps {z s : State} (n slot : Nat) (hz : Keeps afresh z s) :
    Keeps afresh z (endLost s n slot) := by
  unfold endLost
  try dsimp only
  repeat' first
    | (with_reducible first | assumption | apply failRequest_keeps | apply abortBlocksOf_keeps)
    | dsimp only | intro _

theorem abortAs_keeps {z s : State} (c g reason : Nat) (hz : Keeps afresh z s) :
    Keeps afresh z (abortAs s c g reason) := by
  unfold abortAs
  try dsimp only
  repeat' first
    | (with_reducible first | assumption | apply abortBlock_keeps | apply failRequest_keeps)
    | (with_reducible first | apply shedStream_keeps)
    | split
    | (with_reducible first | refine Keeps.snd (by assumption) ?_ | refine Keeps.fst (by assumption) ?_)
    | (with_reducible first | refine Keeps.opt (by assumption) ?_)
    | dsimp only | intro _

theorem takeTrap_keeps {z s : State} (c g code detail lane why : Nat) (hz : Keeps afresh z s) :
    Keeps afresh z (takeTrap s c g code detail lane why) := by
  unfold takeTrap
  try dsimp only
  repeat' first
    | (with_reducible first | assumption | apply State.setGrp_keeps | apply State.updCore_keeps)
    | (with_reducible first | apply logEvent_keeps | apply faultPart_keeps | apply faultEvent_keeps)
    | (with_reducible first | apply State.updGrp_keeps | apply abortAs_keeps | (apply Keeps.fold <;> intros))
    | (with_reducible first | (apply Keeps.fold2 <;> intros) | (apply Keeps.fold2' <;> intros))
    | (with_reducible first | (apply Keeps.fold3 <;> intros))
    | split
    | (with_reducible first | apply Keeps.getD)
    | simp only [keeps_with] | dsimp only | intro _

theorem descTrap_keeps {z s : State} (c g code cause : Nat) (hz : Keeps afresh z s) :
    Keeps afresh z (descTrap s c g code cause) := by
  unfold descTrap
  try dsimp only
  repeat' first
    | (with_reducible first | assumption | apply State.updCore_keeps | apply takeTrap_keeps)
    | simp only [keeps_with] | dsimp only | intro _

theorem fatal_keeps {z s : State} (source code ut uid : Nat) (hz : Keeps afresh z s) :
    Keeps afresh z (fatal s source code ut uid) := by
  unfold fatal
  try dsimp only
  repeat' first
    | (with_reducible first | assumption | apply failWhere_keeps | apply logEvent_keeps)
    | (with_reducible first | (apply Keeps.fold <;> intros) | (apply Keeps.fold2 <;> intros))
    | (with_reducible first | (apply Keeps.fold2' <;> intros) | (apply Keeps.fold3 <;> intros))
    | (with_reducible first | apply Keeps.getD)
    | simp only [keeps_with] | dsimp only | intro _

theorem writeEntry_keeps {z s : State} (entry state status : Nat) (hz : Keeps afresh z s) :
    Keeps afresh z (writeEntry s entry state status) := by
  unfold writeEntry
  try dsimp only
  repeat' first
    | (with_reducible first | assumption | apply State.setEntry_keeps)
    | simp only [keeps_with] | dsimp only | intro _

theorem dropJob_keeps {z s : State} (entry : Nat) (hz : Keeps afresh z s) :
    Keeps afresh z (dropJob s entry) := by
  unfold dropJob
  try dsimp only
  repeat' first
    | (with_reducible first | assumption)
    | simp only [keeps_with] | dsimp only | intro _

theorem endCmd_keeps {z s : State} (entry : Nat) (ok : Bool) (status : Nat) (hz : Keeps afresh z s) :
    Keeps afresh z (endCmd s entry ok status) := by
  unfold endCmd
  try dsimp only
  repeat' first
    | (with_reducible first | assumption | apply dropJob_keeps | apply writeEntry_keeps)
    | split
    | dsimp only | intro _

theorem noteReset_keeps {z s : State} (u : UnitRef) (outcome trigger : Nat) (hz : Keeps afresh z s) :
    Keeps afresh z (noteReset s u outcome trigger) := by
  unfold noteReset
  try dsimp only
  repeat' first
    | (with_reducible first | assumption)
    | simp only [keeps_with] | dsimp only | intro _

theorem endPartial_keeps {z s : State} (p : Partial) (outcome : Nat) (hz : Keeps afresh z s) :
    Keeps afresh z (endPartial s p outcome) := by
  unfold endPartial
  try dsimp only
  repeat' first
    | (with_reducible first | assumption | apply noteReset_keeps | apply endCmd_keeps)
    | split
    | (with_reducible first | refine Keeps.snd (by assumption) ?_ | refine Keeps.fst (by assumption) ?_)
    | (with_reducible first | refine Keeps.opt (by assumption) ?_)
    | simp only [keeps_with] | dsimp only | intro _

theorem replacePartial_keeps {z s : State} (ut id new : Nat) (hz : Keeps afresh z s) :
    Keeps afresh z (replacePartial s ut id new) := by
  unfold replacePartial
  try dsimp only
  repeat' first
    | (with_reducible first | assumption | apply endPartial_keeps)
    | split
    | (with_reducible first | refine Keeps.snd (by assumption) ?_ | refine Keeps.fst (by assumption) ?_)
    | (with_reducible first | refine Keeps.opt (by assumption) ?_)
    | simp only [id_eq] | dsimp only | intro _

theorem orphanReqs_keeps {z s : State} (c : Nat) (hz : Keeps afresh z s) :
    Keeps afresh z (orphanReqs s c) := by
  unfold orphanReqs
  try dsimp only
  repeat' first
    | (with_reducible first | assumption)
    | split
    | (with_reducible first | refine Keeps.snd (by assumption) ?_ | refine Keeps.fst (by assumption) ?_)
    | (with_reducible first | refine Keeps.opt (by assumption) ?_)
    | simp only [keeps_with] | dsimp only | intro _

theorem loseCore_keeps {z s : State} (c reason : Nat) (hz : Keeps afresh z s) :
    Keeps afresh z (loseCore s c reason) := by
  unfold loseCore
  try dsimp only
  repeat' first
    | (with_reducible first | assumption | apply orphanReqs_keeps | apply State.updCore_keeps | apply stepEnd_keeps)
    | (with_reducible first | apply failRequest_keeps | (apply Keeps.fold <;> intros))
    | (with_reducible first | (apply Keeps.fold2 <;> intros) | (apply Keeps.fold2' <;> intros))
    | (with_reducible first | (apply Keeps.fold3 <;> intros))
    | split
    | simp only [keeps_with] | dsimp only | intro _

theorem loseEngine_keeps {z s : State} (n : Nat) (hz : Keeps afresh z s) :
    Keeps afresh z (loseEngine s n) := by
  unfold loseEngine
  try dsimp only
  repeat' first
    | (with_reducible first | assumption | apply State.updEngine_keeps | (apply Keeps.fold <;> intros))
    | (with_reducible first | (apply Keeps.fold2 <;> intros) | (apply Keeps.fold2' <;> intros))
    | (with_reducible first | (apply Keeps.fold3 <;> intros))
    | simp only [keeps_with] | dsimp only | intro _

theorem dropChannel_keeps {z s : State} (lpddr : Bool) (ch : Nat) (hz : Keeps afresh z s) :
    Keeps afresh z (dropChannel s lpddr ch) := by
  unfold dropChannel
  try dsimp only
  repeat' first
    | (with_reducible first | assumption | apply State.updSlice_keeps | apply State.setMc_keeps)
    | (with_reducible first | (apply Keeps.fold <;> intros) | (apply Keeps.fold2 <;> intros))
    | (with_reducible first | (apply Keeps.fold2' <;> intros) | (apply Keeps.fold3 <;> intros))
    | simp only [keeps_with] | dsimp only | intro _

theorem staleVerdicts_keeps {z s : State} (hz : Keeps afresh z s) :
    Keeps afresh z (staleVerdicts s) := by
  unfold staleVerdicts
  try dsimp only
  repeat' first
    | (with_reducible first | assumption)
    | simp only [keeps_with] | dsimp only | intro _

theorem recordChange_keeps {z : State} {s : State} (ut id new reason detail : Nat) (setB : Bool)
    (hn : Inv z → codeOk ut new ∧ Worse (s.unitState ut id) new) (hz : Keeps afresh z s) :
    Keeps afresh z (recordChange s ut id new reason detail setB) := by
  unfold recordChange
  extract_lets f old cur half cur2 gen cur3 d s1 s2
  have hc : cur3.get = cur.get := by
    show cur2.get = cur.get
    funext x y
    unfold cur2 FloorPlan.get
    split <;> first | rfl | (split <;> first | rfl | (split <;> rfl))
  have h2 : Inv z → codesOk f.cur → codesOk cur3 := fun i hf =>
    codesOk_congr (f := cur) hc (codesOk_put hf ut id new (hn i).1)
  have h1 : Keeps afresh z s1 := by
    refine ⟨hz.1, ⟨hz.2.1.1, fun i x y => ?_⟩, fun i => ⟨(hz.2.2 i).1, h2 i (hz.2.2 i).2.1, (hz.2.2 i).2.2⟩⟩
    show Worse _ (cur3.get x y) ∨ (afresh ∧ Worse _ (cur3.get x y))
    have h := hz.2.1.2 i x y
    rw [hc, FloorPlan.get_put]
    split
    · rename_i e
      have w := (hn i).2
      rw [← e.1, ← e.2.1] at w
      exact h.imp (·.trans w) fun h => ⟨h.1, h.2.trans w⟩
    · exact h
  have h3 : Keeps afresh z s2 := staleVerdicts_keeps h1
  split
  · rw [keeps_with]; exact h3
  · exact h3

theorem changeEffects_keeps {z s : State} (ut id new reason : Nat) (hz : Keeps afresh z s) :
    Keeps afresh z (changeEffects s ut id new reason) := by
  unfold changeEffects
  try dsimp only
  repeat' first
    | (with_reducible first | assumption | apply State.updStream_keeps | apply State.setRegion_keeps)
    | (with_reducible first | apply loseCore_keeps | apply kvUnitFenced_keeps | apply loseEngine_keeps)
    | (with_reducible first | apply dropChannel_keeps | (apply Keeps.fold <;> intros))
    | (with_reducible first | (apply Keeps.fold2 <;> intros) | (apply Keeps.fold2' <;> intros))
    | (with_reducible first | (apply Keeps.fold3 <;> intros))
    | split
    | (with_reducible first | refine Keeps.snd (by assumption) ?_ | refine Keeps.fst (by assumption) ?_)
    | (with_reducible first | refine Keeps.opt (by assumption) ?_)
    | simp only [keeps_with] | simp only [id_eq] | dsimp only | intro _

theorem oneChange_keeps {z : State} {s : State} (ut id new reason detail : Nat) (setB joined : Bool)
    (hn : Inv z → codeOk ut new ∧ Worse (s.unitState ut id) new) (hz : Keeps afresh z s) :
    Keeps afresh z (oneChange s ut id new reason detail setB joined) := by
  unfold oneChange
  dsimp only
  with_reducible apply changeEffects_keeps
  with_reducible apply replacePartial_keeps
  split
  · exact logEvent_keeps _ (recordChange_keeps _ _ _ _ _ _ hn hz)
  · exact faultEvent_keeps _ (recordChange_keeps _ _ _ _ _ _ hn hz)

theorem movesTo_ok {ut old new : Nat} (h : codeOk ut new) (k : codeOk ut old) (l : old < movesTo ut old new) :
    codeOk ut (movesTo ut old new) ∧ Worse old (movesTo ut old new) := by
  unfold movesTo at *
  by_cases c : ut = 3 ∧ ((old = 1 ∧ new = 2) ∨ (old = 2 ∧ new = 1))
  · rw [if_pos c]; exact ⟨.inr (.inl rfl), .inr (.inr rfl)⟩
  · rw [if_neg c] at l ⊢
    refine ⟨h, ?_⟩
    unfold codeOk Worse at *
    omega

theorem floorChange_keeps {z : State} {s : State} (ut id new reason detail : Nat) (setB joined : Bool)
    (hz : Keeps afresh z s) (hn : Inv z → codeOk ut new) : Keeps afresh z (floorChange s ut id new reason detail setB joined) := by
  unfold floorChange
  dsimp only
  split
  · exact hz
  rename_i hl
  have hm := fun i => movesTo_ok (hn i) ((hz.2.2 i).2.1 ut id) (Nat.lt_of_not_le hl)
  change Inv z → codeOk ut (movesTo ut (s.unitState ut id) new) ∧ Worse (s.unitState ut id) (movesTo ut (s.unitState ut id) new) at hm
  generalize movesTo ut (s.unitState ut id) new = n at hm
  split
  · refine ⟨hz.1, hz.2.1, fun i => ⟨(hz.2.2 i).1, (hz.2.2 i).2.1, (hz.2.2 i).2.2.1, fun d hd => ?_⟩⟩
    rcases List.mem_append.1 hd with hd | hd
    · exact (hz.2.2 i).2.2.2 d hd
    · cases List.mem_singleton.1 hd; exact (hm i).1
  split
  · exact oneChange_keeps _ _ _ _ _ _ _ (fun _ => ⟨.inr (.inl rfl), .inr (.inr rfl)⟩) (oneChange_keeps _ _ _ _ _ _ _ hm hz)
  · exact oneChange_keeps _ _ _ _ _ _ _ hm hz

theorem fenceCluster_keeps {z s : State} (cl reason detail : Nat) (hz : Keeps afresh z s) :
    Keeps afresh z (fenceCluster s cl reason detail) := by
  unfold fenceCluster
  try dsimp only
  repeat' first
    | (with_reducible first | assumption | apply floorChange_keeps | (apply Keeps.fold <;> intros))
    | (with_reducible first | (apply Keeps.fold2 <;> intros) | (apply Keeps.fold2' <;> intros))
    | (with_reducible first | (apply Keeps.fold3 <;> intros))
    | (intro _; unfold codeOk; omega) | (unfold codeOk; omega) | dsimp only | intro _

theorem startSliceFence_keeps {z s : State} (n reason detail : Nat) (hz : Keeps afresh z s) :
    Keeps afresh z (startSliceFence s n reason detail) := by
  unfold startSliceFence
  try dsimp only
  repeat' first
    | (with_reducible first | assumption | apply State.updSlice_keeps)
    | split
    | simp only [keeps_with] | dsimp only | intro _

theorem fenceUnit_keeps {z s : State} (ut id reason detail : Nat) (hz : Keeps afresh z s) :
    Keeps afresh z (fenceUnit s ut id reason detail) := by
  unfold fenceUnit
  try dsimp only
  repeat' first
    | (with_reducible first | assumption | apply fenceCluster_keeps | apply startSliceFence_keeps)
    | (with_reducible first | apply floorChange_keeps)
    | split
    | (with_reducible first | refine Keeps.snd (by assumption) ?_ | refine Keeps.fst (by assumption) ?_)
    | (with_reducible first | refine Keeps.opt (by assumption) ?_)
    | (intro _; unfold codeOk; omega) | (unfold codeOk; omega) | simp only [id_eq] | dsimp only | intro _

end Sys2Proof.Machine
end

