-- ==== Sys2Proof/Laws/KeepsFlags.lean ====
section
/-! SUPPORT. What each operation of Machine/Flags.lean keeps. -/

set_option linter.all false

namespace Sys2Proof.Machine

variable {afresh : Prop}

theorem orFlags_keeps {z s : State} (c fl : Nat) (hz : Keeps afresh z s) :
    Keeps afresh z (orFlags s c fl) := by
  unfold orFlags
  try dsimp only
  repeat' first
    | (with_reducible first | assumption | apply State.updCore_keeps)
    | split
    | simp only [keeps_with] | dsimp only | intro _

theorem tokenDone_keeps {z s : State} (c g k fl : Nat) (err : Bool) (why : Nat) (hz : Keeps afresh z s) :
    Keeps afresh z (tokenDone s c g k fl err why) := by
  unfold tokenDone
  try dsimp only
  repeat' first
    | (with_reducible first | assumption | apply State.updGrp_keeps | apply drainEnd_keeps)
    | dsimp only | intro _

end Sys2Proof.Machine
end

