-- ==== Sys2Proof/Laws/KeepsIssue.lean ====
section
/-! SUPPORT. What each operation of Machine/Issue.lean keeps. -/

set_option linter.all false

namespace Sys2Proof.Machine

variable {afresh : Prop}

theorem coreCorrection_keeps {z s : State} (c : Nat) (hz : Keeps afresh z s) :
    Keeps afresh z (coreCorrection s c) := by
  unfold coreCorrection
  try dsimp only
  repeat' first
    | (with_reducible first | assumption | apply correction_keeps | apply State.updCore_keeps)
    | simp only [keeps_with] | dsimp only | intro _

theorem noteRow_keeps {z s : State} (c kind row : Nat) (hz : Keeps afresh z s) :
    Keeps afresh z (noteRow s c kind row) := by
  unfold noteRow
  try dsimp only
  repeat' first
    | (with_reducible first | assumption | apply State.updCore_keeps)
    | split
    | simp only [keeps_with] | dsimp only | intro _

theorem regEcc_keeps {z s : State} (c g : Nat) (e : Ecc) (hz : Keeps afresh z s) :
    Keeps afresh z (regEcc s c g e) := by
  unfold regEcc
  try dsimp only
  repeat' first
    | (with_reducible first | assumption | apply noteRow_keeps | apply coreCorrection_keeps)
    | split
    | (with_reducible first | refine Keeps.snd (by assumption) ?_ | refine Keeps.fst (by assumption) ?_)
    | (with_reducible first | refine Keeps.opt (by assumption) ?_)
    | dsimp only | intro _

theorem lmEcc_keeps {z s : State} (c : Nat) (e : Ecc) (hz : Keeps afresh z s) :
    Keeps afresh z (lmEcc s c e) := by
  unfold lmEcc
  try dsimp only
  repeat' first
    | (with_reducible first | assumption | apply noteRow_keeps | apply coreCorrection_keeps)
    | split
    | (with_reducible first | refine Keeps.snd (by assumption) ?_ | refine Keeps.fst (by assumption) ?_)
    | (with_reducible first | refine Keeps.opt (by assumption) ?_)
    | dsimp only | intro _

/-- An issue attempt ends in a kept state or goes on with one. -/
def KeepsIssued (afresh : Prop) (z : State) : Issued → Prop
  | .stop t => Keeps afresh z t
  | .go t _ => Keeps afresh z t

theorem KeepsIssued.stop {z t : State} (h : Keeps afresh z t) : KeepsIssued afresh z (.stop t) := h
theorem KeepsIssued.go {z t : State} {w : Nat} (h : Keeps afresh z t) : KeepsIssued afresh z (.go t w) := h

theorem issue_keeps {z s : State} (c g : Nat) (want : Option Nat) (ecc : Ecc) (hz : Keeps afresh z s) :
    KeepsIssued afresh z (issue s c g want ecc) := by
  unfold issue
  dsimp only
  repeat' first
    | with_reducible assumption
    | with_reducible apply KeepsIssued.stop
    | with_reducible apply KeepsIssued.go
    | with_reducible apply takeTrap_keeps
    | with_reducible apply regEcc_keeps
    | with_reducible apply State.setGrp_keeps
    | split

theorem endStep_keeps {z s : State} (stepped : Bool) (c g : Nat) (hz : Keeps afresh z s) :
    Keeps afresh z (endStep stepped s c g) := by
  unfold endStep
  try dsimp only
  repeat' first
    | (with_reducible first | assumption | apply State.updGrp_keeps)
    | split
    | simp only [keeps_with] | dsimp only | intro _

theorem finishIssue_keeps {z s : State} (c g : Nat) (ecc : Ecc) (f : Body) {r : Issued}
    (hf : ∀ t w, Keeps afresh z t → Keeps afresh z (f t c g w ecc)) (h : KeepsIssued afresh z r) : Keeps afresh z (finishIssue s c g ecc f r) := by
  unfold finishIssue
  split
  · split
    · exact h
    · exact endStep_keeps _ _ _ h
  · exact endStep_keeps _ _ _ (hf _ _ h)

theorem issueAs_keeps {z s : State} (op : Nat) (c : Fin 272) (g : Fin 16) (ecc : Ecc) (f : Body)
    (hf : ∀ t w, Keeps afresh z t → Keeps afresh z (f t c g w ecc)) (hz : Keeps afresh z s) : Keeps afresh z (issueAs op c g ecc s f) :=
  finishIssue_keeps _ _ _ _ hf (issue_keeps _ _ _ _ hz)

theorem stallRetry_keeps {z s : State} (c g : Nat) (hz : Keeps afresh z s) :
    Keeps afresh z (stallRetry s c g) := by
  unfold stallRetry
  try dsimp only
  repeat' first
    | (with_reducible first | assumption | apply State.updGrp_keeps)
    | simp only [keeps_with] | dsimp only | intro _

theorem execInstructionFetch_keeps {z s : State} (c : Fin 272) (g : Fin 16) (hz : Keeps afresh z s) :
    KeepsOut afresh z (execInstructionFetch c g s) := by
  unfold execInstructionFetch
  try dsimp only
  repeat' first
    | (with_reducible first | assumption | apply State.setGrp_keeps | apply takeTrap_keeps | apply KeepsOut.next)
    | split
    | dsimp only | intro _

end Sys2Proof.Machine
end

