-- ==== Sys2Proof/Laws/KeepsAlu.lean ====
section
/-! SUPPORT. What each operation of Machine/Alu.lean keeps. -/

set_option linter.all false

namespace Sys2Proof.Machine

variable {afresh : Prop}

theorem aluBody_keeps (f : Nat → Nat → Nat → Nat → Nat) {z s : State} (c g w : Nat) (e : Ecc) (hz : Keeps afresh z s) : Keeps afresh z (aluBody f s c g w e) := by
  unfold aluBody
  try dsimp only
  repeat' first
    | (with_reducible first | assumption | apply State.updGrp_keeps)
    | dsimp only | intro _

theorem bodyIadd_keeps {z s : State} (c g w : Nat) (e : Ecc) (hz : Keeps afresh z s) : Keeps afresh z (bodyIadd s c g w e) := by
  unfold bodyIadd
  try dsimp only
  repeat' first
    | (with_reducible first | assumption | apply aluBody_keeps)
    | dsimp only | intro _

theorem execIadd_keeps {z s : State} (c : Fin 272) (g : Fin 16) (ecc : Ecc) (hz : Keeps afresh z s) :
    KeepsOut afresh z (execIadd c g ecc s) := by
  unfold execIadd
  try dsimp only
  repeat' first
    | (with_reducible first | assumption | apply issueAs_keeps | apply bodyIadd_keeps | apply KeepsOut.next)
    | (with_reducible first | (apply issueAs_keeps <;> intros))
    | dsimp only | intro _

theorem bodyIsub_keeps {z s : State} (c g w : Nat) (e : Ecc) (hz : Keeps afresh z s) : Keeps afresh z (bodyIsub s c g w e) := by
  unfold bodyIsub
  try dsimp only
  repeat' first
    | (with_reducible first | assumption | apply aluBody_keeps)
    | dsimp only | intro _

theorem execIsub_keeps {z s : State} (c : Fin 272) (g : Fin 16) (ecc : Ecc) (hz : Keeps afresh z s) :
    KeepsOut afresh z (execIsub c g ecc s) := by
  unfold execIsub
  try dsimp only
  repeat' first
    | (with_reducible first | assumption | apply issueAs_keeps | apply bodyIsub_keeps | apply KeepsOut.next)
    | (with_reducible first | (apply issueAs_keeps <;> intros))
    | dsimp only | intro _

theorem bodyImul_keeps {z s : State} (c g w : Nat) (e : Ecc) (hz : Keeps afresh z s) : Keeps afresh z (bodyImul s c g w e) := by
  unfold bodyImul
  try dsimp only
  repeat' first
    | (with_reducible first | assumption | apply aluBody_keeps)
    | dsimp only | intro _

theorem execImul_keeps {z s : State} (c : Fin 272) (g : Fin 16) (ecc : Ecc) (hz : Keeps afresh z s) :
    KeepsOut afresh z (execImul c g ecc s) := by
  unfold execImul
  try dsimp only
  repeat' first
    | (with_reducible first | assumption | apply issueAs_keeps | apply bodyImul_keeps | apply KeepsOut.next)
    | (with_reducible first | (apply issueAs_keeps <;> intros))
    | dsimp only | intro _

theorem bodyImulhiU_keeps {z s : State} (c g w : Nat) (e : Ecc) (hz : Keeps afresh z s) : Keeps afresh z (bodyImulhiU s c g w e) := by
  unfold bodyImulhiU
  try dsimp only
  repeat' first
    | (with_reducible first | assumption | apply aluBody_keeps)
    | dsimp only | intro _

theorem execImulhiU_keeps {z s : State} (c : Fin 272) (g : Fin 16) (ecc : Ecc) (hz : Keeps afresh z s) :
    KeepsOut afresh z (execImulhiU c g ecc s) := by
  unfold execImulhiU
  try dsimp only
  repeat' first
    | (with_reducible first | assumption | apply issueAs_keeps | apply bodyImulhiU_keeps | apply KeepsOut.next)
    | (with_reducible first | (apply issueAs_keeps <;> intros))
    | dsimp only | intro _

theorem bodyImulhiS_keeps {z s : State} (c g w : Nat) (e : Ecc) (hz : Keeps afresh z s) : Keeps afresh z (bodyImulhiS s c g w e) := by
  unfold bodyImulhiS
  try dsimp only
  repeat' first
    | (with_reducible first | assumption | apply aluBody_keeps)
    | dsimp only | intro _

theorem execImulhiS_keeps {z s : State} (c : Fin 272) (g : Fin 16) (ecc : Ecc) (hz : Keeps afresh z s) :
    KeepsOut afresh z (execImulhiS c g ecc s) := by
  unfold execImulhiS
  try dsimp only
  repeat' first
    | (with_reducible first | assumption | apply issueAs_keeps | apply bodyImulhiS_keeps | apply KeepsOut.next)
    | (with_reducible first | (apply issueAs_keeps <;> intros))
    | dsimp only | intro _

theorem bodyAnd_keeps {z s : State} (c g w : Nat) (e : Ecc) (hz : Keeps afresh z s) : Keeps afresh z (bodyAnd s c g w e) := by
  unfold bodyAnd
  try dsimp only
  repeat' first
    | (with_reducible first | assumption | apply aluBody_keeps)
    | dsimp only | intro _

theorem execAnd_keeps {z s : State} (c : Fin 272) (g : Fin 16) (ecc : Ecc) (hz : Keeps afresh z s) :
    KeepsOut afresh z (execAnd c g ecc s) := by
  unfold execAnd
  try dsimp only
  repeat' first
    | (with_reducible first | assumption | apply issueAs_keeps | apply bodyAnd_keeps | apply KeepsOut.next)
    | (with_reducible first | (apply issueAs_keeps <;> intros))
    | dsimp only | intro _

theorem bodyOr_keeps {z s : State} (c g w : Nat) (e : Ecc) (hz : Keeps afresh z s) : Keeps afresh z (bodyOr s c g w e) := by
  unfold bodyOr
  try dsimp only
  repeat' first
    | (with_reducible first | assumption | apply aluBody_keeps)
    | dsimp only | intro _

theorem execOr_keeps {z s : State} (c : Fin 272) (g : Fin 16) (ecc : Ecc) (hz : Keeps afresh z s) :
    KeepsOut afresh z (execOr c g ecc s) := by
  unfold execOr
  try dsimp only
  repeat' first
    | (with_reducible first | assumption | apply issueAs_keeps | apply bodyOr_keeps | apply KeepsOut.next)
    | (with_reducible first | (apply issueAs_keeps <;> intros))
    | dsimp only | intro _

theorem bodyXor_keeps {z s : State} (c g w : Nat) (e : Ecc) (hz : Keeps afresh z s) : Keeps afresh z (bodyXor s c g w e) := by
  unfold bodyXor
  try dsimp only
  repeat' first
    | (with_reducible first | assumption | apply aluBody_keeps)
    | dsimp only | intro _

theorem execXor_keeps {z s : State} (c : Fin 272) (g : Fin 16) (ecc : Ecc) (hz : Keeps afresh z s) :
    KeepsOut afresh z (execXor c g ecc s) := by
  unfold execXor
  try dsimp only
  repeat' first
    | (with_reducible first | assumption | apply issueAs_keeps | apply bodyXor_keeps | apply KeepsOut.next)
    | (with_reducible first | (apply issueAs_keeps <;> intros))
    | dsimp only | intro _

theorem bodyShl_keeps {z s : State} (c g w : Nat) (e : Ecc) (hz : Keeps afresh z s) : Keeps afresh z (bodyShl s c g w e) := by
  unfold bodyShl
  try dsimp only
  repeat' first
    | (with_reducible first | assumption | apply aluBody_keeps)
    | dsimp only | intro _

theorem execShl_keeps {z s : State} (c : Fin 272) (g : Fin 16) (ecc : Ecc) (hz : Keeps afresh z s) :
    KeepsOut afresh z (execShl c g ecc s) := by
  unfold execShl
  try dsimp only
  repeat' first
    | (with_reducible first | assumption | apply issueAs_keeps | apply bodyShl_keeps | apply KeepsOut.next)
    | (with_reducible first | (apply issueAs_keeps <;> intros))
    | dsimp only | intro _

theorem bodyShr_keeps {z s : State} (c g w : Nat) (e : Ecc) (hz : Keeps afresh z s) : Keeps afresh z (bodyShr s c g w e) := by
  unfold bodyShr
  try dsimp only
  repeat' first
    | (with_reducible first | assumption | apply aluBody_keeps)
    | dsimp only | intro _

theorem execShr_keeps {z s : State} (c : Fin 272) (g : Fin 16) (ecc : Ecc) (hz : Keeps afresh z s) :
    KeepsOut afresh z (execShr c g ecc s) := by
  unfold execShr
  try dsimp only
  repeat' first
    | (with_reducible first | assumption | apply issueAs_keeps | apply bodyShr_keeps | apply KeepsOut.next)
    | (with_reducible first | (apply issueAs_keeps <;> intros))
    | dsimp only | intro _

theorem bodySar_keeps {z s : State} (c g w : Nat) (e : Ecc) (hz : Keeps afresh z s) : Keeps afresh z (bodySar s c g w e) := by
  unfold bodySar
  try dsimp only
  repeat' first
    | (with_reducible first | assumption | apply aluBody_keeps)
    | dsimp only | intro _

theorem execSar_keeps {z s : State} (c : Fin 272) (g : Fin 16) (ecc : Ecc) (hz : Keeps afresh z s) :
    KeepsOut afresh z (execSar c g ecc s) := by
  unfold execSar
  try dsimp only
  repeat' first
    | (with_reducible first | assumption | apply issueAs_keeps | apply bodySar_keeps | apply KeepsOut.next)
    | (with_reducible first | (apply issueAs_keeps <;> intros))
    | dsimp only | intro _

theorem bodyIminS_keeps {z s : State} (c g w : Nat) (e : Ecc) (hz : Keeps afresh z s) : Keeps afresh z (bodyIminS s c g w e) := by
  unfold bodyIminS
  try dsimp only
  repeat' first
    | (with_reducible first | assumption | apply aluBody_keeps)
    | dsimp only | intro _

theorem execIminS_keeps {z s : State} (c : Fin 272) (g : Fin 16) (ecc : Ecc) (hz : Keeps afresh z s) :
    KeepsOut afresh z (execIminS c g ecc s) := by
  unfold execIminS
  try dsimp only
  repeat' first
    | (with_reducible first | assumption | apply issueAs_keeps | apply bodyIminS_keeps | apply KeepsOut.next)
    | (with_reducible first | (apply issueAs_keeps <;> intros))
    | dsimp only | intro _

theorem bodyImaxS_keeps {z s : State} (c g w : Nat) (e : Ecc) (hz : Keeps afresh z s) : Keeps afresh z (bodyImaxS s c g w e) := by
  unfold bodyImaxS
  try dsimp only
  repeat' first
    | (with_reducible first | assumption | apply aluBody_keeps)
    | dsimp only | intro _

theorem execImaxS_keeps {z s : State} (c : Fin 272) (g : Fin 16) (ecc : Ecc) (hz : Keeps afresh z s) :
    KeepsOut afresh z (execImaxS c g ecc s) := by
  unfold execImaxS
  try dsimp only
  repeat' first
    | (with_reducible first | assumption | apply issueAs_keeps | apply bodyImaxS_keeps | apply KeepsOut.next)
    | (with_reducible first | (apply issueAs_keeps <;> intros))
    | dsimp only | intro _

theorem bodyIminU_keeps {z s : State} (c g w : Nat) (e : Ecc) (hz : Keeps afresh z s) : Keeps afresh z (bodyIminU s c g w e) := by
  unfold bodyIminU
  try dsimp only
  repeat' first
    | (with_reducible first | assumption | apply aluBody_keeps)
    | dsimp only | intro _

theorem execIminU_keeps {z s : State} (c : Fin 272) (g : Fin 16) (ecc : Ecc) (hz : Keeps afresh z s) :
    KeepsOut afresh z (execIminU c g ecc s) := by
  unfold execIminU
  try dsimp only
  repeat' first
    | (with_reducible first | assumption | apply issueAs_keeps | apply bodyIminU_keeps | apply KeepsOut.next)
    | (with_reducible first | (apply issueAs_keeps <;> intros))
    | dsimp only | intro _

theorem bodyImaxU_keeps {z s : State} (c g w : Nat) (e : Ecc) (hz : Keeps afresh z s) : Keeps afresh z (bodyImaxU s c g w e) := by
  unfold bodyImaxU
  try dsimp only
  repeat' first
    | (with_reducible first | assumption | apply aluBody_keeps)
    | dsimp only | intro _

theorem execImaxU_keeps {z s : State} (c : Fin 272) (g : Fin 16) (ecc : Ecc) (hz : Keeps afresh z s) :
    KeepsOut afresh z (execImaxU c g ecc s) := by
  unfold execImaxU
  try dsimp only
  repeat' first
    | (with_reducible first | assumption | apply issueAs_keeps | apply bodyImaxU_keeps | apply KeepsOut.next)
    | (with_reducible first | (apply issueAs_keeps <;> intros))
    | dsimp only | intro _

theorem bodyIsetp_keeps {z s : State} (c g w : Nat) (e : Ecc) (hz : Keeps afresh z s) : Keeps afresh z (bodyIsetp s c g w e) := by
  unfold bodyIsetp
  try dsimp only
  repeat' first
    | (with_reducible first | assumption | apply aluBody_keeps)
    | dsimp only | intro _

theorem execIsetp_keeps {z s : State} (c : Fin 272) (g : Fin 16) (ecc : Ecc) (hz : Keeps afresh z s) :
    KeepsOut afresh z (execIsetp c g ecc s) := by
  unfold execIsetp
  try dsimp only
  repeat' first
    | (with_reducible first | assumption | apply issueAs_keeps | apply bodyIsetp_keeps | apply KeepsOut.next)
    | (with_reducible first | (apply issueAs_keeps <;> intros))
    | dsimp only | intro _

theorem bodySel_keeps {z s : State} (c g w : Nat) (e : Ecc) (hz : Keeps afresh z s) : Keeps afresh z (bodySel s c g w e) := by
  unfold bodySel
  try dsimp only
  repeat' first
    | (with_reducible first | assumption | apply aluBody_keeps)
    | split
    | dsimp only | intro _

theorem execSel_keeps {z s : State} (c : Fin 272) (g : Fin 16) (ecc : Ecc) (hz : Keeps afresh z s) :
    KeepsOut afresh z (execSel c g ecc s) := by
  unfold execSel
  try dsimp only
  repeat' first
    | (with_reducible first | assumption | apply issueAs_keeps | apply bodySel_keeps | apply KeepsOut.next)
    | (with_reducible first | (apply issueAs_keeps <;> intros))
    | dsimp only | intro _

theorem bodyMov_keeps {z s : State} (c g w : Nat) (e : Ecc) (hz : Keeps afresh z s) : Keeps afresh z (bodyMov s c g w e) := by
  unfold bodyMov
  try dsimp only
  repeat' first
    | (with_reducible first | assumption | apply aluBody_keeps)
    | dsimp only | intro _

theorem execMov_keeps {z s : State} (c : Fin 272) (g : Fin 16) (ecc : Ecc) (hz : Keeps afresh z s) :
    KeepsOut afresh z (execMov c g ecc s) := by
  unfold execMov
  try dsimp only
  repeat' first
    | (with_reducible first | assumption | apply issueAs_keeps | apply bodyMov_keeps | apply KeepsOut.next)
    | (with_reducible first | (apply issueAs_keeps <;> intros))
    | dsimp only | intro _

theorem bodyFadd_keeps {z s : State} (c g w : Nat) (e : Ecc) (hz : Keeps afresh z s) : Keeps afresh z (bodyFadd s c g w e) := by
  unfold bodyFadd
  try dsimp only
  repeat' first
    | (with_reducible first | assumption | apply aluBody_keeps)
    | dsimp only | intro _

theorem execFadd_keeps {z s : State} (c : Fin 272) (g : Fin 16) (ecc : Ecc) (hz : Keeps afresh z s) :
    KeepsOut afresh z (execFadd c g ecc s) := by
  unfold execFadd
  try dsimp only
  repeat' first
    | (with_reducible first | assumption | apply issueAs_keeps | apply bodyFadd_keeps | apply KeepsOut.next)
    | (with_reducible first | (apply issueAs_keeps <;> intros))
    | dsimp only | intro _

theorem bodyFsub_keeps {z s : State} (c g w : Nat) (e : Ecc) (hz : Keeps afresh z s) : Keeps afresh z (bodyFsub s c g w e) := by
  unfold bodyFsub
  try dsimp only
  repeat' first
    | (with_reducible first | assumption | apply aluBody_keeps)
    | dsimp only | intro _

theorem execFsub_keeps {z s : State} (c : Fin 272) (g : Fin 16) (ecc : Ecc) (hz : Keeps afresh z s) :
    KeepsOut afresh z (execFsub c g ecc s) := by
  unfold execFsub
  try dsimp only
  repeat' first
    | (with_reducible first | assumption | apply issueAs_keeps | apply bodyFsub_keeps | apply KeepsOut.next)
    | (with_reducible first | (apply issueAs_keeps <;> intros))
    | dsimp only | intro _

theorem bodyFmul_keeps {z s : State} (c g w : Nat) (e : Ecc) (hz : Keeps afresh z s) : Keeps afresh z (bodyFmul s c g w e) := by
  unfold bodyFmul
  try dsimp only
  repeat' first
    | (with_reducible first | assumption | apply aluBody_keeps)
    | dsimp only | intro _

theorem execFmul_keeps {z s : State} (c : Fin 272) (g : Fin 16) (ecc : Ecc) (hz : Keeps afresh z s) :
    KeepsOut afresh z (execFmul c g ecc s) := by
  unfold execFmul
  try dsimp only
  repeat' first
    | (with_reducible first | assumption | apply issueAs_keeps | apply bodyFmul_keeps | apply KeepsOut.next)
    | (with_reducible first | (apply issueAs_keeps <;> intros))
    | dsimp only | intro _

theorem bodyFfma_keeps {z s : State} (c g w : Nat) (e : Ecc) (hz : Keeps afresh z s) : Keeps afresh z (bodyFfma s c g w e) := by
  unfold bodyFfma
  try dsimp only
  repeat' first
    | (with_reducible first | assumption | apply aluBody_keeps)
    | dsimp only | intro _

theorem execFfma_keeps {z s : State} (c : Fin 272) (g : Fin 16) (ecc : Ecc) (hz : Keeps afresh z s) :
    KeepsOut afresh z (execFfma c g ecc s) := by
  unfold execFfma
  try dsimp only
  repeat' first
    | (with_reducible first | assumption | apply issueAs_keeps | apply bodyFfma_keeps | apply KeepsOut.next)
    | (with_reducible first | (apply issueAs_keeps <;> intros))
    | dsimp only | intro _

theorem bodyFmin_keeps {z s : State} (c g w : Nat) (e : Ecc) (hz : Keeps afresh z s) : Keeps afresh z (bodyFmin s c g w e) := by
  unfold bodyFmin
  try dsimp only
  repeat' first
    | (with_reducible first | assumption | apply aluBody_keeps)
    | dsimp only | intro _

theorem execFmin_keeps {z s : State} (c : Fin 272) (g : Fin 16) (ecc : Ecc) (hz : Keeps afresh z s) :
    KeepsOut afresh z (execFmin c g ecc s) := by
  unfold execFmin
  try dsimp only
  repeat' first
    | (with_reducible first | assumption | apply issueAs_keeps | apply bodyFmin_keeps | apply KeepsOut.next)
    | (with_reducible first | (apply issueAs_keeps <;> intros))
    | dsimp only | intro _

theorem bodyFmax_keeps {z s : State} (c g w : Nat) (e : Ecc) (hz : Keeps afresh z s) : Keeps afresh z (bodyFmax s c g w e) := by
  unfold bodyFmax
  try dsimp only
  repeat' first
    | (with_reducible first | assumption | apply aluBody_keeps)
    | dsimp only | intro _

theorem execFmax_keeps {z s : State} (c : Fin 272) (g : Fin 16) (ecc : Ecc) (hz : Keeps afresh z s) :
    KeepsOut afresh z (execFmax c g ecc s) := by
  unfold execFmax
  try dsimp only
  repeat' first
    | (with_reducible first | assumption | apply issueAs_keeps | apply bodyFmax_keeps | apply KeepsOut.next)
    | (with_reducible first | (apply issueAs_keeps <;> intros))
    | dsimp only | intro _

theorem bodyFsetp_keeps {z s : State} (c g w : Nat) (e : Ecc) (hz : Keeps afresh z s) : Keeps afresh z (bodyFsetp s c g w e) := by
  unfold bodyFsetp
  try dsimp only
  repeat' first
    | (with_reducible first | assumption | apply aluBody_keeps)
    | dsimp only | intro _

theorem execFsetp_keeps {z s : State} (c : Fin 272) (g : Fin 16) (ecc : Ecc) (hz : Keeps afresh z s) :
    KeepsOut afresh z (execFsetp c g ecc s) := by
  unfold execFsetp
  try dsimp only
  repeat' first
    | (with_reducible first | assumption | apply issueAs_keeps | apply bodyFsetp_keeps | apply KeepsOut.next)
    | (with_reducible first | (apply issueAs_keeps <;> intros))
    | dsimp only | intro _

theorem bodyCvt_keeps {z s : State} (c g w : Nat) (e : Ecc) (hz : Keeps afresh z s) : Keeps afresh z (bodyCvt s c g w e) := by
  unfold bodyCvt
  try dsimp only
  repeat' first
    | (with_reducible first | assumption | apply orFlags_keeps | apply State.setGrp_keeps)
    | (with_reducible first | (apply Keeps.fold <;> intros) | (apply Keeps.fold2 <;> intros))
    | (with_reducible first | (apply Keeps.fold2' <;> intros) | (apply Keeps.fold3 <;> intros))
    | split
    | dsimp only | intro _

theorem execCvt_keeps {z s : State} (c : Fin 272) (g : Fin 16) (ecc : Ecc) (hz : Keeps afresh z s) :
    KeepsOut afresh z (execCvt c g ecc s) := by
  unfold execCvt
  try dsimp only
  repeat' first
    | (with_reducible first | assumption | apply issueAs_keeps | apply bodyCvt_keeps | apply KeepsOut.next)
    | (with_reducible first | (apply issueAs_keeps <;> intros))
    | dsimp only | intro _

theorem bodyCvtScale_keeps {z s : State} (c g w : Nat) (e : Ecc) (hz : Keeps afresh z s) : Keeps afresh z (bodyCvtScale s c g w e) := by
  unfold bodyCvtScale
  try dsimp only
  repeat' first
    | (with_reducible first | assumption | apply aluBody_keeps)
    | dsimp only | intro _

theorem execCvtScale_keeps {z s : State} (c : Fin 272) (g : Fin 16) (ecc : Ecc) (hz : Keeps afresh z s) :
    KeepsOut afresh z (execCvtScale c g ecc s) := by
  unfold execCvtScale
  try dsimp only
  repeat' first
    | (with_reducible first | assumption | apply issueAs_keeps | apply bodyCvtScale_keeps | apply KeepsOut.next)
    | (with_reducible first | (apply issueAs_keeps <;> intros))
    | dsimp only | intro _

end Sys2Proof.Machine
end

