-- ==== Sys2Proof/Laws/KeepsDesc.lean ====
section
/-! SUPPORT. What each operation of Machine/Desc.lean keeps. -/

set_option linter.all false

namespace Sys2Proof.Machine

variable {afresh : Prop}

theorem landLm_keeps {z s : State} (c : Nat) (seen : List (Nat × Byte)) (ws : List (Nat × List Byte)) (hz : Keeps afresh z s) :
    Keeps afresh z (landLm s c seen ws) := by
  unfold landLm
  try dsimp only
  repeat' first
    | (with_reducible first | assumption | apply State.storeLm_keeps)
    | simp only [keeps_with] | dsimp only | intro _

end Sys2Proof.Machine
end

