-- ==== Sys2Proof/Laws/KeepsShare.lean ====
section
/-! SUPPORT. What each operation of Machine/Share.lean keeps. -/

set_option linter.all false

namespace Sys2Proof.Machine

variable {afresh : Prop}

theorem copyRange_keeps {z s : State} (cls src dst n : Nat) (hz : Keeps afresh z s) :
    Keeps afresh z (copyRange s cls src dst n) := by
  unfold copyRange
  try dsimp only
  repeat' first
    | (with_reducible first | assumption | apply devRead_keeps | apply snoopRead_keeps | apply devWrite_keeps)
    | (with_reducible first | (apply Keeps.fold <;> intros) | (apply Keeps.fold2 <;> intros))
    | (with_reducible first | (apply Keeps.fold2' <;> intros) | (apply Keeps.fold3 <;> intros))
    | split
    | (with_reducible first | refine Keeps.snd (by assumption) ?_ | refine Keeps.fst (by assumption) ?_)
    | (with_reducible first | refine Keeps.opt (by assumption) ?_)
    | dsimp only | intro _

theorem copyShare_keeps {z s : State} (cls : Nat) (sh : Share) (hz : Keeps afresh z s) :
    Keeps afresh z (copyShare s cls sh) := by
  unfold copyShare
  try dsimp only
  repeat' first
    | (with_reducible first | assumption | apply copyRange_keeps | (apply Keeps.fold <;> intros))
    | (with_reducible first | (apply Keeps.fold2 <;> intros) | (apply Keeps.fold2' <;> intros))
    | (with_reducible first | (apply Keeps.fold3 <;> intros))
    | split
    | dsimp only | intro _

theorem stageMats_keeps {z s : State} (cls ref w home : Nat) (ms : List MatEnt) (hz : Keeps afresh z s) :
    Keeps afresh z (stageMats s cls ref w home ms) := by
  unfold stageMats
  try dsimp only
  repeat' first
    | (with_reducible first | assumption | apply copyShare_keeps | apply State.setEngine_keeps)
    | (with_reducible first | (apply Keeps.fold <;> intros) | (apply Keeps.fold2 <;> intros))
    | (with_reducible first | (apply Keeps.fold2' <;> intros) | (apply Keeps.fold3 <;> intros))
    | (with_reducible first | apply Keeps.getD)
    | simp only [keeps_with] | dsimp only | intro _

theorem applyDeal_keeps {z s : State} (ds : List Dealt) (hz : Keeps afresh z s) :
    Keeps afresh z (applyDeal s ds) := by
  unfold applyDeal
  try dsimp only
  repeat' first
    | (with_reducible first | assumption | apply copyShare_keeps | apply State.updEngine_keeps)
    | (with_reducible first | (apply Keeps.fold <;> intros) | (apply Keeps.fold2 <;> intros))
    | (with_reducible first | (apply Keeps.fold2' <;> intros) | (apply Keeps.fold3 <;> intros))
    | simp only [keeps_with] | dsimp only | intro _

theorem readSources_keeps {z s : State} (cls : Nat) (ls : List Nat) (bad : Option (Nat × BcEv)) (hz : Keeps afresh z s) :
    Keeps afresh z (readSources s cls ls bad).2 := by
  unfold readSources
  try dsimp only
  repeat' first
    | (with_reducible first | assumption | apply bondedTake_keeps | apply chargeCtl_keeps)
    | (with_reducible first | (apply Keeps.fold <;> intros) | (apply Keeps.fold2 <;> intros))
    | (with_reducible first | (apply Keeps.fold2' <;> intros) | (apply Keeps.fold3 <;> intros))
    | split
    | (with_reducible first | refine Keeps.snd (by assumption) ?_ | refine Keeps.fst (by assumption) ?_)
    | (with_reducible first | refine Keeps.opt (by assumption) ?_)
    | dsimp only | intro _

theorem snoopRanges_keeps {z s : State} (cls : Nat) (rs : List (Nat × Nat)) (hz : Keeps afresh z s) :
    Keeps afresh z (snoopRanges s cls rs).2 := by
  unfold snoopRanges
  try dsimp only
  repeat' first
    | (with_reducible first | assumption | apply snoopRead_keeps | (apply Keeps.fold <;> intros))
    | (with_reducible first | (apply Keeps.fold2 <;> intros) | (apply Keeps.fold2' <;> intros))
    | (with_reducible first | (apply Keeps.fold3 <;> intros))
    | dsimp only | intro _

theorem rewriteLine_keeps {z s : State} (n A cls : Nat) (hz : Keeps afresh z s) :
    Keeps afresh z (rewriteLine s n A cls).2 := by
  unfold rewriteLine
  try dsimp only
  repeat' first
    | (with_reducible first | assumption | apply devRead_keeps | apply snoopRead_keeps | apply State.updSlice_keeps)
    | (with_reducible first | (apply Keeps.fold <;> intros) | (apply Keeps.fold2 <;> intros))
    | (with_reducible first | (apply Keeps.fold2' <;> intros) | (apply Keeps.fold3 <;> intros))
    | split
    | (with_reducible first | refine Keeps.snd (by assumption) ?_ | refine Keeps.fst (by assumption) ?_)
    | (with_reducible first | refine Keeps.opt (by assumption) ?_)
    | simp only [keeps_with] | dsimp only | intro _

theorem refetchLine_keeps {z s : State} (n A cls : Nat) (hz : Keeps afresh z s) :
    Keeps afresh z (refetchLine s n A cls).2 := by
  unfold refetchLine
  try dsimp only
  repeat' first
    | (with_reducible first | assumption | apply rewriteLine_keeps | apply State.updEngine_keeps)
    | (with_reducible first | apply faultEvent_keeps)
    | simp only [keeps_with] | dsimp only | intro _

end Sys2Proof.Machine
end

