-- ==== Sys2Proof/Laws/KeepsAsync.lean ====
section
/-! SUPPORT. What each operation of Machine/Async.lean keeps. -/

set_option linter.all false

namespace Sys2Proof.Machine

variable {afresh : Prop}

theorem issued_keeps {z s : State} (c g k : Nat) (hz : Keeps afresh z s) :
    Keeps afresh z (issued s c g k) := by
  unfold issued
  try dsimp only
  repeat' first
    | (with_reducible first | assumption | apply State.updGrp_keeps)
    | simp only [keeps_with] | dsimp only | intro _

theorem issueDesc_keeps (tok : List Byte → Nat) (check : List Byte → Nat → Option Nat) (palm : Bool) (depth : Core → Nat) (put : Core → QEnt → Core) {z s : State} (c g w : Nat) (e : Ecc) (hz : Keeps afresh z s) : Keeps afresh z (issueDesc tok check palm depth put s c g w e) := by
  unfold issueDesc
  try dsimp only
  repeat' first
    | (with_reducible first | assumption | apply descTrap_keeps | apply lmEcc_keeps | apply stallRetry_keeps)
    | (with_reducible first | apply issued_keeps | apply State.updCore_keeps)
    | split
    | (with_reducible first | refine Keeps.snd (by assumption) ?_ | refine Keeps.fst (by assumption) ?_)
    | (with_reducible first | refine Keeps.opt (by assumption) ?_)
    | dsimp only | intro _

theorem bodyMxIssue_keeps {z s : State} (c g w : Nat) (e : Ecc) (hz : Keeps afresh z s) : Keeps afresh z (bodyMxIssue s c g w e) := by
  unfold bodyMxIssue
  try dsimp only
  repeat' first
    | (with_reducible first | assumption | apply issueDesc_keeps)
    | simp only [keeps_with] | dsimp only | intro _

theorem bodyDmaIssue_keeps {z s : State} (c g w : Nat) (e : Ecc) (hz : Keeps afresh z s) : Keeps afresh z (bodyDmaIssue s c g w e) := by
  unfold bodyDmaIssue
  try dsimp only
  repeat' first
    | (with_reducible first | assumption | apply issueDesc_keeps)
    | simp only [keeps_with] | dsimp only | intro _

theorem bodyPalmIssue_keeps {z s : State} (c g w : Nat) (e : Ecc) (hz : Keeps afresh z s) : Keeps afresh z (bodyPalmIssue s c g w e) := by
  unfold bodyPalmIssue
  try dsimp only
  repeat' first
    | (with_reducible first | assumption | apply issueDesc_keeps)
    | simp only [keeps_with] | dsimp only | intro _

theorem execMxIssue_keeps {z s : State} (c : Fin 272) (g : Fin 16) (ecc : Ecc) (hz : Keeps afresh z s) :
    KeepsOut afresh z (execMxIssue c g ecc s) := by
  unfold execMxIssue
  try dsimp only
  repeat' first
    | (with_reducible first | assumption | apply issueAs_keeps | apply bodyMxIssue_keeps | apply KeepsOut.next)
    | (with_reducible first | (apply issueAs_keeps <;> intros))
    | dsimp only | intro _

theorem execDmaIssue_keeps {z s : State} (c : Fin 272) (g : Fin 16) (ecc : Ecc) (hz : Keeps afresh z s) :
    KeepsOut afresh z (execDmaIssue c g ecc s) := by
  unfold execDmaIssue
  try dsimp only
  repeat' first
    | (with_reducible first | assumption | apply issueAs_keeps | apply bodyDmaIssue_keeps | apply KeepsOut.next)
    | (with_reducible first | (apply issueAs_keeps <;> intros))
    | dsimp only | intro _

theorem execPalmIssue_keeps {z s : State} (c : Fin 272) (g : Fin 16) (ecc : Ecc) (hz : Keeps afresh z s) :
    KeepsOut afresh z (execPalmIssue c g ecc s) := by
  unfold execPalmIssue
  try dsimp only
  repeat' first
    | (with_reducible first | assumption | apply issueAs_keeps | apply bodyPalmIssue_keeps | apply KeepsOut.next)
    | (with_reducible first | (apply issueAs_keeps <;> intros))
    | dsimp only | intro _

theorem bodyWait_keeps {z s : State} (c g w : Nat) (e : Ecc) (hz : Keeps afresh z s) : Keeps afresh z (bodyWait s c g w e) := by
  unfold bodyWait
  try dsimp only
  repeat' first
    | (with_reducible first | assumption | apply State.updGrp_keeps | (apply Keeps.fold <;> intros))
    | (with_reducible first | (apply Keeps.fold2 <;> intros) | (apply Keeps.fold2' <;> intros))
    | (with_reducible first | (apply Keeps.fold3 <;> intros))
    | split
    | simp only [keeps_with] | dsimp only | intro _

theorem execWait_keeps {z s : State} (c : Fin 272) (g : Fin 16) (ecc : Ecc) (hz : Keeps afresh z s) :
    KeepsOut afresh z (execWait c g ecc s) := by
  unfold execWait
  try dsimp only
  repeat' first
    | (with_reducible first | assumption | apply issueAs_keeps | apply bodyWait_keeps | apply KeepsOut.next)
    | (with_reducible first | (apply issueAs_keeps <;> intros))
    | dsimp only | intro _

theorem execWaitComplete_keeps {z s : State} (c : Fin 272) (g : Fin 16) (hz : Keeps afresh z s) :
    KeepsOut afresh z (execWaitComplete c g s) := by
  unfold execWaitComplete
  try dsimp only
  repeat' first
    | (with_reducible first | assumption | apply State.updGrp_keeps | apply KeepsOut.next)
    | split
    | dsimp only | intro _

theorem takeA0_keeps {z s : State} (c cycles : Nat) (hz : Keeps afresh z s) :
    Keeps afresh z (takeA0 s c cycles) := by
  unfold takeA0
  try dsimp only
  repeat' first
    | (with_reducible first | assumption | apply State.updCore_keeps)
    | simp only [keeps_with] | dsimp only | intro _

theorem execDescriptorStart_keeps {z s : State} (c : Fin 272) (hz : Keeps afresh z s) :
    KeepsOut afresh z (execDescriptorStart c s) := by
  unfold execDescriptorStart
  try dsimp only
  repeat' first
    | (with_reducible first | assumption | apply State.setCore_keeps | apply KeepsOut.next)
    | split
    | (with_reducible first | refine Keeps.snd (by assumption) ?_ | refine Keeps.fst (by assumption) ?_)
    | (with_reducible first | refine Keeps.opt (by assumption) ?_)
    | simp only [keeps_with] | dsimp only | intro _

theorem descEvent_keeps {z s : State} (c g : Nat) (code : Nat) (hz : Keeps afresh z s) :
    Keeps afresh z (descEvent s c g code) := by
  unfold descEvent
  try dsimp only
  repeat' first
    | (with_reducible first | assumption | apply faultEvent_keeps)
    | (with_reducible first | apply Keeps.getD)
    | dsimp only | intro _

theorem execDescriptorComplete_keeps {z s : State} (c : Fin 272) (stopRow : Option Nat) (hz : Keeps afresh z s) :
    KeepsOut afresh z (execDescriptorComplete c stopRow s) := by
  unfold execDescriptorComplete
  try dsimp only
  repeat' first
    | (with_reducible first | assumption | apply State.setCore_keeps | apply orFlags_keeps | apply landLm_keeps)
    | (with_reducible first | apply descEvent_keeps | apply tokenDone_keeps | apply KeepsOut.next)
    | split
    | (with_reducible first | refine Keeps.snd (by assumption) ?_ | refine Keeps.fst (by assumption) ?_)
    | (with_reducible first | refine Keeps.opt (by assumption) ?_)
    | simp only [keeps_with] | dsimp only | intro _

theorem execDmaStart_keeps {z s : State} (c : Fin 272) (hz : Keeps afresh z s) :
    KeepsOut afresh z (execDmaStart c s) := by
  unfold execDmaStart
  try dsimp only
  repeat' first
    | (with_reducible first | assumption | apply State.setCore_keeps | apply KeepsOut.next)
    | split
    | (with_reducible first | refine Keeps.snd (by assumption) ?_ | refine Keeps.fst (by assumption) ?_)
    | (with_reducible first | refine Keeps.opt (by assumption) ?_)
    | simp only [keeps_with] | dsimp only | intro _

theorem dmaRows_keeps {z : State} (c cls : Nat) (d : DmaDesc) (lm : Mem) (seen : List (Nat × Byte)) (n : Nat) :
    ∀ (i : Nat) {s : State}, Keeps afresh z s → Keeps afresh z (dmaRows c cls d lm seen n i s).2 := by
  induction n with
  | zero => intro i s hz; exact hz
  | succ n ih =>
    intro i s hz
    unfold dmaRows
    dsimp only
    split
    · split
      · exact Keeps.snd (by assumption) (devStore_keeps _ _ _ _ hz)
      · exact ih _ (Keeps.snd (by assumption) (devStore_keeps _ _ _ _ hz))
    · split
      · exact Keeps.snd (by assumption) (devRead_keeps _ _ _ _ _ hz)
      · exact ih _ (landLm_keeps _ _ _ (Keeps.snd (by assumption) (devRead_keeps _ _ _ _ _ hz)))

theorem dmaSnoop_keeps {z s : State} (d : DmaDesc) (cls : Nat) (hz : Keeps afresh z s) :
    Keeps afresh z (dmaSnoop d cls s).2 := by
  unfold dmaSnoop
  try dsimp only
  repeat' first
    | (with_reducible first | assumption | apply snoopRead_keeps | (apply Keeps.fold <;> intros))
    | (with_reducible first | (apply Keeps.fold2 <;> intros) | (apply Keeps.fold2' <;> intros))
    | (with_reducible first | (apply Keeps.fold3 <;> intros))
    | dsimp only | intro _

theorem dmaAllowed_keeps {z s : State} (d : DmaDesc) (cls : Nat) (hz : Keeps afresh z s) :
    Keeps afresh z (dmaAllowed d cls s).2 := by
  unfold dmaAllowed
  try dsimp only
  repeat' first
    | (with_reducible first | assumption | apply mayAccess_keeps | (apply Keeps.fold <;> intros))
    | (with_reducible first | (apply Keeps.fold2 <;> intros) | (apply Keeps.fold2' <;> intros))
    | (with_reducible first | (apply Keeps.fold3 <;> intros))
    | split
    | dsimp only | intro _

theorem execDmaComplete_keeps {z s : State} (c : Fin 272) (lmRow : Option Nat) (hz : Keeps afresh z s) :
    KeepsOut afresh z (execDmaComplete c lmRow s) := by
  unfold execDmaComplete
  try dsimp only
  repeat' first
    | (with_reducible first | assumption | apply dmaAllowed_keeps | apply dmaSnoop_keeps)
    | (with_reducible first | apply State.updCore_keeps | apply dmaRows_keeps | apply descEvent_keeps)
    | (with_reducible first | apply tokenDone_keeps | apply KeepsOut.next)
    | split
    | (with_reducible first | refine Keeps.snd (by assumption) ?_ | refine Keeps.fst (by assumption) ?_)
    | (with_reducible first | refine Keeps.opt (by assumption) ?_)
    | simp only [keeps_with] | dsimp only | intro _

end Sys2Proof.Machine
end

