-- ==== Sys2Proof/Laws/KeepsFitting.lean ====
section
/-! SUPPORT. What each operation of Machine/Fitting.lean keeps. -/

set_option linter.all false

namespace Sys2Proof.Machine

variable {afresh : Prop}

theorem writeRefusal_keeps {z s : State} (origin : Nat) (digest : List Byte) (r : Refused) (hz : Keeps afresh z s) :
    Keeps afresh z (writeRefusal s origin digest r) := by
  unfold writeRefusal
  try dsimp only
  repeat' first
    | (with_reducible first | assumption)
    | simp only [keeps_with] | dsimp only | intro _

theorem refuseFit_keeps {z s : State} (origin : Nat) (digest : List Byte) (r : Refused) (hz : Keeps afresh z s) :
    Keeps afresh z (refuseFit s origin digest r) := by
  unfold refuseFit
  try dsimp only
  repeat' first
    | (with_reducible first | assumption | apply writeRefusal_keeps)
    | simp only [keeps_with] | dsimp only | intro _

end Sys2Proof.Machine
end

