-- ==== Sys2Proof/Laws/KeepsHostPath.lean ====
section
/-! SUPPORT. What each operation of Machine/HostPath.lean keeps. -/

set_option linter.all false

namespace Sys2Proof.Machine

variable {afresh : Prop}

theorem dropCtl_keeps {z s : State} (hz : Keeps afresh z s) :
    Keeps afresh z (dropCtl s) := by
  unfold dropCtl
  try dsimp only
  repeat' first
    | (with_reducible first | assumption)
    | simp only [keeps_with] | dsimp only | intro _

theorem barWrite_keeps {z s : State} (f : State → State) (hf : ∀ t : State, Keeps afresh z t → Keeps afresh z (f t)) (hz : Keeps afresh z s) :
    Keeps afresh z (barWrite s f) := by
  unfold barWrite
  try dsimp only
  repeat' first
    | (with_reducible first | assumption | apply State.emit_keeps | apply hlkEvent_keeps | apply dropCtl_keeps)
    | (with_reducible first | apply hf)
    | split
    | simp only [keeps_with] | dsimp only | intro _

theorem fwBlocked_keeps {z s : State} (write : Bool) (hz : Keeps afresh z s) :
    Keeps afresh z (fwBlocked s write) := by
  unfold fwBlocked
  try dsimp only
  repeat' first
    | (with_reducible first | assumption | apply hlkEvent_keeps)
    | split
    | simp only [keeps_with] | dsimp only | intro _

theorem dirEnter_keeps {z s : State} (l : Nat) (hz : Keeps afresh z s) :
    Keeps afresh z (dirEnter s l) := by
  unfold dirEnter
  try dsimp only
  repeat' first
    | (with_reducible first | assumption | apply dirInvalidate_keeps)
    | split
    | (with_reducible first | refine Keeps.snd (by assumption) ?_ | refine Keeps.fst (by assumption) ?_)
    | (with_reducible first | refine Keeps.opt (by assumption) ?_)
    | simp only [keeps_with] | dsimp only | intro _

theorem hostReadLine_keeps {z s : State} (l : Nat) (hz : Keeps afresh z s) :
    Keeps afresh z (hostReadLine s l).2 := by
  unfold hostReadLine
  try dsimp only
  repeat' first
    | (with_reducible first | assumption | apply devRead_keeps | apply dirEnter_keeps)
    | split
    | (with_reducible first | refine Keeps.snd (by assumption) ?_ | refine Keeps.fst (by assumption) ?_)
    | (with_reducible first | refine Keeps.opt (by assumption) ?_)
    | dsimp only | intro _

theorem hostReadLines_keeps {z : State} (ls : List Nat) : ∀ {s : State}, Keeps afresh z s →
    Keeps afresh z (hostReadLines ls s).2 := by
  induction ls with
  | nil => intro s hz; exact hz
  | cons l ls ih => intro s hz; exact ih (hostReadLine_keeps _ hz)

theorem hostRead_keeps {z s : State} (off len : Nat) (hz : Keeps afresh z s) :
    Keeps afresh z (hostRead s off len) := by
  unfold hostRead
  try dsimp only
  repeat' first
    | (with_reducible first | assumption | apply hostReadLines_keeps | apply fwBlocked_keeps)
    | (with_reducible first | apply State.emit_keeps)
    | split
    | dsimp only | intro _

theorem settleSlots_keeps {z s : State} (ps : List (Nat × Nat)) (hz : Keeps afresh z s) :
    Keeps afresh z (settleSlots s ps) := by
  unfold settleSlots
  try dsimp only
  repeat' first
    | (with_reducible first | assumption | apply settleLine_keeps | (apply Keeps.fold <;> intros))
    | (with_reducible first | (apply Keeps.fold2 <;> intros) | (apply Keeps.fold2' <;> intros))
    | (with_reducible first | (apply Keeps.fold3 <;> intros))
    | split
    | (with_reducible first | refine Keeps.snd (by assumption) ?_ | refine Keeps.fst (by assumption) ?_)
    | (with_reducible first | refine Keeps.opt (by assumption) ?_)
    | dsimp only | intro _

theorem hostLand_keeps {z s : State} (cls : Nat) (ws : List (Nat × Byte)) (hz : Keeps afresh z s) :
    Keeps afresh z (hostLand s cls ws) := by
  unfold hostLand
  try dsimp only
  repeat' first
    | (with_reducible first | assumption | apply homeWrite_keeps | (apply Keeps.fold <;> intros))
    | (with_reducible first | (apply Keeps.fold2 <;> intros) | (apply Keeps.fold2' <;> intros))
    | (with_reducible first | (apply Keeps.fold3 <;> intros))
    | split
    | (with_reducible first | refine Keeps.snd (by assumption) ?_ | refine Keeps.fst (by assumption) ?_)
    | (with_reducible first | refine Keeps.opt (by assumption) ?_)
    | dsimp only | intro _

theorem discardParts_keeps {z s : State} (rings lines : List Nat) (hz : Keeps afresh z s) :
    Keeps afresh z (discardParts s rings lines) := by
  unfold discardParts
  try dsimp only
  repeat' first
    | (with_reducible first | assumption | apply State.updStream_keeps | apply hlkEvent_keeps | apply sendSnp_keeps)
    | (with_reducible first | (apply Keeps.fold <;> intros) | (apply Keeps.fold2 <;> intros))
    | (with_reducible first | (apply Keeps.fold2' <;> intros) | (apply Keeps.fold3 <;> intros))
    | split
    | simp only [keeps_with] | dsimp only | intro _

theorem ringWrite_keeps {z s : State} (segs : List (Nat × List (Nat × Byte))) (hz : Keeps afresh z s) :
    Keeps afresh z (ringWrite s segs) := by
  unfold ringWrite
  try dsimp only
  repeat' first
    | (with_reducible first | assumption | apply settleSlots_keeps | apply hostLand_keeps | apply devWrite_keeps)
    | (with_reducible first | apply discardParts_keeps | (apply Keeps.fold <;> intros))
    | (with_reducible first | (apply Keeps.fold2 <;> intros) | (apply Keeps.fold2' <;> intros))
    | (with_reducible first | (apply Keeps.fold3 <;> intros))
    | split
    | (with_reducible first | refine Keeps.snd (by assumption) ?_ | refine Keeps.fst (by assumption) ?_)
    | (with_reducible first | refine Keeps.opt (by assumption) ?_)
    | dsimp only | intro _

theorem hostWrite_keeps {z s : State} (off : Nat) (bs : List Byte) (hz : Keeps afresh z s) :
    Keeps afresh z (hostWrite s off bs) := by
  unfold hostWrite
  try dsimp only
  repeat' first
    | (with_reducible first | assumption | apply ringWrite_keeps | apply fwBlocked_keeps)
    | split
    | dsimp only | intro _

theorem hostMay_keeps {z s : State} (a : HostAcc) (hz : Keeps afresh z s) :
    Keeps afresh z (hostMay s a).2 := by
  unfold hostMay
  try dsimp only
  repeat' first
    | (with_reducible first | assumption | apply mayAccess_keeps | (apply Keeps.fold <;> intros))
    | (with_reducible first | (apply Keeps.fold2 <;> intros) | (apply Keeps.fold2' <;> intros))
    | (with_reducible first | (apply Keeps.fold3 <;> intros))
    | split
    | (with_reducible first | refine Keeps.snd (by assumption) ?_ | refine Keeps.fst (by assumption) ?_)
    | (with_reducible first | refine Keeps.opt (by assumption) ?_)
    | dsimp only | intro _

theorem hostServe_keeps {z s : State} (a : HostAcc) (hz : Keeps afresh z s) :
    Keeps afresh z (hostServe s a) := by
  unfold hostServe
  try dsimp only
  repeat' first
    | (with_reducible first | assumption | apply hostRead_keeps | apply State.emit_keeps | apply hostWrite_keeps)
    | split
    | (with_reducible first | refine Keeps.snd (by assumption) ?_ | refine Keeps.fst (by assumption) ?_)
    | (with_reducible first | refine Keeps.opt (by assumption) ?_)
    | dsimp only | intro _

theorem hostDrain_keeps {z : State} (l : List HostAcc) : ∀ {s : State}, Keeps afresh z s → Keeps afresh z (hostDrain l s) := by
  induction l with
  | nil => intro s hz; exact keeps_with.2 hz
  | cons a l ih =>
    intro s hz
    unfold hostDrain
    dsimp only
    split
    · exact ih (hostServe_keeps _ (hostMay_keeps _ hz))
    · exact keeps_with.2 (hostMay_keeps _ hz)

theorem hostGo_keeps {z s : State} (hz : Keeps afresh z s) :
    Keeps afresh z (hostGo s) := by
  unfold hostGo
  try dsimp only
  repeat' first
    | (with_reducible first | assumption | apply hostDrain_keeps)
    | split
    | dsimp only | intro _

theorem hostAccess_keeps {z s : State} (a : HostAcc) (hz : Keeps afresh z s) :
    Keeps afresh z (hostAccess s a) := by
  unfold hostAccess
  try dsimp only
  repeat' first
    | (with_reducible first | assumption | apply hostMay_keeps | apply hostServe_keeps | apply hostGo_keeps)
    | split
    | simp only [keeps_with] | dsimp only | intro _

theorem execHostMemRead_keeps {z s : State} (offset : BitVec 40) (len : Nat) (hz : Keeps afresh z s) :
    KeepsOut afresh z (execHostMemRead offset len s) := by
  unfold execHostMemRead
  try dsimp only
  repeat' first
    | (with_reducible first | assumption | apply hostAccess_keeps | apply KeepsOut.next)
    | dsimp only | intro _

theorem execHostMemWrite_keeps {z s : State} (offset : BitVec 40) (bytes : List Byte) (hz : Keeps afresh z s) :
    KeepsOut afresh z (execHostMemWrite offset bytes s) := by
  unfold execHostMemWrite
  try dsimp only
  repeat' first
    | (with_reducible first | assumption | apply hostAccess_keeps | apply KeepsOut.next)
    | dsimp only | intro _

end Sys2Proof.Machine
end

