-- ==== Sys2Proof/Laws/KeepsIntake.lean ====
section
/-! SUPPORT. What each operation of Machine/Intake.lean keeps. -/

set_option linter.all false

namespace Sys2Proof.Machine

variable {afresh : Prop}

theorem refuseSlot_keeps {z s : State} (n slot commit reason : Nat) (hz : Keeps afresh z s) :
    Keeps afresh z (refuseSlot s n slot commit reason) := by
  unfold refuseSlot
  try dsimp only
  repeat' first
    | (with_reducible first | assumption | apply devWrite_keeps | apply writeStatus_keeps)
    | (with_reducible first | apply State.updStream_keeps)
    | split
    | simp only [keeps_with] | dsimp only | intro _

theorem acceptSlot_keeps {z s : State} (r : StreamRec) (slot : Nat) (q : SlotReq) (t : Nat) (hz : Keeps afresh z s) :
    Keeps afresh z (acceptSlot s r slot q t) := by
  unfold acceptSlot
  try dsimp only
  repeat' first
    | (with_reducible first | assumption | apply writeStatus_keeps | apply State.updStream_keeps)
    | split
    | simp only [keeps_with] | simp only [id_eq] | dsimp only | intro _

theorem advanceScan_keeps {z s : State} (r : StreamRec) (hz : Keeps afresh z s) :
    Keeps afresh z (advanceScan s r) := by
  unfold advanceScan
  try dsimp only
  repeat' first
    | (with_reducible first | assumption | apply State.updStream_keeps)
    | simp only [keeps_with] | simp only [id_eq] | dsimp only | intro _

theorem readSlot_keeps {z s : State} (r : StreamRec) (slot : Nat) (hz : Keeps afresh z s) :
    Keeps afresh z (readSlot s r slot).2 := by
  unfold readSlot
  try dsimp only
  repeat' first
    | (with_reducible first | assumption | apply mayAccess_keeps | apply snoopRead_keeps | apply devRead_keeps)
    | split
    | (with_reducible first | refine Keeps.snd (by assumption) ?_ | refine Keeps.fst (by assumption) ?_)
    | (with_reducible first | refine Keeps.opt (by assumption) ?_)
    | simp only [id_eq] | dsimp only | intro _

theorem pollFrom_keeps {z : State} (r : StreamRec) (t : Nat) (k : Nat) : ∀ {s : State}, Keeps afresh z s →
    Keeps afresh z (pollFrom r t k s) := by
  induction k with
  | zero => intro s hz; exact hz
  | succ k ih =>
    intro s hz
    unfold pollFrom
    dsimp only
    have hb := readSlot_keeps (z := z) r (s.stream r.id).scan hz
    split
    · exact hz
    split
    · exact hb
    · exact State.updStream_keeps _ _ hb
    split
    · exact hb
    split
    · exact ih (advanceScan_keeps _ (refuseSlot_keeps _ _ _ _ hb))
    · exact ih (advanceScan_keeps _ (acceptSlot_keeps _ _ _ _ hb))
    · exact State.updStream_keeps _ _ hb

theorem execIntakePoll_keeps {z s : State} (stream : Fin 64) (hz : Keeps afresh z s) :
    KeepsOut afresh z (execIntakePoll stream s) := by
  unfold execIntakePoll
  try dsimp only
  repeat' first
    | (with_reducible first | assumption | apply pollFrom_keeps | apply State.updStream_keeps | apply KeepsOut.next)
    | split
    | (with_reducible first | refine Keeps.snd (by assumption) ?_ | refine Keeps.fst (by assumption) ?_)
    | (with_reducible first | refine Keeps.opt (by assumption) ?_)
    | simp only [keeps_with] | dsimp only | intro _

theorem answerTest5_keeps {z s : State} (r : StreamRec) (t5 : Test5) (reached : Bool) (hz : Keeps afresh z s) :
    Keeps afresh z (answerTest5 s r t5 reached) := by
  unfold answerTest5
  try dsimp only
  repeat' first
    | (with_reducible first | assumption | apply refuseSlot_keeps | apply acceptSlot_keeps)
    | split
    | (with_reducible first | refine Keeps.snd (by assumption) ?_ | refine Keeps.fst (by assumption) ?_)
    | (with_reducible first | refine Keeps.opt (by assumption) ?_)
    | simp only [id_eq] | dsimp only | intro _

theorem endTest5_keeps {z s : State} (n : Nat) (reached : Bool) (hz : Keeps afresh z s) :
    Keeps afresh z (endTest5 s n reached) := by
  unfold endTest5
  try dsimp only
  repeat' first
    | (with_reducible first | assumption | apply State.updStream_keeps | apply readSlot_keeps)
    | (with_reducible first | apply answerTest5_keeps | apply failWhere_keeps | apply pollFrom_keeps)
    | (with_reducible first | apply advanceScan_keeps)
    | split
    | (with_reducible first | refine Keeps.snd (by assumption) ?_ | refine Keeps.fst (by assumption) ?_)
    | (with_reducible first | refine Keeps.opt (by assumption) ?_)
    | simp only [keeps_with] | dsimp only | intro _

theorem resumePoll_keeps {z s : State} (n : Nat) (hz : Keeps afresh z s) :
    Keeps afresh z (resumePoll s n) := by
  unfold resumePoll
  try dsimp only
  repeat' first
    | (with_reducible first | assumption | apply State.updStream_keeps | apply pollFrom_keeps)
    | (with_reducible first | apply endTest5_keeps)
    | split
    | (with_reducible first | refine Keeps.snd (by assumption) ?_ | refine Keeps.fst (by assumption) ?_)
    | (with_reducible first | refine Keeps.opt (by assumption) ?_)
    | simp only [keeps_with] | dsimp only | intro _

theorem resumePolls_keeps {z s : State} (hz : Keeps afresh z s) :
    Keeps afresh z (resumePolls s) := by
  unfold resumePolls
  try dsimp only
  repeat' first
    | (with_reducible first | assumption | apply resumePoll_keeps | (apply Keeps.fold <;> intros))
    | (with_reducible first | (apply Keeps.fold2 <;> intros) | (apply Keeps.fold2' <;> intros))
    | (with_reducible first | (apply Keeps.fold3 <;> intros))
    | dsimp only | intro _

theorem goOn_keeps {z s : State} (hz : Keeps afresh z s) :
    Keeps afresh z (goOn s) := by
  unfold goOn
  try dsimp only
  repeat' first
    | (with_reducible first | assumption | apply resumePolls_keeps | apply hostGo_keeps)
    | dsimp only | intro _

theorem execTest5ReadComplete_keeps {z s : State} (stream : Fin 64) (data : Option (List Byte)) (hz : Keeps afresh z s) :
    KeepsOut afresh z (execTest5ReadComplete stream data s) := by
  unfold execTest5ReadComplete
  try dsimp only
  repeat' first
    | (with_reducible first | assumption | apply abortGoesOn_keeps | apply endTest5_keeps | apply KeepsOut.next)
    | split
    | (with_reducible first | refine Keeps.snd (by assumption) ?_ | refine Keeps.fst (by assumption) ?_)
    | (with_reducible first | refine Keeps.opt (by assumption) ?_)
    | dsimp only | intro _

theorem execTest5ReadTimeout_keeps {z s : State} (stream : Fin 64) (hz : Keeps afresh z s) :
    KeepsOut afresh z (execTest5ReadTimeout stream s) := by
  unfold execTest5ReadTimeout
  try dsimp only
  repeat' first
    | (with_reducible first | assumption | apply abortGoesOn_keeps | apply endTest5_keeps | apply KeepsOut.next)
    | split
    | (with_reducible first | refine Keeps.snd (by assumption) ?_ | refine Keeps.fst (by assumption) ?_)
    | (with_reducible first | refine Keeps.opt (by assumption) ?_)
    | dsimp only | intro _

theorem failCopy_keeps {z s : State} (n : Nat) (r : ReqSt) (hz : Keeps afresh z s) :
    Keeps afresh z (failCopy s n r) := by
  unfold failCopy
  try dsimp only
  repeat' first
    | (with_reducible first | assumption | apply failRequest_keeps)
    | dsimp only | intro _

theorem execBodyCopyComplete_keeps {z s : State} (stream : Fin 64) (data : Option (List Byte)) (hz : Keeps afresh z s) :
    KeepsOut afresh z (execBodyCopyComplete stream data s) := by
  unfold execBodyCopyComplete
  try dsimp only
  repeat' first
    | (with_reducible first | assumption | apply failCopy_keeps | apply devWrite_keeps | apply updReq_keeps)
    | (with_reducible first | apply KeepsOut.next)
    | split
    | (with_reducible first | refine Keeps.snd (by assumption) ?_ | refine Keeps.fst (by assumption) ?_)
    | (with_reducible first | refine Keeps.opt (by assumption) ?_)
    | simp only [keeps_with] | dsimp only | intro _

theorem execBodyCopyTimeout_keeps {z s : State} (stream : Fin 64) (hz : Keeps afresh z s) :
    KeepsOut afresh z (execBodyCopyTimeout stream s) := by
  unfold execBodyCopyTimeout
  try dsimp only
  repeat' first
    | (with_reducible first | assumption | apply failCopy_keeps | apply KeepsOut.next)
    | split
    | (with_reducible first | refine Keeps.snd (by assumption) ?_ | refine Keeps.fst (by assumption) ?_)
    | (with_reducible first | refine Keeps.opt (by assumption) ?_)
    | dsimp only | intro _

theorem execCompletionWrite_keeps {z s : State} (stream : Fin 64) (hz : Keeps afresh z s) :
    KeepsOut afresh z (execCompletionWrite stream s) := by
  unfold execCompletionWrite
  try dsimp only
  repeat' first
    | (with_reducible first | assumption | apply endRequest_keeps | apply notice_keeps | apply KeepsOut.next)
    | split
    | (with_reducible first | refine Keeps.snd (by assumption) ?_ | refine Keeps.fst (by assumption) ?_)
    | (with_reducible first | refine Keeps.opt (by assumption) ?_)
    | dsimp only | intro _

end Sys2Proof.Machine
end

