-- ==== Sys2Proof/Laws/KeepsPower.lean ====
section
/-! SUPPORT. What each operation of Machine/Power.lean keeps. -/

set_option linter.all false

namespace Sys2Proof.Machine

variable {afresh : Prop}

theorem setAlert_keeps {z s : State} (hz : Keeps afresh z s) :
    Keeps afresh z (setAlert s) := by
  unfold setAlert
  try dsimp only
  repeat' first
    | (with_reducible first | assumption)
    | split
    | simp only [keeps_with] | dsimp only | intro _

theorem phaseLost_keeps {z s : State} (hz : Keeps afresh z s) :
    Keeps afresh z (phaseLost s) := by
  unfold phaseLost
  try dsimp only
  repeat' first
    | (with_reducible first | assumption)
    | simp only [keeps_with] | dsimp only | intro _

theorem regulatorChange_keeps {z s : State} (hz : Keeps afresh z s) :
    Keeps afresh z (regulatorChange s) := by
  unfold regulatorChange
  try dsimp only
  repeat' first
    | (with_reducible first | assumption | apply staleVerdicts_keeps)
    | split
    | (with_reducible first | apply Keeps.getD)
    | simp only [keeps_with] | dsimp only | intro _

theorem trip_keeps {z s : State} (cause : Nat) (hz : Keeps afresh z s) :
    Keeps afresh z (trip s cause) := by
  unfold trip
  try dsimp only
  repeat' first
    | (with_reducible first | assumption)
    | split
    | simp only [keeps_with] | dsimp only | intro _

theorem loseInput_keeps {z s : State} (hz : Keeps afresh z s) :
    Keeps afresh z (loseInput s) := by
  unfold loseInput
  try dsimp only
  repeat' first
    | (with_reducible first | assumption)
    | simp only [keeps_with] | dsimp only | intro _

theorem execInputUndervoltage_keeps {z s : State} (hz : Keeps afresh z s) :
    KeepsOut afresh z (execInputUndervoltage s) := by
  unfold execInputUndervoltage
  try dsimp only
  repeat' first
    | (with_reducible first | assumption | apply loseInput_keeps | apply trip_keeps | apply KeepsOut.next)
    | split
    | simp only [keeps_with] | dsimp only | intro _

theorem execInputOvervoltage_keeps {z s : State} (hz : Keeps afresh z s) :
    KeepsOut afresh z (execInputOvervoltage s) := by
  unfold execInputOvervoltage
  try dsimp only
  repeat' first
    | (with_reducible first | assumption | apply trip_keeps | apply KeepsOut.next)
    | dsimp only | intro _

theorem setLevel_keeps {z s : State} (c l : Nat) (hz : Keeps afresh z s) :
    Keeps afresh z (setLevel s c l) := by
  unfold setLevel
  try dsimp only
  repeat' first
    | (with_reducible first | assumption)
    | simp only [keeps_with] | dsimp only | intro _

theorem raiseVoid_keeps {z s : State} (p : Nat) (hz : Keeps afresh z s) :
    Keeps afresh z (raiseVoid s p) := by
  unfold raiseVoid
  try dsimp only
  repeat' first
    | (with_reducible first | assumption | apply logEvent_keeps | apply State.updStream_keeps)
    | (with_reducible first | (apply Keeps.fold <;> intros) | (apply Keeps.fold2 <;> intros))
    | (with_reducible first | (apply Keeps.fold2' <;> intros) | (apply Keeps.fold3 <;> intros))
    | split
    | simp only [keeps_with] | dsimp only | intro _

theorem applyLevels_keeps {z s : State} (p : Nat) (ls : List (Nat × Nat)) (hz : Keeps afresh z s) :
    Keeps afresh z (applyLevels s p ls) := by
  unfold applyLevels
  try dsimp only
  repeat' first
    | (with_reducible first | assumption | apply setLevel_keeps | apply raiseVoid_keeps)
    | (with_reducible first | (apply Keeps.fold <;> intros) | (apply Keeps.fold2 <;> intros))
    | (with_reducible first | (apply Keeps.fold2' <;> intros) | (apply Keeps.fold3 <;> intros))
    | split
    | dsimp only | intro _

theorem partReading_keeps {z s : State} (p : Nat) (hz : Keeps afresh z s) :
    Keeps afresh z (partReading s p) := by
  unfold partReading
  try dsimp only
  repeat' first
    | (with_reducible first | assumption | apply applyLevels_keeps | (apply Keeps.fold <;> intros))
    | (with_reducible first | (apply Keeps.fold2 <;> intros) | (apply Keeps.fold2' <;> intros))
    | (with_reducible first | (apply Keeps.fold3 <;> intros))
    | simp only [keeps_with] | dsimp only | intro _

theorem stackHot_keeps {z s : State} (d : Nat) (t : Int) (hz : Keeps afresh z s) :
    Keeps afresh z (stackHot s d t) := by
  unfold stackHot
  try dsimp only
  repeat' first
    | (with_reducible first | assumption | apply State.updMc_keeps | (apply Keeps.fold <;> intros))
    | (with_reducible first | (apply Keeps.fold2 <;> intros) | (apply Keeps.fold2' <;> intros))
    | (with_reducible first | (apply Keeps.fold3 <;> intros))
    | split
    | simp only [keeps_with] | dsimp only | intro _

theorem execThermalSample_keeps {z s : State} (d : Fin 24) (reading : Option (BitVec 16)) (hz : Keeps afresh z s) :
    KeepsOut afresh z (execThermalSample d reading s) := by
  unfold execThermalSample
  try dsimp only
  repeat' first
    | (with_reducible first | assumption | apply correction_keeps | apply stackHot_keeps | apply setAlert_keeps)
    | (with_reducible first | apply partReading_keeps | apply trip_keeps | (apply Keeps.fold <;> intros))
    | (with_reducible first | (apply Keeps.fold2 <;> intros) | (apply Keeps.fold2' <;> intros))
    | (with_reducible first | (apply Keeps.fold3 <;> intros) | apply KeepsOut.next)
    | split
    | (with_reducible first | refine Keeps.snd (by assumption) ?_ | refine Keeps.fst (by assumption) ?_)
    | (with_reducible first | refine Keeps.opt (by assumption) ?_)
    | simp only [keeps_with] | dsimp only | intro _

theorem execThermistorSample_keeps {z s : State} (j : Fin 4) (reading : Option (BitVec 16)) (hz : Keeps afresh z s) :
    KeepsOut afresh z (execThermistorSample j reading s) := by
  unfold execThermistorSample
  try dsimp only
  repeat' first
    | (with_reducible first | assumption | apply correction_keeps | apply logEvent_keeps | apply setAlert_keeps)
    | (with_reducible first | apply KeepsOut.next)
    | split
    | (with_reducible first | refine Keeps.snd (by assumption) ?_ | refine Keeps.fst (by assumption) ?_)
    | (with_reducible first | refine Keeps.opt (by assumption) ?_)
    | simp only [keeps_with] | dsimp only | intro _

theorem execPowerSample_keeps {z s : State} (watts volts : BitVec 16) (hz : Keeps afresh z s) :
    KeepsOut afresh z (execPowerSample watts volts s) := by
  unfold execPowerSample
  try dsimp only
  repeat' first
    | (with_reducible first | assumption | apply applyLevels_keeps | apply logEvent_keeps | apply setAlert_keeps)
    | (with_reducible first | (apply Keeps.fold <;> intros) | (apply Keeps.fold2 <;> intros))
    | (with_reducible first | (apply Keeps.fold2' <;> intros) | (apply Keeps.fold3 <;> intros))
    | (with_reducible first | apply KeepsOut.next)
    | split
    | (with_reducible first | refine Keeps.snd (by assumption) ?_ | refine Keeps.fst (by assumption) ?_)
    | (with_reducible first | refine Keeps.opt (by assumption) ?_)
    | simp only [keeps_with] | dsimp only | intro _

theorem regulatorFault_keeps {z s : State} (detail : Nat) (hz : Keeps afresh z s) :
    Keeps afresh z (regulatorFault s detail) := by
  unfold regulatorFault
  try dsimp only
  repeat' first
    | (with_reducible first | assumption | apply faultEvent_keeps)
    | dsimp only | intro _

theorem execBusConverterFail_keeps {z s : State} (k : Fin 2) (hz : Keeps afresh z s) :
    KeepsOut afresh z (execBusConverterFail k s) := by
  unfold execBusConverterFail
  try dsimp only
  repeat' first
    | (with_reducible first | assumption | apply phaseLost_keeps | apply setLevel_keeps)
    | (with_reducible first | apply regulatorChange_keeps | apply regulatorFault_keeps)
    | (with_reducible first | (apply Keeps.fold <;> intros) | (apply Keeps.fold2 <;> intros))
    | (with_reducible first | (apply Keeps.fold2' <;> intros) | (apply Keeps.fold3 <;> intros))
    | (with_reducible first | apply KeepsOut.next)
    | split
    | simp only [keeps_with] | dsimp only | intro _

theorem execStageTwoPhaseLoss_keeps {z s : State} (vcache : Bool) (hz : Keeps afresh z s) :
    KeepsOut afresh z (execStageTwoPhaseLoss vcache s) := by
  unfold execStageTwoPhaseLoss
  try dsimp only
  repeat' first
    | (with_reducible first | assumption | apply phaseLost_keeps | apply regulatorChange_keeps)
    | (with_reducible first | apply regulatorFault_keeps | apply KeepsOut.next)
    | split
    | simp only [keeps_with] | dsimp only | intro _

theorem execOnDiePhaseLoss_keeps {z s : State} (c : Fin 68) (phase : Fin 4) (hz : Keeps afresh z s) :
    KeepsOut afresh z (execOnDiePhaseLoss c phase s) := by
  unfold execOnDiePhaseLoss
  try dsimp only
  repeat' first
    | (with_reducible first | assumption | apply phaseLost_keeps | apply State.setRegion_keeps)
    | (with_reducible first | apply regulatorChange_keeps | apply floorChange_keeps | apply fenceCluster_keeps)
    | (with_reducible first | apply KeepsOut.next)
    | split
    | simp only [keeps_with] | (intro _; unfold codeOk; omega) | (unfold codeOk; omega) | dsimp only | intro _

theorem requestOn_keeps {z s : State} (c : Nat) (hz : Keeps afresh z s) :
    Keeps afresh z (requestOn s c) := by
  unfold requestOn
  try dsimp only
  repeat' first
    | (with_reducible first | assumption | apply State.setRegion_keeps)
    | split
    | simp only [keeps_with] | dsimp only | intro _

theorem gateRegion_keeps {z s : State} (c : Nat) (hz : Keeps afresh z s) :
    Keeps afresh z (gateRegion s c) := by
  unfold gateRegion
  try dsimp only
  repeat' first
    | (with_reducible first | assumption | apply State.setRegion_keeps)
    | simp only [keeps_with] | dsimp only | intro _

theorem followBinding_keeps {z s : State} (hz : Keeps afresh z s) :
    Keeps afresh z (followBinding s) := by
  unfold followBinding
  try dsimp only
  repeat' first
    | (with_reducible first | assumption | apply requestOn_keeps | apply gateRegion_keeps)
    | (with_reducible first | (apply Keeps.fold <;> intros) | (apply Keeps.fold2 <;> intros))
    | (with_reducible first | (apply Keeps.fold2' <;> intros) | (apply Keeps.fold3 <;> intros))
    | split
    | dsimp only | intro _

theorem admitRegion_keeps {z s : State} (c : Nat) (forced : Bool) (hz : Keeps afresh z s) :
    Keeps afresh z (admitRegion s c forced) := by
  unfold admitRegion
  try dsimp only
  repeat' first
    | (with_reducible first | assumption | apply State.drawWord_keeps | apply State.setRegion_keeps)
    | simp only [keeps_with] | dsimp only | intro _

theorem execRegionSwitchOn_keeps {z s : State} (c : Fin 68) (measured : Nat) (hz : Keeps afresh z s) :
    KeepsOut afresh z (execRegionSwitchOn c measured s) := by
  unfold execRegionSwitchOn
  try dsimp only
  repeat' first
    | (with_reducible first | assumption | apply admitRegion_keeps | apply KeepsOut.next)
    | split
    | dsimp only | intro _

theorem execSwitchOnForced_keeps {z s : State} (c : Fin 68) (hz : Keeps afresh z s) :
    KeepsOut afresh z (execSwitchOnForced c s) := by
  unfold execSwitchOnForced
  try dsimp only
  repeat' first
    | (with_reducible first | assumption | apply admitRegion_keeps | apply KeepsOut.next)
    | split
    | dsimp only | intro _

theorem execRegionSwitchOnEnd_keeps {z s : State} (c : Fin 68) (hz : Keeps afresh z s) :
    KeepsOut afresh z (execRegionSwitchOnEnd c s) := by
  unfold execRegionSwitchOnEnd
  try dsimp only
  repeat' first
    | (with_reducible first | assumption | apply State.setRegion_keeps | apply KeepsOut.next)
    | split
    | simp only [keeps_with] | dsimp only | intro _

theorem execRngHealthFail_keeps {z s : State} (hz : Keeps afresh z s) :
    KeepsOut afresh z (execRngHealthFail s) := by
  unfold execRngHealthFail
  try dsimp only
  repeat' first
    | (with_reducible first | assumption | apply logEvent_keeps | apply KeepsOut.next)
    | split
    | simp only [keeps_with] | dsimp only | intro _

end Sys2Proof.Machine
end

