-- ==== Sys2Proof/Laws/KeepsRegs.lean ====
section
/-! SUPPORT. What each operation of Machine/Regs.lean keeps. -/

set_option linter.all false

namespace Sys2Proof.Machine

variable {afresh : Prop}

theorem sliceW1c_keeps {z s : State} (n o m : Nat) (hz : Keeps afresh z s) :
    KeepsOpt afresh z (sliceW1c s n o m) := by
  unfold sliceW1c
  try dsimp only
  repeat' first
    | (with_reducible first | assumption | apply State.updSlice_keeps | apply State.updEngine_keeps)
    | (with_reducible first | apply KeepsOpt.some | exact KeepsOpt.none)
    | split
    | (with_reducible first | refine Keeps.snd (by assumption) ?_ | refine Keeps.fst (by assumption) ?_)
    | (with_reducible first | refine Keeps.opt (by assumption) ?_)
    | simp only [keeps_with] | dsimp only | intro _

theorem fitW1c_keeps {z s : State} (o m : Nat) (hz : Keeps afresh z s) :
    KeepsOpt afresh z (fitW1c s o m) := by
  unfold fitW1c
  try dsimp only
  repeat' first
    | (with_reducible first | assumption | apply State.setKv_keeps | apply KeepsOpt.some | exact KeepsOpt.none)
    | split
    | simp only [keeps_with] | dsimp only | intro _

theorem blockW1c_keeps {z s : State} (o m : Nat) (hz : Keeps afresh z s) : KeepsOpt afresh z (blockW1c s o m) := by
  unfold blockW1c
  split
  · exact KeepsOpt.some (Keeps.flp rfl rfl rfl hz)
  all_goals
    repeat' first
      | with_reducible assumption
      | with_reducible apply KeepsOpt.some
      | with_reducible exact KeepsOpt.none
      | with_reducible apply setAlert_keeps
      | with_reducible apply fitW1c_keeps
      | with_reducible apply sliceW1c_keeps
      | with_reducible apply State.updMc_keeps
      | split
      | simp only [keeps_with]

theorem w1cWrite_keeps {z s : State} (off m : Nat) (hz : Keeps afresh z s) : KeepsOpt afresh z (w1cWrite s off m) := by
  unfold w1cWrite
  dsimp only
  split
  · intro t e
    obtain ⟨c, -, rfl⟩ := Option.map_eq_some_iff.1 e
    exact State.setCore_keeps _ _ hz
  · exact blockW1c_keeps _ _ hz

theorem latchCount_keeps {z s : State} (hz : Keeps afresh z s) :
    Keeps afresh z (latchCount s) := by
  unfold latchCount
  try dsimp only
  repeat' first
    | (with_reducible first | assumption)
    | simp only [keeps_with] | dsimp only | intro _

theorem loadCtl_keeps {z s : State} (off n : Nat) (hz : Keeps afresh z s) :
    Keeps afresh z (loadCtl s off n).2 := by
  unfold loadCtl
  try dsimp only
  repeat' first
    | (with_reducible first | assumption | apply latchCount_keeps)
    | split
    | dsimp only | intro _

theorem storeCtlWord_keeps {z s : State} (off v : Nat) (hz : Keeps afresh z s) :
    Keeps afresh z (storeCtlWord s off v) := by
  unfold storeCtlWord
  try dsimp only
  repeat' first
    | (with_reducible first | assumption | apply w1cWrite_keeps | apply State.updCore_keeps)
    | split
    | (with_reducible first | refine Keeps.snd (by assumption) ?_ | refine Keeps.fst (by assumption) ?_)
    | (with_reducible first | refine Keeps.opt (by assumption) ?_)
    | simp only [keeps_with] | dsimp only | intro _

theorem storeCtl_keeps {z s : State} (off : Nat) (bs : List Byte) (hz : Keeps afresh z s) :
    Keeps afresh z (storeCtl s off bs) := by
  unfold storeCtl
  try dsimp only
  repeat' first
    | (with_reducible first | assumption | apply storeCtlWord_keeps | (apply Keeps.fold <;> intros))
    | (with_reducible first | (apply Keeps.fold2 <;> intros) | (apply Keeps.fold2' <;> intros))
    | (with_reducible first | (apply Keeps.fold3 <;> intros))
    | dsimp only | intro _

end Sys2Proof.Machine
end

