-- ==== Sys2Proof/Laws/KeepsLdSt.lean ====
section
/-! SUPPORT. What each operation of Machine/LdSt.lean keeps. -/

set_option linter.all false

namespace Sys2Proof.Machine

variable {afresh : Prop}

theorem localChecks_ok {z s t : State} (c g w : Nat) (write : Bool) (ecc : Ecc)
    (e : localChecks s c g w write ecc = .ok t) (hz : Keeps afresh z s) : Keeps afresh z t := by
  unfold localChecks at e
  dsimp only at e
  split at e
  · cases e
  · split at e
    · cases e
    · cases e
      exact lmEcc_keeps _ _ hz

theorem localChecks_error {z s t : State} (c g w : Nat) (write : Bool) (ecc : Ecc)
    (e : localChecks s c g w write ecc = .error t) (hz : Keeps afresh z s) : Keeps afresh z t := by
  unfold localChecks at e
  dsimp only at e
  split at e
  · cases e; exact takeTrap_keeps _ _ _ _ _ _ hz
  · split at e
    · cases e; exact takeTrap_keeps _ _ _ _ _ _ hz
    · cases e

theorem storeKv_keeps {z s : State} (n c : Nat) (src : Src) (size : Nat) (bs : List Byte) (hz : Keeps afresh z s) :
    Keeps afresh z (storeKv s n c src size bs).2 := by
  unfold storeKv
  try dsimp only
  repeat' first
    | (with_reducible first | assumption | apply State.drawWord_keeps | apply State.setKv_keeps)
    | split
    | (with_reducible first | refine Keeps.snd (by assumption) ?_ | refine Keeps.fst (by assumption) ?_)
    | (with_reducible first | refine Keeps.opt (by assumption) ?_)
    | simp only [keeps_with] | simp only [id_eq] | dsimp only | intro _

theorem ctlAccess_keeps {z : State} (c g id size : Nat) (p : CtlPart) (t : Nat × Nat × ReqKind) (hz : Keeps afresh z p.st) :
    Keeps afresh z (ctlAccess c g id size p t).st := by
  unfold ctlAccess
  dsimp only
  repeat' first
    | with_reducible assumption
    | with_reducible apply loadCtl_keeps
    | with_reducible apply storeKv_keeps
    | with_reducible apply storeCtl_keeps
    | split

theorem ctlParts_keeps {z s : State} (c g id size : Nat) (ts : List (Nat × Nat × ReqKind)) (hz : Keeps afresh z s) :
    Keeps afresh z (ctlParts s c g id size ts).st := by
  unfold ctlParts
  dsimp only
  generalize List.filter _ ts = l
  have : ∀ p : CtlPart, Keeps afresh z p.st → Keeps afresh z (l.foldl (ctlAccess c g id size) p).st := by
    induction l with
    | nil => intro p hp; exact hp
    | cons x l ih => intro p hp; exact ih _ (ctlAccess_keeps _ _ _ _ _ _ hp)
  exact this _ hz

theorem sendReqs_keeps {z : State} (c cls : Nat) (l : List (Nat × Req)) : ∀ {s : State}, Keeps afresh z s →
    Keeps afresh z (sendReqs c cls l s).2.2 := by
  induction l with
  | nil => intro s hz; exact hz
  | cons a l ih =>
    intro s hz
    unfold sendReqs
    dsimp only
    split
    · exact ih (deliver_keeps _ _ hz)
    · exact hz

theorem sendRest_keeps {z s : State} (c g id : Nat) (rs : List (Nat × Req)) (hz : Keeps afresh z s) :
    Keeps afresh z (sendRest s c g id rs) := by
  unfold sendRest
  try dsimp only
  repeat' first
    | (with_reducible first | assumption | apply sendReqs_keeps | apply State.updGrp_keeps | apply stallRetry_keeps)
    | (with_reducible first | apply countHeld_keeps)
    | split
    | simp only [keeps_with] | simp only [id_eq] | dsimp only | intro _

theorem sendAccess_keeps {z s : State} (c g : Nat) (rs : List (Nat × Req)) (ctl : List (Nat × Nat × ReqKind)) (a : DevAcc) (hz : Keeps afresh z s) :
    Keeps afresh z (sendAccess s c g rs ctl a) := by
  unfold sendAccess
  try dsimp only
  repeat' first
    | (with_reducible first | assumption | apply ctlParts_keeps | apply State.updGrp_keeps | apply sendRest_keeps)
    | split
    | simp only [keeps_with] | simp only [id_eq] | dsimp only | intro _

theorem deviceAccess_keeps {z s : State} (c g w : Nat) (retire load : Bool) (regs : Nat) (mk : Group → List Nat → List (Nat × Nat × ReqKind)) (hz : Keeps afresh z s) :
    Keeps afresh z (deviceAccess s c g w retire load regs mk) := by
  unfold deviceAccess
  try dsimp only
  repeat' first
    | (with_reducible first | assumption | apply sendRest_keeps | apply takeTrap_keeps | apply sendAccess_keeps)
    | split
    | (with_reducible first | refine Keeps.snd (by assumption) ?_ | refine Keeps.fst (by assumption) ?_)
    | (with_reducible first | refine Keeps.opt (by assumption) ?_)
    | simp only [id_eq] | dsimp only | intro _

theorem bodyLd_keeps {z s : State} (c g w : Nat) (e : Ecc) (hz : Keeps afresh z s) : Keeps afresh z (bodyLd s c g w e) := by
  unfold bodyLd
  try dsimp only
  repeat' first
    | (with_reducible first | assumption | apply deviceAccess_keeps | apply State.updGrp_keeps)
    | (with_reducible first | refine localChecks_ok _ _ _ _ _ (by assumption) ?_)
    | (with_reducible first | refine localChecks_error _ _ _ _ _ (by assumption) ?_)
    | split
    | (with_reducible first | refine Keeps.snd (by assumption) ?_ | refine Keeps.fst (by assumption) ?_)
    | (with_reducible first | refine Keeps.opt (by assumption) ?_)
    | dsimp only | intro _

theorem bodySt_keeps {z s : State} (c g w : Nat) (e : Ecc) (hz : Keeps afresh z s) : Keeps afresh z (bodySt s c g w e) := by
  unfold bodySt
  try dsimp only
  repeat' first
    | (with_reducible first | assumption | apply deviceAccess_keeps | apply State.storeLm_keeps)
    | (with_reducible first | apply State.updGrp_keeps | refine localChecks_ok _ _ _ _ _ (by assumption) ?_)
    | (with_reducible first | refine localChecks_error _ _ _ _ _ (by assumption) ?_)
    | split
    | (with_reducible first | refine Keeps.snd (by assumption) ?_ | refine Keeps.fst (by assumption) ?_)
    | (with_reducible first | refine Keeps.opt (by assumption) ?_)
    | dsimp only | intro _

theorem execLd_keeps {z s : State} (c : Fin 272) (g : Fin 16) (ecc : Ecc) (hz : Keeps afresh z s) :
    KeepsOut afresh z (execLd c g ecc s) := by
  unfold execLd
  try dsimp only
  repeat' first
    | (with_reducible first | assumption | apply issueAs_keeps | apply bodyLd_keeps | apply KeepsOut.next)
    | (with_reducible first | (apply issueAs_keeps <;> intros))
    | dsimp only | intro _

theorem execSt_keeps {z s : State} (c : Fin 272) (g : Fin 16) (ecc : Ecc) (hz : Keeps afresh z s) :
    KeepsOut afresh z (execSt c g ecc s) := by
  unfold execSt
  try dsimp only
  repeat' first
    | (with_reducible first | assumption | apply issueAs_keeps | apply bodySt_keeps | apply KeepsOut.next)
    | (with_reducible first | (apply issueAs_keeps <;> intros))
    | dsimp only | intro _

theorem atomBody_keeps (op : AtomOp) {z s : State} (c g w : Nat) (e : Ecc) (hz : Keeps afresh z s) : Keeps afresh z (atomBody op s c g w e) := by
  unfold atomBody
  try dsimp only
  repeat' first
    | (with_reducible first | assumption | apply deviceAccess_keeps | apply State.storeLm_keeps)
    | (with_reducible first | apply State.updGrp_keeps | refine localChecks_ok _ _ _ _ _ (by assumption) ?_)
    | (with_reducible first | refine localChecks_error _ _ _ _ _ (by assumption) ?_)
    | split
    | (with_reducible first | refine Keeps.snd (by assumption) ?_ | refine Keeps.fst (by assumption) ?_)
    | (with_reducible first | refine Keeps.opt (by assumption) ?_)
    | dsimp only | intro _

theorem execAtomAdd_keeps {z s : State} (c : Fin 272) (g : Fin 16) (ecc : Ecc) (hz : Keeps afresh z s) :
    KeepsOut afresh z (execAtomAdd c g ecc s) := by
  unfold execAtomAdd
  try dsimp only
  repeat' first
    | (with_reducible first | assumption | apply issueAs_keeps | apply atomBody_keeps | apply KeepsOut.next)
    | (with_reducible first | (apply issueAs_keeps <;> intros))
    | dsimp only | intro _

theorem execAtomMinS_keeps {z s : State} (c : Fin 272) (g : Fin 16) (ecc : Ecc) (hz : Keeps afresh z s) :
    KeepsOut afresh z (execAtomMinS c g ecc s) := by
  unfold execAtomMinS
  try dsimp only
  repeat' first
    | (with_reducible first | assumption | apply issueAs_keeps | apply atomBody_keeps | apply KeepsOut.next)
    | (with_reducible first | (apply issueAs_keeps <;> intros))
    | dsimp only | intro _

theorem execAtomMaxS_keeps {z s : State} (c : Fin 272) (g : Fin 16) (ecc : Ecc) (hz : Keeps afresh z s) :
    KeepsOut afresh z (execAtomMaxS c g ecc s) := by
  unfold execAtomMaxS
  try dsimp only
  repeat' first
    | (with_reducible first | assumption | apply issueAs_keeps | apply atomBody_keeps | apply KeepsOut.next)
    | (with_reducible first | (apply issueAs_keeps <;> intros))
    | dsimp only | intro _

theorem execAtomMinU_keeps {z s : State} (c : Fin 272) (g : Fin 16) (ecc : Ecc) (hz : Keeps afresh z s) :
    KeepsOut afresh z (execAtomMinU c g ecc s) := by
  unfold execAtomMinU
  try dsimp only
  repeat' first
    | (with_reducible first | assumption | apply issueAs_keeps | apply atomBody_keeps | apply KeepsOut.next)
    | (with_reducible first | (apply issueAs_keeps <;> intros))
    | dsimp only | intro _

theorem execAtomMaxU_keeps {z s : State} (c : Fin 272) (g : Fin 16) (ecc : Ecc) (hz : Keeps afresh z s) :
    KeepsOut afresh z (execAtomMaxU c g ecc s) := by
  unfold execAtomMaxU
  try dsimp only
  repeat' first
    | (with_reducible first | assumption | apply issueAs_keeps | apply atomBody_keeps | apply KeepsOut.next)
    | (with_reducible first | (apply issueAs_keeps <;> intros))
    | dsimp only | intro _

theorem execAtomAnd_keeps {z s : State} (c : Fin 272) (g : Fin 16) (ecc : Ecc) (hz : Keeps afresh z s) :
    KeepsOut afresh z (execAtomAnd c g ecc s) := by
  unfold execAtomAnd
  try dsimp only
  repeat' first
    | (with_reducible first | assumption | apply issueAs_keeps | apply atomBody_keeps | apply KeepsOut.next)
    | (with_reducible first | (apply issueAs_keeps <;> intros))
    | dsimp only | intro _

theorem execAtomOr_keeps {z s : State} (c : Fin 272) (g : Fin 16) (ecc : Ecc) (hz : Keeps afresh z s) :
    KeepsOut afresh z (execAtomOr c g ecc s) := by
  unfold execAtomOr
  try dsimp only
  repeat' first
    | (with_reducible first | assumption | apply issueAs_keeps | apply atomBody_keeps | apply KeepsOut.next)
    | (with_reducible first | (apply issueAs_keeps <;> intros))
    | dsimp only | intro _

theorem execAtomXor_keeps {z s : State} (c : Fin 272) (g : Fin 16) (ecc : Ecc) (hz : Keeps afresh z s) :
    KeepsOut afresh z (execAtomXor c g ecc s) := by
  unfold execAtomXor
  try dsimp only
  repeat' first
    | (with_reducible first | assumption | apply issueAs_keeps | apply atomBody_keeps | apply KeepsOut.next)
    | (with_reducible first | (apply issueAs_keeps <;> intros))
    | dsimp only | intro _

theorem execAtomXchg_keeps {z s : State} (c : Fin 272) (g : Fin 16) (ecc : Ecc) (hz : Keeps afresh z s) :
    KeepsOut afresh z (execAtomXchg c g ecc s) := by
  unfold execAtomXchg
  try dsimp only
  repeat' first
    | (with_reducible first | assumption | apply issueAs_keeps | apply atomBody_keeps | apply KeepsOut.next)
    | (with_reducible first | (apply issueAs_keeps <;> intros))
    | dsimp only | intro _

theorem execAtomCas_keeps {z s : State} (c : Fin 272) (g : Fin 16) (ecc : Ecc) (hz : Keeps afresh z s) :
    KeepsOut afresh z (execAtomCas c g ecc s) := by
  unfold execAtomCas
  try dsimp only
  repeat' first
    | (with_reducible first | assumption | apply issueAs_keeps | apply atomBody_keeps | apply KeepsOut.next)
    | (with_reducible first | (apply issueAs_keeps <;> intros))
    | dsimp only | intro _

theorem execAtomFadd_keeps {z s : State} (c : Fin 272) (g : Fin 16) (ecc : Ecc) (hz : Keeps afresh z s) :
    KeepsOut afresh z (execAtomFadd c g ecc s) := by
  unfold execAtomFadd
  try dsimp only
  repeat' first
    | (with_reducible first | assumption | apply issueAs_keeps | apply atomBody_keeps | apply KeepsOut.next)
    | (with_reducible first | (apply issueAs_keeps <;> intros))
    | dsimp only | intro _

theorem bodyFenceD_keeps {z s : State} (c g w : Nat) (e : Ecc) (hz : Keeps afresh z s) : Keeps afresh z (bodyFenceD s c g w e) := by
  unfold bodyFenceD
  try dsimp only
  repeat' first
    | (with_reducible first | assumption | apply stallRetry_keeps | apply State.updGrp_keeps)
    | split
    | dsimp only | intro _

theorem execFenceD_keeps {z s : State} (c : Fin 272) (g : Fin 16) (ecc : Ecc) (hz : Keeps afresh z s) :
    KeepsOut afresh z (execFenceD c g ecc s) := by
  unfold execFenceD
  try dsimp only
  repeat' first
    | (with_reducible first | assumption | apply issueAs_keeps | apply bodyFenceD_keeps | apply KeepsOut.next)
    | (with_reducible first | (apply issueAs_keeps <;> intros))
    | dsimp only | intro _

theorem bodyCacheRetire_keeps {z s : State} (c g w : Nat) (e : Ecc) (hz : Keeps afresh z s) : Keeps afresh z (bodyCacheRetire s c g w e) := by
  unfold bodyCacheRetire
  try dsimp only
  repeat' first
    | (with_reducible first | assumption | apply deviceAccess_keeps)
    | dsimp only | intro _

theorem execCacheRetire_keeps {z s : State} (c : Fin 272) (g : Fin 16) (ecc : Ecc) (hz : Keeps afresh z s) :
    KeepsOut afresh z (execCacheRetire c g ecc s) := by
  unfold execCacheRetire
  try dsimp only
  repeat' first
    | (with_reducible first | assumption | apply issueAs_keeps | apply bodyCacheRetire_keeps | apply KeepsOut.next)
    | (with_reducible first | (apply issueAs_keeps <;> intros))
    | dsimp only | intro _

theorem execDeviceAccessReply_keeps {z s : State} (c : Fin 272) (g : Fin 16) (hz : Keeps afresh z s) :
    KeepsOut afresh z (execDeviceAccessReply c g s) := by
  unfold execDeviceAccessReply
  try dsimp only
  repeat' first
    | (with_reducible first | assumption | apply takeTrap_keeps | apply State.setGrp_keeps)
    | (with_reducible first | (apply Keeps.fold <;> intros) | (apply Keeps.fold2 <;> intros))
    | (with_reducible first | (apply Keeps.fold2' <;> intros) | (apply Keeps.fold3 <;> intros))
    | (with_reducible first | apply KeepsOut.next)
    | split
    | (with_reducible first | refine Keeps.snd (by assumption) ?_ | refine Keeps.fst (by assumption) ?_)
    | (with_reducible first | refine Keeps.opt (by assumption) ?_)
    | simp only [keeps_with] | simp only [id_eq] | dsimp only | intro _

end Sys2Proof.Machine
end

