-- ==== Sys2Proof/Laws/KeepsSlice.lean ====
section
/-! SUPPORT. What each operation of Machine/Slice.lean keeps. -/

set_option linter.all false

namespace Sys2Proof.Machine

variable {afresh : Prop}

theorem sramEvent_keeps {z s : State} (k cls a : Nat) (hz : Keeps afresh z s) :
    Keeps afresh z (sramEvent s k cls a) := by
  unfold sramEvent
  try dsimp only
  repeat' first
    | (with_reducible first | assumption | apply faultIf_keeps)
    | split
    | dsimp only | intro _

theorem sliceCorrection_keeps {z s : State} (k : Nat) (hz : Keeps afresh z s) :
    Keeps afresh z (sliceCorrection s k) := by
  unfold sliceCorrection
  try dsimp only
  repeat' first
    | (with_reducible first | assumption | apply correction_keeps | apply State.updSlice_keeps)
    | simp only [keeps_with] | dsimp only | intro _

theorem noteSliceRow_keeps {z s : State} (k row : Nat) (hz : Keeps afresh z s) :
    Keeps afresh z (noteSliceRow s k row) := by
  unfold noteSliceRow
  try dsimp only
  repeat' first
    | (with_reducible first | assumption | apply State.updSlice_keeps)
    | split
    | dsimp only | intro _

theorem fenceIfPoisoned_keeps {z s : State} (k : Nat) (hz : Keeps afresh z s) :
    Keeps afresh z (fenceIfPoisoned s k) := by
  unfold fenceIfPoisoned
  try dsimp only
  repeat' first
    | (with_reducible first | assumption | apply startSliceFence_keeps)
    | split
    | dsimp only | intro _

theorem poisonLine_keeps {z s : State} (k set way cls : Nat) (hz : Keeps afresh z s) :
    Keeps afresh z (poisonLine s k set way cls) := by
  unfold poisonLine
  try dsimp only
  repeat' first
    | (with_reducible first | assumption | apply State.updSlice_keeps | apply fenceIfPoisoned_keeps)
    | (with_reducible first | apply sramEvent_keeps)
    | simp only [keeps_with] | dsimp only | intro _

theorem sramApply_keeps {z s : State} (k : Nat) (h : Home) (cls : Nat) (ev : SramEv) (hz : Keeps afresh z s) :
    Keeps afresh z (sramApply s k h cls ev) := by
  unfold sramApply
  try dsimp only
  repeat' first
    | (with_reducible first | assumption | apply noteSliceRow_keeps | apply sliceCorrection_keeps)
    | (with_reducible first | apply scheduleTest_keeps | apply fatal_keeps | apply refetchLine_keeps)
    | (with_reducible first | apply poisonLine_keeps | apply State.updSlice_keeps | apply sramEvent_keeps)
    | split
    | (with_reducible first | refine Keeps.snd (by assumption) ?_ | refine Keeps.fst (by assumption) ?_)
    | (with_reducible first | refine Keeps.opt (by assumption) ?_)
    | simp only [keeps_with] | dsimp only | intro _

theorem serve_keeps {z s : State} (k : Nat) (ev : SramEv) (r : Req) (hz : Keeps afresh z s) :
    Keeps afresh z (serve s k ev r) := by
  unfold serve
  try dsimp only
  repeat' first
    | (with_reducible first | assumption | apply chargeSlice_keeps | apply joinMiss_keeps | apply countMerge_keeps)
    | (with_reducible first | apply answer_keeps | apply serveHere_keeps | apply sramApply_keeps)
    | split
    | (with_reducible first | refine Keeps.snd (by assumption) ?_ | refine Keeps.fst (by assumption) ?_)
    | (with_reducible first | refine Keeps.opt (by assumption) ?_)
    | dsimp only | intro _

theorem countSliceHold_keeps {z s : State} (k : Nat) (hz : Keeps afresh z s) :
    Keeps afresh z (countSliceHold s k) := by
  unfold countSliceHold
  try dsimp only
  repeat' first
    | (with_reducible first | assumption | apply countHeld_keeps)
    | split
    | (with_reducible first | refine Keeps.snd (by assumption) ?_ | refine Keeps.fst (by assumption) ?_)
    | (with_reducible first | refine Keeps.opt (by assumption) ?_)
    | dsimp only | intro _

theorem serveNext_keeps {z s : State} (k : Nat) (kind : ReqKind → Bool) (ev : SramEv) (hz : Keeps afresh z s) :
    Keeps afresh z (serveNext s k kind ev) := by
  unfold serveNext
  try dsimp only
  repeat' first
    | (with_reducible first | assumption | apply countSliceHold_keeps | apply State.updSlice_keeps)
    | (with_reducible first | apply snoopReq_keeps | apply release_keeps | apply serve_keeps | apply sendBack_keeps)
    | split
    | (with_reducible first | refine Keeps.snd (by assumption) ?_ | refine Keeps.fst (by assumption) ?_)
    | (with_reducible first | refine Keeps.opt (by assumption) ?_)
    | simp only [keeps_with] | dsimp only | intro _

theorem execSliceRead_keeps {z s : State} (slice : Fin 128) (ev : SramEv) (hz : Keeps afresh z s) :
    KeepsOut afresh z (execSliceRead slice ev s) := by
  unfold execSliceRead
  try dsimp only
  repeat' first
    | (with_reducible first | assumption | apply serveNext_keeps | apply KeepsOut.next)
    | split
    | (with_reducible first | refine Keeps.snd (by assumption) ?_ | refine Keeps.fst (by assumption) ?_)
    | (with_reducible first | refine Keeps.opt (by assumption) ?_)
    | dsimp only | intro _

theorem execSliceWrite_keeps {z s : State} (slice : Fin 128) (ev : SramEv) (hz : Keeps afresh z s) :
    KeepsOut afresh z (execSliceWrite slice ev s) := by
  unfold execSliceWrite
  try dsimp only
  repeat' first
    | (with_reducible first | assumption | apply serveNext_keeps | apply KeepsOut.next)
    | split
    | (with_reducible first | refine Keeps.snd (by assumption) ?_ | refine Keeps.fst (by assumption) ?_)
    | (with_reducible first | refine Keeps.opt (by assumption) ?_)
    | dsimp only | intro _

theorem execLineRetire_keeps {z s : State} (slice : Fin 128 × SramEv) (hz : Keeps afresh z s) :
    KeepsOut afresh z (execLineRetire slice s) := by
  unfold execLineRetire
  try dsimp only
  repeat' first
    | (with_reducible first | assumption | apply serveNext_keeps | apply KeepsOut.next)
    | split
    | (with_reducible first | refine Keeps.snd (by assumption) ?_ | refine Keeps.fst (by assumption) ?_)
    | (with_reducible first | refine Keeps.opt (by assumption) ?_)
    | dsimp only | intro _

theorem execFillArrival_keeps {z s : State} (slice : Fin 128 × Bool) (hz : Keeps afresh z s) :
    KeepsOut afresh z (execFillArrival slice s) := by
  unfold execFillArrival
  try dsimp only
  repeat' first
    | (with_reducible first | assumption | apply State.updSlice_keeps | apply scheduleTest_keeps)
    | (with_reducible first | apply sliceCorrection_keeps | apply fillLine_keeps | apply KeepsOut.next)
    | split
    | (with_reducible first | refine Keeps.snd (by assumption) ?_ | refine Keeps.fst (by assumption) ?_)
    | (with_reducible first | refine Keeps.opt (by assumption) ?_)
    | simp only [keeps_with] | dsimp only | intro _

theorem dealBuckets_keeps {z s : State} (n : Nat) (hz : Keeps afresh z s) :
    Keeps afresh z (dealBuckets s n) := by
  unfold dealBuckets
  try dsimp only
  repeat' first
    | (with_reducible first | assumption | (apply Keeps.fold <;> intros) | (apply Keeps.fold2 <;> intros))
    | (with_reducible first | (apply Keeps.fold2' <;> intros) | (apply Keeps.fold3 <;> intros))
    | split
    | (with_reducible first | apply Keeps.getD)
    | simp only [keeps_with] | dsimp only | intro _

theorem movePoisoned_keeps {z s : State} (l : Line) (hz : Keeps afresh z s) :
    Keeps afresh z (movePoisoned s l) := by
  unfold movePoisoned
  try dsimp only
  repeat' first
    | (with_reducible first | assumption | apply evict_keeps | apply writeBack_keeps | apply fenceIfPoisoned_keeps)
    | (with_reducible first | apply State.setSlice_keeps)
    | split
    | (with_reducible first | refine Keeps.snd (by assumption) ?_ | refine Keeps.fst (by assumption) ?_)
    | (with_reducible first | refine Keeps.opt (by assumption) ?_)
    | simp only [keeps_with] | dsimp only | intro _

theorem rehome_keeps {z s : State} (r : Req) (hz : Keeps afresh z s) :
    Keeps afresh z (rehome s r) := by
  unfold rehome
  try dsimp only
  repeat' first
    | (with_reducible first | assumption | apply deliver_keeps | apply answer_keeps)
    | split
    | (with_reducible first | refine Keeps.snd (by assumption) ?_ | refine Keeps.fst (by assumption) ?_)
    | (with_reducible first | refine Keeps.opt (by assumption) ?_)
    | dsimp only | intro _

theorem fenceSlice_keeps {z s : State} (n reason detail : Nat) (hz : Keeps afresh z s) :
    Keeps afresh z (fenceSlice s n reason detail) := by
  unfold fenceSlice
  try dsimp only
  repeat' first
    | (with_reducible first | assumption | apply writeBack_keeps | apply State.setSlice_keeps)
    | (with_reducible first | apply State.updMc_keeps | apply dealBuckets_keeps | apply floorChange_keeps)
    | (with_reducible first | apply movePoisoned_keeps | apply State.updSlice_keeps | apply rehome_keeps)
    | (with_reducible first | (apply Keeps.fold <;> intros) | (apply Keeps.fold2 <;> intros))
    | (with_reducible first | (apply Keeps.fold2' <;> intros) | (apply Keeps.fold3 <;> intros))
    | split
    | (with_reducible first | refine Keeps.snd (by assumption) ?_ | refine Keeps.fst (by assumption) ?_)
    | (with_reducible first | refine Keeps.opt (by assumption) ?_ | apply Keeps.getD)
    | simp only [keeps_with] | (intro _; unfold codeOk; omega) | (unfold codeOk; omega) | dsimp only | intro _

theorem execSliceFence_keeps {z s : State} (slice : Fin 128) (hz : Keeps afresh z s) :
    KeepsOut afresh z (execSliceFence slice s) := by
  unfold execSliceFence
  try dsimp only
  repeat' first
    | (with_reducible first | assumption | apply goOn_keeps | apply fenceSlice_keeps | apply KeepsOut.next)
    | split
    | (with_reducible first | refine Keeps.snd (by assumption) ?_ | refine Keeps.fst (by assumption) ?_)
    | (with_reducible first | refine Keeps.opt (by assumption) ?_)
    | dsimp only | intro _

end Sys2Proof.Machine
end

