-- ==== Sys2Proof/Laws/KeepsDramCmds.lean ====
section
/-! SUPPORT. What each operation of Machine/DramCmds.lean keeps. -/

set_option linter.all false

namespace Sys2Proof.Machine

variable {afresh : Prop}

theorem countCtlHold_keeps {z s : State} (lpddr : Bool) (c : Nat) (hz : Keeps afresh z s) :
    Keeps afresh z (countCtlHold s lpddr c) := by
  unfold countCtlHold
  try dsimp only
  repeat' first
    | (with_reducible first | assumption | apply countHeld_keeps)
    | split
    | (with_reducible first | refine Keeps.snd (by assumption) ?_ | refine Keeps.fst (by assumption) ?_)
    | (with_reducible first | refine Keeps.opt (by assumption) ?_)
    | dsimp only | intro _

theorem takeAtCtl_keeps {z s : State} (lpddr : Bool) (c i : Nat) (r : MemReq) (hz : Keeps afresh z s) :
    Keeps afresh z (takeAtCtl s lpddr c i r) := by
  unfold takeAtCtl
  try dsimp only
  repeat' first
    | (with_reducible first | assumption | apply chargeCtl_keeps | apply admitCtl_keeps | apply State.updMc_keeps)
    | simp only [keeps_with] | dsimp only | intro _

theorem giveBack_keeps {z s : State} (r : MemReq) (b : Option (List Byte)) (hz : Keeps afresh z s) :
    Keeps afresh z (giveBack s r b) := by
  unfold giveBack
  try dsimp only
  repeat' first
    | (with_reducible first | assumption | apply State.updSlice_keeps)
    | simp only [keeps_with] | dsimp only | intro _

theorem execBondedRead_keeps {z s : State} (ch : Fin 16) (ev : BcEv) (hz : Keeps afresh z s) :
    KeepsOut afresh z (execBondedRead ch ev s) := by
  unfold execBondedRead
  try dsimp only
  repeat' first
    | (with_reducible first | assumption | apply bondedTake_keeps | apply takeAtCtl_keeps | apply giveBack_keeps)
    | (with_reducible first | apply KeepsOut.next)
    | split
    | (with_reducible first | refine Keeps.snd (by assumption) ?_ | refine Keeps.fst (by assumption) ?_)
    | (with_reducible first | refine Keeps.opt (by assumption) ?_)
    | dsimp only | intro _

theorem loseWrite_keeps {z s : State} (c : Nat) (r : MemReq) (hz : Keeps afresh z s) :
    Keeps afresh z (loseWrite s c r) := by
  unfold loseWrite
  try dsimp only
  repeat' first
    | (with_reducible first | assumption | apply memError_keeps | apply floorChange_keeps | apply State.updMc_keeps)
    | split
    | simp only [keeps_with] | (intro _; unfold codeOk; omega) | (unfold codeOk; omega) | dsimp only | intro _

theorem execBondedWrite_keeps {z s : State} (ch : Fin 16) (ev : BcEv) (hz : Keeps afresh z s) :
    KeepsOut afresh z (execBondedWrite ch ev s) := by
  unfold execBondedWrite
  try dsimp only
  repeat' first
    | (with_reducible first | assumption | apply bondedEv_keeps | apply takeAtCtl_keeps | apply loseWrite_keeps)
    | (with_reducible first | apply bondedStore_keeps | apply memError_keeps | apply markBad_keeps)
    | (with_reducible first | apply KeepsOut.next)
    | split
    | (with_reducible first | refine Keeps.snd (by assumption) ?_ | refine Keeps.fst (by assumption) ?_)
    | (with_reducible first | refine Keeps.opt (by assumption) ?_)
    | dsimp only | intro _

theorem lpRead_keeps {z s : State} (c : Nat) (r : MemReq) (noise : LpNoise) (hz : Keeps afresh z s) :
    Keeps afresh z (lpRead s c r noise) := by
  unfold lpRead
  try dsimp only
  repeat' first
    | (with_reducible first | assumption | apply giveBack_keeps | apply fetchPage_keeps | apply pageError_keeps)
    | split
    | (with_reducible first | refine Keeps.snd (by assumption) ?_ | refine Keeps.fst (by assumption) ?_)
    | (with_reducible first | refine Keeps.opt (by assumption) ?_)
    | dsimp only | intro _

theorem execLpddr6Read_keeps {z s : State} (ch : Fin 16) (noise : LpNoise) (hz : Keeps afresh z s) :
    KeepsOut afresh z (execLpddr6Read ch noise s) := by
  unfold execLpddr6Read
  try dsimp only
  repeat' first
    | (with_reducible first | assumption | apply countCtlHold_keeps | apply lpRead_keeps | apply takeAtCtl_keeps)
    | (with_reducible first | apply KeepsOut.next)
    | split
    | (with_reducible first | refine Keeps.snd (by assumption) ?_ | refine Keeps.fst (by assumption) ?_)
    | (with_reducible first | refine Keeps.opt (by assumption) ?_)
    | dsimp only | intro _

theorem execLpddr6Write_keeps {z s : State} (ch : Fin 16) (hz : Keeps afresh z s) :
    KeepsOut afresh z (execLpddr6Write ch s) := by
  unfold execLpddr6Write
  try dsimp only
  repeat' first
    | (with_reducible first | assumption | apply State.setLp_keeps | apply takeAtCtl_keeps)
    | (with_reducible first | apply State.updMc_keeps | apply KeepsOut.next)
    | split
    | (with_reducible first | refine Keeps.snd (by assumption) ?_ | refine Keeps.fst (by assumption) ?_)
    | (with_reducible first | refine Keeps.opt (by assumption) ?_)
    | simp only [keeps_with] | dsimp only | intro _

theorem execMergeEntryTimeout_keeps {z s : State} (ch : Fin 16) (hz : Keeps afresh z s) :
    KeepsOut afresh z (execMergeEntryTimeout ch s) := by
  unfold execMergeEntryTimeout
  try dsimp only
  repeat' first
    | (with_reducible first | assumption | apply State.updMc_keeps | apply KeepsOut.next)
    | split
    | simp only [keeps_with] | dsimp only | intro _

theorem execMergeDrainComplete_keeps {z s : State} (ch : Fin 16) (noise : LpNoise) (hz : Keeps afresh z s) :
    KeepsOut afresh z (execMergeDrainComplete ch noise s) := by
  unfold execMergeDrainComplete
  try dsimp only
  repeat' first
    | (with_reducible first | assumption | apply countHeld_keeps | apply drainEntry_keeps | apply KeepsOut.next)
    | split
    | (with_reducible first | refine Keeps.snd (by assumption) ?_ | refine Keeps.fst (by assumption) ?_)
    | (with_reducible first | refine Keeps.opt (by assumption) ?_)
    | dsimp only | intro _

theorem freshCode_keeps {z s : State} (k : Nat) (hz : Keeps afresh z s) :
    Keeps afresh z (freshCode s k) := by
  unfold freshCode
  try dsimp only
  repeat' first
    | (with_reducible first | assumption)
    | simp only [keeps_with] | dsimp only | intro _

theorem execLevelCodePublish_keeps {z s : State} (ctl : Ctl) (_peaks : List Nat) (hz : Keeps afresh z s) :
    KeepsOut afresh z (execLevelCodePublish ctl _peaks s) := by
  unfold execLevelCodePublish
  try dsimp only
  repeat' first
    | (with_reducible first | assumption | apply freshCode_keeps | apply State.updMc_keeps)
    | (with_reducible first | apply State.updSlice_keeps | apply goOn_keeps | apply release_keeps)
    | (with_reducible first | apply KeepsOut.next)
    | split
    | (with_reducible first | refine Keeps.snd (by assumption) ?_ | refine Keeps.fst (by assumption) ?_)
    | (with_reducible first | refine Keeps.opt (by assumption) ?_)
    | simp only [keeps_with] | dsimp only | intro _

theorem execLevelCodeStale_keeps {z s : State} (kind : Fin 7) (ctl : Ctl) (hz : Keeps afresh z s) :
    KeepsOut afresh z (execLevelCodeStale kind ctl s) := by
  unfold execLevelCodeStale
  try dsimp only
  repeat' first
    | (with_reducible first | assumption | apply KeepsOut.next)
    | split
    | simp only [keeps_with] | dsimp only | intro _

theorem execBudgetWindow_keeps {z s : State} (ctl : Ctl) (hz : Keeps afresh z s) :
    KeepsOut afresh z (execBudgetWindow ctl s) := by
  unfold execBudgetWindow
  try dsimp only
  repeat' first
    | (with_reducible first | assumption | apply State.updSlice_keeps | apply State.updMc_keeps)
    | (with_reducible first | apply KeepsOut.next)
    | split
    | (with_reducible first | refine Keeps.snd (by assumption) ?_ | refine Keeps.fst (by assumption) ?_)
    | (with_reducible first | refine Keeps.opt (by assumption) ?_)
    | simp only [keeps_with] | dsimp only | intro _

end Sys2Proof.Machine
end

