-- ==== Sys2Proof/Laws/KeepsPalm.lean ====
section
/-! SUPPORT. What each operation of Machine/Palm.lean keeps. -/

set_option linter.all false

namespace Sys2Proof.Machine

variable {afresh : Prop}

theorem execLaunchDispatch_keeps {z s : State} (c : Fin 272) (lmError : Bool) (hz : Keeps afresh z s) :
    KeepsOut afresh z (execLaunchDispatch c lmError s) := by
  unfold execLaunchDispatch
  try dsimp only
  repeat' first
    | (with_reducible first | assumption | apply State.setCore_keeps | apply State.updEngine_keeps)
    | (with_reducible first | apply descEvent_keeps | (apply Keeps.fold <;> intros))
    | (with_reducible first | (apply Keeps.fold2 <;> intros) | (apply Keeps.fold2' <;> intros))
    | (with_reducible first | (apply Keeps.fold3 <;> intros) | apply KeepsOut.next)
    | split
    | (with_reducible first | refine Keeps.snd (by assumption) ?_ | refine Keeps.fst (by assumption) ?_)
    | (with_reducible first | refine Keeps.opt (by assumption) ?_)
    | simp only [keeps_with] | simp only [id_eq] | dsimp only | intro _

theorem updLaunch_keeps {z s : State} (id : Nat) (f : Launch → Launch) (hz : Keeps afresh z s) :
    Keeps afresh z (updLaunch s id f) := by
  unfold updLaunch
  try dsimp only
  repeat' first
    | (with_reducible first | assumption)
    | split
    | simp only [keeps_with] | simp only [id_eq] | dsimp only | intro _

theorem refetch_keeps {z s : State} (n id A cls : Nat) (hz : Keeps afresh z s) :
    Keeps afresh z (refetch s n id A cls) := by
  unfold refetch
  try dsimp only
  repeat' first
    | (with_reducible first | assumption | apply refetchLine_keeps | apply updLaunch_keeps)
    | split
    | simp only [keeps_with] | simp only [id_eq] | dsimp only | intro _

theorem startLaunch_keeps {z s : State} (n id : Nat) (c0 : Bool) (L : Launch) (ev : WeightEv) (hz : Keeps afresh z s) :
    Keeps afresh z (startLaunch s n id c0 L ev) := by
  unfold startLaunch
  try dsimp only
  repeat' first
    | (with_reducible first | assumption | apply snoopRanges_keeps | apply countHeld_keeps | apply updLaunch_keeps)
    | (with_reducible first | apply State.updEngine_keeps | apply readSources_keeps | apply refetch_keeps)
    | (with_reducible first | (apply Keeps.fold <;> intros) | (apply Keeps.fold2 <;> intros))
    | (with_reducible first | (apply Keeps.fold2' <;> intros) | (apply Keeps.fold3 <;> intros))
    | split
    | (with_reducible first | refine Keeps.snd (by assumption) ?_ | refine Keeps.fst (by assumption) ?_)
    | (with_reducible first | refine Keeps.opt (by assumption) ?_)
    | simp only [keeps_with] | simp only [id_eq] | dsimp only | intro _

theorem execLaunchStart_keeps {z s : State} (n : Fin 128) (ev : WeightEv) (hz : Keeps afresh z s) :
    KeepsOut afresh z (execLaunchStart n ev s) := by
  unfold execLaunchStart
  try dsimp only
  repeat' first
    | (with_reducible first | assumption | apply startLaunch_keeps | apply updLaunch_keeps)
    | (with_reducible first | apply State.setEngine_keeps | apply KeepsOut.next)
    | split
    | (with_reducible first | refine Keeps.snd (by assumption) ?_ | refine Keeps.fst (by assumption) ?_)
    | (with_reducible first | refine Keeps.opt (by assumption) ?_)
    | simp only [keeps_with] | simp only [id_eq] | dsimp only | intro _

theorem execContext1Resume_keeps {z s : State} (n : Fin 128) (hz : Keeps afresh z s) :
    KeepsOut afresh z (execContext1Resume n s) := by
  unfold execContext1Resume
  try dsimp only
  repeat' first
    | (with_reducible first | assumption | apply State.setEngine_keeps | apply KeepsOut.next)
    | split
    | simp only [keeps_with] | dsimp only | intro _

theorem leaveEngines_keeps {z s : State} (id : Nat) (L : Launch) (d : PalmDesc) (ran : Bool) (fl : List (List Nat × Nat)) (hz : Keeps afresh z s) :
    Keeps afresh z (leaveEngines s id L d ran fl) := by
  unfold leaveEngines
  try dsimp only
  repeat' first
    | (with_reducible first | assumption | apply State.updEngine_keeps | (apply Keeps.fold <;> intros))
    | (with_reducible first | (apply Keeps.fold2 <;> intros) | (apply Keeps.fold2' <;> intros))
    | (with_reducible first | (apply Keeps.fold3 <;> intros))
    | split
    | simp only [keeps_with] | simp only [id_eq] | dsimp only | intro _

theorem readWeights_keeps {z s : State} (id : Nat) (L : Launch) (hz : Keeps afresh z s) :
    Keeps afresh z (readWeights s id L).2 := by
  unfold readWeights
  try dsimp only
  repeat' first
    | (with_reducible first | assumption | apply snoopRanges_keeps | apply refetch_keeps | apply updLaunch_keeps)
    | (with_reducible first | apply memError_keeps | (apply Keeps.fold <;> intros) | (apply Keeps.fold2 <;> intros))
    | (with_reducible first | (apply Keeps.fold2' <;> intros) | (apply Keeps.fold3 <;> intros))
    | split
    | (with_reducible first | refine Keeps.snd (by assumption) ?_ | refine Keeps.fst (by assumption) ?_)
    | (with_reducible first | refine Keeps.opt (by assumption) ?_)
    | simp only [keeps_with] | simp only [id_eq] | dsimp only | intro _

theorem execLaunchComplete_keeps {z s : State} (c : Fin 272) (hz : Keeps afresh z s) :
    KeepsOut afresh z (execLaunchComplete c s) := by
  unfold execLaunchComplete
  try dsimp only
  repeat' first
    | (with_reducible first | assumption | apply readWeights_keeps | apply State.updEngine_keeps)
    | (with_reducible first | apply leaveEngines_keeps | apply tokenDone_keeps | apply orFlags_keeps)
    | (with_reducible first | apply landLm_keeps | (apply Keeps.fold <;> intros) | (apply Keeps.fold2 <;> intros))
    | (with_reducible first | (apply Keeps.fold2' <;> intros) | (apply Keeps.fold3 <;> intros))
    | (with_reducible first | apply KeepsOut.next)
    | split
    | (with_reducible first | refine Keeps.snd (by assumption) ?_ | refine Keeps.fst (by assumption) ?_)
    | (with_reducible first | refine Keeps.opt (by assumption) ?_)
    | simp only [keeps_with] | simp only [id_eq] | dsimp only | intro _

theorem overflowWindow_keeps {z s : State} (lost w : Nat) (ds : List Dealt) (hz : Keeps afresh z s) :
    Keeps afresh z (overflowWindow s lost w ds) := by
  unfold overflowWindow
  try dsimp only
  repeat' first
    | (with_reducible first | assumption | apply writeRefusal_keeps | apply shedStream_keeps)
    | (with_reducible first | (apply Keeps.fold <;> intros) | (apply Keeps.fold2 <;> intros))
    | (with_reducible first | (apply Keeps.fold2' <;> intros) | (apply Keeps.fold3 <;> intros))
    | split
    | (with_reducible first | refine Keeps.snd (by assumption) ?_ | refine Keeps.fst (by assumption) ?_)
    | (with_reducible first | refine Keeps.opt (by assumption) ?_)
    | dsimp only | intro _

theorem restageWindow_keeps {z s : State} (lost w : Nat) (hz : Keeps afresh z s) :
    Keeps afresh z (restageWindow s lost w).2 := by
  unfold restageWindow
  try dsimp only
  repeat' first
    | (with_reducible first | assumption | apply applyDeal_keeps | apply overflowWindow_keeps)
    | split
    | dsimp only | intro _

theorem restageWindows_keeps {z s : State} (lost : Nat) (ws : List Nat) (hz : Keeps afresh z s) :
    Keeps afresh z (restageWindows s lost ws).2 := by
  unfold restageWindows
  try dsimp only
  repeat' first
    | (with_reducible first | assumption | apply restageWindow_keeps | (apply Keeps.fold <;> intros))
    | (with_reducible first | (apply Keeps.fold2 <;> intros) | (apply Keeps.fold2' <;> intros))
    | (with_reducible first | (apply Keeps.fold3 <;> intros))
    | dsimp only | intro _

theorem replayAt_keeps {z s : State} (id n : Nat) (L : Launch) (shs : List Share) (hz : Keeps afresh z s) :
    Keeps afresh z (replayAt s id n L shs) := by
  unfold replayAt
  try dsimp only
  repeat' first
    | (with_reducible first | assumption | apply State.updEngine_keeps | apply readSources_keeps)
    | (with_reducible first | apply snoopRanges_keeps | apply updLaunch_keeps)
    | split
    | simp only [keeps_with] | simp only [id_eq] | dsimp only | intro _

theorem replayParts_keeps {z s : State} (lost : Nat) (ds : List Dealt) (hz : Keeps afresh z s) :
    Keeps afresh z (replayParts s lost ds) := by
  unfold replayParts
  try dsimp only
  repeat' first
    | (with_reducible first | assumption | apply updLaunch_keeps | apply replayAt_keeps | apply faultEvent_keeps)
    | (with_reducible first | (apply Keeps.fold <;> intros) | (apply Keeps.fold2 <;> intros))
    | (with_reducible first | (apply Keeps.fold2' <;> intros) | (apply Keeps.fold3 <;> intros))
    | split
    | simp only [keeps_with] | dsimp only | intro _

theorem execRestageComplete_keeps {z s : State} (n : Fin 128) (hz : Keeps afresh z s) :
    KeepsOut afresh z (execRestageComplete n s) := by
  unfold execRestageComplete
  try dsimp only
  repeat' first
    | (with_reducible first | assumption | apply restageWindows_keeps | apply replayParts_keeps)
    | (with_reducible first | apply State.updEngine_keeps | apply State.setEngine_keeps)
    | (with_reducible first | (apply Keeps.fold <;> intros) | (apply Keeps.fold2 <;> intros))
    | (with_reducible first | (apply Keeps.fold2' <;> intros) | (apply Keeps.fold3 <;> intros))
    | (with_reducible first | apply KeepsOut.next)
    | split
    | simp only [keeps_with] | dsimp only | intro _

end Sys2Proof.Machine
end

