-- ==== Sys2Proof/Laws/KeepsContract.lean ====
section
/-! SUPPORT. What each operation of Machine/Contract.lean keeps. -/

set_option linter.all false

namespace Sys2Proof.Machine

variable {afresh : Prop}

theorem publishFit_keeps {z s : State} (f : FitOk) (hz : Keeps afresh z s) :
    Keeps afresh z (publishFit s f) := by
  unfold publishFit
  try dsimp only
  repeat' first
    | (with_reducible first | assumption | apply State.updStream_keeps | (apply Keeps.fold <;> intros))
    | (with_reducible first | (apply Keeps.fold2 <;> intros) | (apply Keeps.fold2' <;> intros))
    | (with_reducible first | (apply Keeps.fold3 <;> intros))
    | (with_reducible first | apply Keeps.getD)
    | simp only [keeps_with] | simp only [id_eq] | dsimp only | intro _

theorem recheckLoop_keeps {z : State} (im : Image) (k : Nat) : ∀ {s : State}, Keeps afresh z s →
    Keeps afresh z (recheckLoop im k s) := by
  induction k with
  | zero => intro s hz; exact hz
  | succ k ih =>
    intro s hz
    unfold recheckLoop
    dsimp only
    split
    · exact publishFit_keeps _ hz
    · split
      · exact hz
      · split
        · exact ih (shedStream_keeps _ (writeRefusal_keeps _ _ _ hz))
        · exact writeRefusal_keeps _ _ _ hz

theorem endLostRequests_keeps {z s : State} (hz : Keeps afresh z s) :
    Keeps afresh z (endLostRequests s) := by
  unfold endLostRequests
  try dsimp only
  repeat' first
    | (with_reducible first | assumption | apply endLost_keeps | (apply Keeps.fold <;> intros))
    | (with_reducible first | (apply Keeps.fold2 <;> intros) | (apply Keeps.fold2' <;> intros))
    | (with_reducible first | (apply Keeps.fold3 <;> intros))
    | dsimp only | intro _

theorem execRecheck_keeps {z s : State} (hz : Keeps afresh z s) :
    KeepsOut afresh z (execRecheck s) := by
  unfold execRecheck
  try dsimp only
  repeat' first
    | (with_reducible first | assumption | apply recheckLoop_keeps | apply endLostRequests_keeps)
    | (with_reducible first | apply KeepsOut.next)
    | split
    | (with_reducible first | refine Keeps.snd (by assumption) ?_ | refine Keeps.fst (by assumption) ?_)
    | (with_reducible first | refine Keeps.opt (by assumption) ?_)
    | simp only [keeps_with] | dsimp only | intro _

theorem execFullRefit_keeps {z s : State} (hz : Keeps afresh z s) :
    KeepsOut afresh z (execFullRefit s) := by
  unfold execFullRefit
  try dsimp only
  repeat' first
    | (with_reducible first | assumption | apply publishFit_keeps | apply refuseFit_keeps | apply KeepsOut.next)
    | split
    | (with_reducible first | refine Keeps.snd (by assumption) ?_ | refine Keeps.fst (by assumption) ?_)
    | (with_reducible first | refine Keeps.opt (by assumption) ?_)
    | simp only [keeps_with] | dsimp only | intro _

theorem recordLoad_keeps {z s : State} (slot code : Nat) (hz : Keeps afresh z s) :
    Keeps afresh z (recordLoad s slot code) := by
  unfold recordLoad
  try dsimp only
  repeat' first
    | (with_reducible first | assumption)
    | split
    | simp only [keeps_with] | dsimp only | intro _

theorem fitShadow_keeps {z s : State} (n origin : Nat) (hz : Keeps afresh z s) :
    Keeps afresh z (fitShadow s n origin) := by
  unfold fitShadow
  try dsimp only
  repeat' first
    | (with_reducible first | assumption | apply touchShadow_keeps | apply recordLoad_keeps)
    | (with_reducible first | apply State.setShadow_keeps | apply refuseFit_keeps)
    | split
    | (with_reducible first | refine Keeps.snd (by assumption) ?_ | refine Keeps.fst (by assumption) ?_)
    | (with_reducible first | refine Keeps.opt (by assumption) ?_)
    | simp only [keeps_with] | dsimp only | intro _

theorem execShadowRefit_keeps {z s : State} (hz : Keeps afresh z s) :
    KeepsOut afresh z (execShadowRefit s) := by
  unfold execShadowRefit
  try dsimp only
  repeat' first
    | (with_reducible first | assumption | apply fitShadow_keeps | (apply Keeps.fold <;> intros))
    | (with_reducible first | (apply Keeps.fold2 <;> intros) | (apply Keeps.fold2' <;> intros))
    | (with_reducible first | (apply Keeps.fold3 <;> intros) | apply KeepsOut.next)
    | split
    | dsimp only | intro _

theorem execFaultClears_keeps {z s : State} (hz : Keeps afresh z s) :
    KeepsOut afresh z (execFaultClears s) := by
  unfold execFaultClears
  try dsimp only
  repeat' first
    | (with_reducible first | assumption | apply KeepsOut.next)
    | split
    | simp only [keeps_with] | dsimp only | intro _

theorem noteBond_keeps {z s : State} (ut id g lane : Nat) (hz : Keeps afresh z s) :
    Keeps afresh z (noteBond s ut id g lane) := by
  unfold noteBond
  try dsimp only
  repeat' first
    | (with_reducible first | assumption | apply State.updSlice_keeps | apply State.updMc_keeps)
    | split
    | simp only [keeps_with] | simp only [id_eq] | dsimp only | intro _

theorem useSpare_keeps {z s : State} (ut id g lane : Nat) (hz : Keeps afresh z s) : Keeps afresh z (useSpare s ut id g lane) := by
  unfold useSpare
  dsimp only
  split
  · exact Keeps.flp rfl rfl rfl (noteBond_keeps _ _ _ _ hz)
  · exact Keeps.flp rfl rfl rfl (noteBond_keeps _ _ _ _ hz)

theorem dropSet_keeps {z s : State} (ut id k : Nat) (hz : Keeps afresh z s) :
    Keeps afresh z (dropSet s ut id k) := by
  unfold dropSet
  try dsimp only
  repeat' first
    | (with_reducible first | assumption | apply State.updSlice_keeps | apply State.updMc_keeps)
    | split
    | simp only [keeps_with] | simp only [id_eq] | dsimp only | intro _

theorem recordSets_keeps {z s : State} (hz : Keeps afresh z s) :
    Keeps afresh z (recordSets s) := by
  unfold recordSets
  try dsimp only
  repeat' first
    | (with_reducible first | assumption | apply dropSet_keeps | (apply Keeps.fold <;> intros))
    | (with_reducible first | (apply Keeps.fold2 <;> intros) | (apply Keeps.fold2' <;> intros))
    | (with_reducible first | (apply Keeps.fold3 <;> intros))
    | dsimp only | intro _

theorem failBond_keeps {z s : State} (ut id g lane : Nat) (half full : State → State) (hhalf : ∀ t : State, Keeps afresh z t → Keeps afresh z (half t)) (hfull : ∀ t : State, Keeps afresh z t → Keeps afresh z (full t)) (hz : Keeps afresh z s) :
    Keeps afresh z (failBond s ut id g lane half full).2 := by
  unfold failBond
  try dsimp only
  repeat' first
    | (with_reducible first | assumption | apply noteBond_keeps | apply useSpare_keeps | apply dropSet_keeps)
    | (with_reducible first | apply hhalf | apply hfull)
    | split
    | (with_reducible first | refine Keeps.snd (by assumption) ?_ | refine Keeps.fst (by assumption) ?_)
    | (with_reducible first | refine Keeps.opt (by assumption) ?_)
    | simp only [id_eq] | dsimp only | intro _

theorem fieldBond_keeps {z s : State} (ut id g lane : Nat) (hu : ut ≠ 2) (hz : Keeps afresh z s) :
    Keeps afresh z (fieldBond s ut id g lane) := by
  unfold fieldBond
  try dsimp only
  repeat' first
    | (with_reducible first | assumption | apply startSliceFence_keeps | apply floorChange_keeps)
    | (with_reducible first | apply failBond_keeps | apply correction_keeps)
    | split
    | simp only [keeps_with] | (intro _; unfold codeOk; omega) | (unfold codeOk; omega) | simp only [id_eq]
    | dsimp only | intro _

theorem repairRows_keeps {z s : State} (n : Nat) (corrected : List Nat) (hz : Keeps afresh z s) :
    Keeps afresh z (repairRows s n corrected) := by
  unfold repairRows
  try dsimp only
  repeat' first
    | (with_reducible first | assumption | apply correction_keeps | apply State.setSlice_keeps)
    | (with_reducible first | (apply Keeps.fold <;> intros) | (apply Keeps.fold2 <;> intros))
    | (with_reducible first | (apply Keeps.fold2' <;> intros) | (apply Keeps.fold3 <;> intros))
    | simp only [keeps_with] | dsimp only | intro _

theorem testUnit_ne (u : Nat) : (testUnit u).1 ≠ 2 := by
  unfold testUnit
  split <;> simp

theorem testSlot_keeps {z s : State} (x : FieldTest) (ms : List Bond) (hz : Keeps afresh z s) : Keeps afresh z (testSlot s x ms).1 := by
  unfold testSlot
  dsimp only
  split
  · exact hz
  · exact Keeps.fold (fun _ _ h => fieldBond_keeps _ _ _ _ (testUnit_ne _) h) hz

theorem execMaintenanceSlot_keeps {z s : State} (part : Fin 4) (mismatch : List Bond) (correctedRows : List Nat) (hz : Keeps afresh z s) :
    KeepsOut afresh z (execMaintenanceSlot part mismatch correctedRows s) := by
  unfold execMaintenanceSlot
  try dsimp only
  repeat' first
    | (with_reducible first | assumption | apply repairRows_keeps | apply testSlot_keeps | apply KeepsOut.next)
    | split
    | (with_reducible first | refine Keeps.snd (by assumption) ?_ | refine Keeps.fst (by assumption) ?_)
    | (with_reducible first | refine Keeps.opt (by assumption) ?_)
    | simp only [keeps_with] | dsimp only | intro _

theorem execFieldTestTurn_keeps {z s : State} (index : Fin 144) (hz : Keeps afresh z s) :
    KeepsOut afresh z (execFieldTestTurn index s) := by
  unfold execFieldTestTurn
  try dsimp only
  repeat' first
    | (with_reducible first | assumption | apply KeepsOut.next)
    | split
    | simp only [keeps_with] | dsimp only | intro _

end Sys2Proof.Machine
end

