-- ==== Sys2Proof/Laws/KeepsPage.lean ====
section
/-! SUPPORT. What each operation of Machine/Page.lean keeps. -/

set_option linter.all false

namespace Sys2Proof.Machine

variable {afresh : Prop}

theorem authErr_keeps {z s : State} (opcode status : Nat) (hz : Keeps afresh z s) :
    Keeps afresh z (authErr s opcode status) := by
  unfold authErr
  try dsimp only
  repeat' first
    | (with_reducible first | assumption)
    | split
    | simp only [keeps_with] | dsimp only | intro _

theorem refuseCmd_keeps {z s : State} (j : Job) (status : Nat) (hz : Keeps afresh z s) :
    Keeps afresh z (refuseCmd s j status) := by
  unfold refuseCmd
  try dsimp only
  repeat' first
    | (with_reducible first | assumption | apply authErr_keeps | apply dropJob_keeps | apply writeEntry_keeps)
    | dsimp only | intro _

theorem startCmd_keeps {z s : State} (j : Job) (hz : Keeps afresh z s) :
    Keeps afresh z (startCmd s j) := by
  unfold startCmd
  try dsimp only
  repeat' first
    | (with_reducible first | assumption | apply writeEntry_keeps)
    | split
    | simp only [keeps_with] | dsimp only | intro _

theorem progressOf_keeps {z s : State} (entry bytes : Nat) (hz : Keeps afresh z s) :
    Keeps afresh z (progressOf s entry bytes) := by
  unfold progressOf
  try dsimp only
  repeat' first
    | (with_reducible first | assumption | apply State.setEntry_keeps)
    | simp only [keeps_with] | dsimp only | intro _

theorem takeEntry_keeps {z s : State} (e : Nat) (hz : Keeps afresh z s) :
    Keeps afresh z (takeEntry s e) := by
  unfold takeEntry
  try dsimp only
  repeat' first
    | (with_reducible first | assumption | apply State.setEntry_keeps | apply writeEntry_keeps)
    | split
    | simp only [keeps_with] | dsimp only | intro _

theorem execCommandPagePoll_keeps {z s : State} (hz : Keeps afresh z s) :
    KeepsOut afresh z (execCommandPagePoll s) := by
  unfold execCommandPagePoll
  try dsimp only
  repeat' first
    | (with_reducible first | assumption | apply takeEntry_keeps | (apply Keeps.fold <;> intros))
    | (with_reducible first | (apply Keeps.fold2 <;> intros) | (apply Keeps.fold2' <;> intros))
    | (with_reducible first | (apply Keeps.fold3 <;> intros) | apply KeepsOut.next)
    | split
    | dsimp only | intro _

theorem fetchLink_keeps {z s : State} (a n : Nat) (data : Option (List Byte)) (hz : Keeps afresh z s) :
    Keeps afresh z (fetchLink s a n data).2 := by
  unfold fetchLink
  try dsimp only
  repeat' first
    | (with_reducible first | assumption | apply mayAccess_keeps | apply snoopRead_keeps | apply devRead_keeps)
    | split
    | (with_reducible first | refine Keeps.snd (by assumption) ?_ | refine Keeps.fst (by assumption) ?_)
    | (with_reducible first | refine Keeps.opt (by assumption) ?_)
    | dsimp only | intro _

theorem withLink_keeps {z s : State} (j : Job) (a n : Nat) (data : Option (List Byte)) (k : State → List Byte → State) (hk : ∀ (t : State) x0, Keeps afresh z t → Keeps afresh z (k t x0)) (hz : Keeps afresh z s) :
    Keeps afresh z (withLink s j a n data k) := by
  unfold withLink
  try dsimp only
  repeat' first
    | (with_reducible first | assumption | apply fetchLink_keeps | apply refuseCmd_keeps | apply endCmd_keeps)
    | (with_reducible first | apply hk)
    | split
    | (with_reducible first | refine Keeps.snd (by assumption) ?_ | refine Keeps.fst (by assumption) ?_)
    | (with_reducible first | refine Keeps.opt (by assumption) ?_)
    | dsimp only | intro _

end Sys2Proof.Machine
end

