-- ==== Sys2Proof/Laws/KeepsLoad.lean ====
section
/-! SUPPORT. What each operation of Machine/Load.lean keeps. -/

set_option linter.all false

namespace Sys2Proof.Machine

variable {afresh : Prop}

theorem installCluster_keeps {z s : State} (im : Image) (r : StructRec) (cl : Nat) (hz : Keeps afresh z s) :
    Keeps afresh z (installCluster s im r cl) := by
  unfold installCluster
  try dsimp only
  repeat' first
    | (with_reducible first | assumption | apply State.updCore_keeps | (apply Keeps.fold <;> intros))
    | (with_reducible first | (apply Keeps.fold2 <;> intros) | (apply Keeps.fold2' <;> intros))
    | (with_reducible first | (apply Keeps.fold3 <;> intros))
    | split
    | (with_reducible first | refine Keeps.snd (by assumption) ?_ | refine Keeps.fst (by assumption) ?_)
    | (with_reducible first | refine Keeps.opt (by assumption) ?_)
    | simp only [id_eq] | dsimp only | intro _

theorem installStructure_keeps {z s : State} (im : Image) (bind : List (Nat × Nat)) (hz : Keeps afresh z s) :
    Keeps afresh z (installStructure s im bind) := by
  unfold installStructure
  try dsimp only
  repeat' first
    | (with_reducible first | assumption | apply State.updCore_keeps | apply installCluster_keeps)
    | (with_reducible first | (apply Keeps.fold <;> intros) | (apply Keeps.fold2 <;> intros))
    | (with_reducible first | (apply Keeps.fold2' <;> intros) | (apply Keeps.fold3 <;> intros))
    | split
    | (with_reducible first | refine Keeps.snd (by assumption) ?_ | refine Keeps.fst (by assumption) ?_)
    | (with_reducible first | refine Keeps.opt (by assumption) ?_)
    | simp only [keeps_with] | dsimp only | intro _

theorem endWindows_keeps {z s : State} (hz : Keeps afresh z s) :
    Keeps afresh z (endWindows s) := by
  unfold endWindows
  try dsimp only
  repeat' first
    | (with_reducible first | assumption | apply State.updSlice_keeps | (apply Keeps.fold <;> intros))
    | (with_reducible first | (apply Keeps.fold2 <;> intros) | (apply Keeps.fold2' <;> intros))
    | (with_reducible first | (apply Keeps.fold3 <;> intros))
    | (with_reducible first | apply Keeps.getD)
    | simp only [keeps_with] | dsimp only | intro _

theorem relabel_keeps {z s : State} (n : Nat) (hz : Keeps afresh z s) :
    Keeps afresh z (relabel s n) := by
  unfold relabel
  try dsimp only
  repeat' first
    | (with_reducible first | assumption | apply State.updSlice_keeps | (apply Keeps.fold <;> intros))
    | (with_reducible first | (apply Keeps.fold2 <;> intros) | (apply Keeps.fold2' <;> intros))
    | (with_reducible first | (apply Keeps.fold3 <;> intros))
    | split
    | (with_reducible first | apply Keeps.getD)
    | simp only [keeps_with] | dsimp only | intro _

theorem clearWays_keeps {z s : State} (n : Nat) (hz : Keeps afresh z s) :
    Keeps afresh z (clearWays s n) := by
  unfold clearWays
  try dsimp only
  repeat' first
    | (with_reducible first | assumption | apply evict_keeps | apply writeBack_keeps | apply State.updSlice_keeps)
    | (with_reducible first | apply movePoisoned_keeps | (apply Keeps.fold <;> intros))
    | (with_reducible first | (apply Keeps.fold2 <;> intros) | (apply Keeps.fold2' <;> intros))
    | (with_reducible first | (apply Keeps.fold3 <;> intros))
    | (with_reducible first | apply Keeps.getD)
    | dsimp only | intro _

theorem placeLocal_keeps {z s : State} (w : WinRec) (n : Nat) (hz : Keeps afresh z s) :
    Keeps afresh z (placeLocal s w n) := by
  unfold placeLocal
  try dsimp only
  repeat' first
    | (with_reducible first | assumption | apply State.updSlice_keeps | (apply Keeps.fold <;> intros))
    | (with_reducible first | (apply Keeps.fold2 <;> intros) | (apply Keeps.fold2' <;> intros))
    | (with_reducible first | (apply Keeps.fold3 <;> intros))
    | dsimp only | intro _

theorem beginWindows_keeps {z s : State} (hz : Keeps afresh z s) :
    Keeps afresh z (beginWindows s) := by
  unfold beginWindows
  try dsimp only
  repeat' first
    | (with_reducible first | assumption | apply relabel_keeps | apply clearWays_keeps | apply placeLocal_keeps)
    | (with_reducible first | (apply Keeps.fold <;> intros) | (apply Keeps.fold2 <;> intros))
    | (with_reducible first | (apply Keeps.fold2' <;> intros) | (apply Keeps.fold3 <;> intros))
    | dsimp only | intro _

theorem clearKv_keeps {z s : State} (hz : Keeps afresh z s) :
    Keeps afresh z (clearKv s) := by
  unfold clearKv
  try dsimp only
  repeat' first
    | (with_reducible first | assumption | apply State.setKv_keeps | (apply Keeps.fold <;> intros))
    | (with_reducible first | (apply Keeps.fold2 <;> intros) | (apply Keeps.fold2' <;> intros))
    | (with_reducible first | (apply Keeps.fold3 <;> intros))
    | dsimp only | intro _

theorem initKv_keeps {z s : State} (n : Nat) (k : KvLayout) (hz : Keeps afresh z s) :
    Keeps afresh z (initKv s n k) := by
  unfold initKv
  try dsimp only
  repeat' first
    | (with_reducible first | assumption | apply State.setKv_keeps | apply devWrite_keeps)
    | (with_reducible first | (apply Keeps.fold <;> intros) | (apply Keeps.fold2 <;> intros))
    | (with_reducible first | (apply Keeps.fold2' <;> intros) | (apply Keeps.fold3 <;> intros))
    | (with_reducible first | apply Keeps.getD)
    | dsimp only | intro _

theorem updateHolds_keeps {z s : State} (hz : Keeps afresh z s) :
    Keeps afresh z (updateHolds s) := by
  unfold updateHolds
  try dsimp only
  repeat' first
    | (with_reducible first | assumption | apply State.updStream_keeps | (apply Keeps.fold <;> intros))
    | (with_reducible first | (apply Keeps.fold2 <;> intros) | (apply Keeps.fold2' <;> intros))
    | (with_reducible first | (apply Keeps.fold3 <;> intros))
    | split
    | (with_reducible first | refine Keeps.snd (by assumption) ?_ | refine Keeps.fst (by assumption) ?_)
    | (with_reducible first | refine Keeps.opt (by assumption) ?_)
    | simp only [keeps_with] | simp only [id_eq] | dsimp only | intro _

theorem endImage_keeps {z s : State} (hz : Keeps afresh z s) :
    Keeps afresh z (endImage s) := by
  unfold endImage
  try dsimp only
  repeat' first
    | (with_reducible first | assumption | apply clearKv_keeps | apply endWindows_keeps | apply endCmd_keeps)
    | (with_reducible first | apply State.updEngine_keeps | (apply Keeps.fold <;> intros))
    | (with_reducible first | (apply Keeps.fold2 <;> intros) | (apply Keeps.fold2' <;> intros))
    | (with_reducible first | (apply Keeps.fold3 <;> intros))
    | simp only [keeps_with] | dsimp only | intro _

theorem noImage_keeps {z s : State} (hz : Keeps afresh z s) :
    Keeps afresh z (noImage s) := by
  unfold noImage
  try dsimp only
  repeat' first
    | (with_reducible first | assumption | apply followBinding_keeps | apply endImage_keeps)
    | dsimp only | intro _

theorem startStreams_keeps {z s : State} (im : Image) (f : FitOk) (hz : Keeps afresh z s) :
    Keeps afresh z (startStreams s im f) := by
  unfold startStreams
  try dsimp only
  repeat' first
    | (with_reducible first | assumption | apply State.setStream_keeps | apply updateHolds_keeps)
    | (with_reducible first | apply publishFit_keeps | (apply Keeps.fold <;> intros))
    | (with_reducible first | (apply Keeps.fold2 <;> intros) | (apply Keeps.fold2' <;> intros))
    | (with_reducible first | (apply Keeps.fold3 <;> intros))
    | simp only [id_eq] | dsimp only | intro _

theorem unthrottle_keeps {z s : State} (before : List Nat) (hz : Keeps afresh z s) :
    Keeps afresh z (unthrottle s before) := by
  unfold unthrottle
  try dsimp only
  repeat' first
    | (with_reducible first | assumption | apply setLevel_keeps | (apply Keeps.fold <;> intros))
    | (with_reducible first | (apply Keeps.fold2 <;> intros) | (apply Keeps.fold2' <;> intros))
    | (with_reducible first | (apply Keeps.fold3 <;> intros))
    | dsimp only | intro _

theorem placeImage_keeps {z s : State} (im : Image) (bind : List (Nat × Nat)) (hz : Keeps afresh z s) :
    Keeps afresh z (placeImage s im bind) := by
  unfold placeImage
  try dsimp only
  repeat' first
    | (with_reducible first | assumption | apply endImage_keeps | apply beginWindows_keeps | apply initKv_keeps)
    | (with_reducible first | apply followBinding_keeps | apply unthrottle_keeps | apply installStructure_keeps)
    | (with_reducible first | (apply Keeps.fold <;> intros) | (apply Keeps.fold2 <;> intros))
    | (with_reducible first | (apply Keeps.fold2' <;> intros) | (apply Keeps.fold3 <;> intros))
    | split
    | (with_reducible first | refine Keeps.snd (by assumption) ?_ | refine Keeps.fst (by assumption) ?_)
    | (with_reducible first | refine Keeps.opt (by assumption) ?_ | apply Keeps.getD)
    | simp only [keeps_with] | dsimp only | intro _

theorem startImage_keeps {z s : State} (slot : Nat) (im : Image) (f : FitOk) (hz : Keeps afresh z s) :
    Keeps afresh z (startImage s slot im f) := by
  unfold startImage
  try dsimp only
  repeat' first
    | (with_reducible first | assumption | apply startStreams_keeps | (apply Keeps.fold <;> intros))
    | (with_reducible first | (apply Keeps.fold2 <;> intros) | (apply Keeps.fold2' <;> intros))
    | (with_reducible first | (apply Keeps.fold3 <;> intros))
    | simp only [keeps_with] | dsimp only | intro _

theorem keepReferenced_keeps {z s : State} (im : Image) (hz : Keeps afresh z s) :
    Keeps afresh z (keepReferenced s im) := by
  unfold keepReferenced
  try dsimp only
  repeat' first
    | (with_reducible first | assumption)
    | simp only [keeps_with] | dsimp only | intro _

end Sys2Proof.Machine
end

