-- ==== Sys2Proof/Laws/KeepsProfile.lean ====
section
/-! SUPPORT. What each operation of Machine/Profile.lean keeps. -/

set_option linter.all false

namespace Sys2Proof.Machine

variable {afresh : Prop}

theorem beginSwitch_keeps {z s : State} (entry target : Nat) (abort : Bool) (hz : Keeps afresh z s) :
    Keeps afresh z (beginSwitch s entry target abort) := by
  unfold beginSwitch
  try dsimp only
  repeat' first
    | (with_reducible first | assumption | apply State.updStream_keeps | apply abortGoesOn_keeps)
    | (with_reducible first | apply stopRequests_keeps | (apply Keeps.fold <;> intros))
    | (with_reducible first | (apply Keeps.fold2 <;> intros) | (apply Keeps.fold2' <;> intros))
    | (with_reducible first | (apply Keeps.fold3 <;> intros))
    | split
    | simp only [keeps_with] | dsimp only | intro _

theorem execProfileSwitch_keeps {z s : State} (entry : Fin 32) (hz : Keeps afresh z s) :
    KeepsOut afresh z (execProfileSwitch entry s) := by
  unfold execProfileSwitch
  try dsimp only
  repeat' first
    | (with_reducible first | assumption | apply refuseCmd_keeps | apply recordLoad_keeps | apply beginSwitch_keeps)
    | (with_reducible first | apply startCmd_keeps | apply KeepsOut.next)
    | split
    | (with_reducible first | refine Keeps.snd (by assumption) ?_ | refine Keeps.fst (by assumption) ?_)
    | (with_reducible first | refine Keeps.opt (by assumption) ?_)
    | dsimp only | intro _

theorem execProfileSwitchDrainEnd_keeps {z s : State} (hz : Keeps afresh z s) :
    KeepsOut afresh z (execProfileSwitchDrainEnd s) := by
  unfold execProfileSwitchDrainEnd
  try dsimp only
  repeat' first
    | (with_reducible first | assumption | apply startQuiesce_keeps | apply KeepsOut.next)
    | split
    | (with_reducible first | refine Keeps.snd (by assumption) ?_ | refine Keeps.fst (by assumption) ?_)
    | (with_reducible first | refine Keeps.opt (by assumption) ?_)
    | dsimp only | intro _

theorem beginFlash_keeps {z s : State} (op : FlashOp) (hz : Keeps afresh z s) :
    Keeps afresh z (beginFlash s op) := by
  unfold beginFlash
  try dsimp only
  repeat' first
    | (with_reducible first | assumption)
    | simp only [keeps_with] | dsimp only | intro _

theorem slotBusy_keeps {z s : State} (n : Nat) (hz : Keeps afresh z s) :
    Keeps afresh z (slotBusy s n) := by
  unfold slotBusy
  try dsimp only
  repeat' first
    | (with_reducible first | assumption | apply State.setFslot_keeps | apply State.setShadow_keeps)
    | simp only [keeps_with] | dsimp only | intro _

theorem execSlotWrite_keeps {z s : State} (entry : Fin 32) (data : Option (List Byte)) (hz : Keeps afresh z s) :
    KeepsOut afresh z (execSlotWrite entry data s) := by
  unfold execSlotWrite
  try dsimp only
  repeat' first
    | (with_reducible first | assumption | apply refuseCmd_keeps | apply withLink_keeps | apply progressOf_keeps)
    | (with_reducible first | apply startCmd_keeps | apply beginFlash_keeps | apply slotBusy_keeps)
    | (with_reducible first | apply KeepsOut.next)
    | split
    | (with_reducible first | refine Keeps.snd (by assumption) ?_ | refine Keeps.fst (by assumption) ?_)
    | (with_reducible first | refine Keeps.opt (by assumption) ?_)
    | dsimp only | intro _

theorem execSlotErase_keeps {z s : State} (entry : Fin 32) (hz : Keeps afresh z s) :
    KeepsOut afresh z (execSlotErase entry s) := by
  unfold execSlotErase
  try dsimp only
  repeat' first
    | (with_reducible first | assumption | apply refuseCmd_keeps | apply beginFlash_keeps | apply slotBusy_keeps)
    | (with_reducible first | apply startCmd_keeps | apply KeepsOut.next)
    | split
    | (with_reducible first | refine Keeps.snd (by assumption) ?_ | refine Keeps.fst (by assumption) ?_)
    | (with_reducible first | refine Keeps.opt (by assumption) ?_)
    | dsimp only | intro _

theorem execFwWrite_keeps {z s : State} (entry : Fin 32) (data : Option (List Byte)) (hz : Keeps afresh z s) :
    KeepsOut afresh z (execFwWrite entry data s) := by
  unfold execFwWrite
  try dsimp only
  repeat' first
    | (with_reducible first | assumption | apply refuseCmd_keeps | apply withLink_keeps | apply progressOf_keeps)
    | (with_reducible first | apply startCmd_keeps | apply beginFlash_keeps | apply KeepsOut.next)
    | split
    | (with_reducible first | refine Keeps.snd (by assumption) ?_ | refine Keeps.fst (by assumption) ?_)
    | (with_reducible first | refine Keeps.opt (by assumption) ?_)
    | simp only [keeps_with] | dsimp only | intro _

theorem slotWritten_keeps {z s : State} (entry n : Nat) (b : List Byte) (hz : Keeps afresh z s) :
    Keeps afresh z (slotWritten s entry n b) := by
  unfold slotWritten
  try dsimp only
  repeat' first
    | (with_reducible first | assumption | apply endCmd_keeps | apply recordLoad_keeps | apply State.setFslot_keeps)
    | (with_reducible first | apply State.putShadow_keeps | apply State.setShadow_keeps | apply refuseFit_keeps)
    | split
    | (with_reducible first | refine Keeps.snd (by assumption) ?_ | refine Keeps.fst (by assumption) ?_)
    | (with_reducible first | refine Keeps.opt (by assumption) ?_)
    | simp only [keeps_with] | dsimp only | intro _

theorem fwWritten_keeps {z s : State} (entry : Nat) (copyB : Bool) (b : List Byte) (hz : Keeps afresh z s) :
    Keeps afresh z (fwWritten s entry copyB b) := by
  unfold fwWritten
  try dsimp only
  repeat' first
    | (with_reducible first | assumption | apply endCmd_keeps)
    | split
    | simp only [keeps_with] | dsimp only | intro _

theorem execFlashWriteComplete_keeps {z s : State} (hz : Keeps afresh z s) :
    KeepsOut afresh z (execFlashWriteComplete s) := by
  unfold execFlashWriteComplete
  try dsimp only
  repeat' first
    | (with_reducible first | assumption | apply slotWritten_keeps | apply endCmd_keeps)
    | (with_reducible first | apply State.setFslot_keeps | apply fwWritten_keeps | apply KeepsOut.next)
    | split
    | (with_reducible first | refine Keeps.snd (by assumption) ?_ | refine Keeps.fst (by assumption) ?_)
    | (with_reducible first | refine Keeps.opt (by assumption) ?_)
    | simp only [keeps_with] | dsimp only | intro _

end Sys2Proof.Machine
end

