-- ==== Sys2Proof/Laws/KeepsBundle.lean ====
section
/-! SUPPORT. What each operation of Machine/Bundle.lean keeps. -/

set_option linter.all false

namespace Sys2Proof.Machine

variable {afresh : Prop}

theorem writeHome_keeps {z s : State} (a : Nat) (bs : List Byte) (hz : Keeps afresh z s) :
    Keeps afresh z (writeHome s a bs) := by
  unfold writeHome
  try dsimp only
  repeat' first
    | (with_reducible first | assumption | apply evict_keeps | apply writeBack_keeps | apply devWrite_keeps)
    | (with_reducible first | (apply Keeps.fold <;> intros) | (apply Keeps.fold2 <;> intros))
    | (with_reducible first | (apply Keeps.fold2' <;> intros) | (apply Keeps.fold3 <;> intros))
    | split
    | (with_reducible first | refine Keeps.snd (by assumption) ?_ | refine Keeps.fst (by assumption) ?_)
    | (with_reducible first | refine Keeps.opt (by assumption) ?_)
    | dsimp only | intro _

theorem dropOverlap_keeps {z s : State} (a n : Nat) (hz : Keeps afresh z s) :
    Keeps afresh z (dropOverlap s a n) := by
  unfold dropOverlap
  try dsimp only
  repeat' first
    | (with_reducible first | assumption)
    | simp only [keeps_with] | dsimp only | intro _

theorem loadChunk_keeps {z s : State} (entry home size : Nat) (key b : List Byte) (j : Nat) (hz : Keeps afresh z s) :
    KeepsOpt afresh z (loadChunk entry home size key b j s) := by
  intro t e
  unfold loadChunk at e
  obtain ⟨p, -, rfl⟩ := Option.map_eq_some_iff.1 e
  exact progressOf_keeps _ _ (dropOverlap_keeps _ _ (writeHome_keeps _ _ hz))

theorem loadChunks_keeps {z s : State} (entry home size : Nat) (key b : List Byte) (k : Nat) (hz : Keeps afresh z s) :
    Keeps afresh z (loadChunks entry home size key b k s).2 := by
  unfold loadChunks
  try dsimp only
  repeat' first
    | (with_reducible first | assumption | apply loadChunk_keeps | (apply Keeps.fold <;> intros))
    | (with_reducible first | (apply Keeps.fold2 <;> intros) | (apply Keeps.fold2' <;> intros))
    | (with_reducible first | (apply Keeps.fold3 <;> intros))
    | split
    | (with_reducible first | refine Keeps.snd (by assumption) ?_ | refine Keeps.fst (by assumption) ?_)
    | (with_reducible first | refine Keeps.opt (by assumption) ?_)
    | dsimp only | intro _

theorem unlist_keeps {z s : State} (ref : BundleRef) (hz : Keeps afresh z s) :
    Keeps afresh z (unlist s ref) := by
  unfold unlist
  try dsimp only
  repeat' first
    | (with_reducible first | assumption)
    | simp only [keeps_with] | dsimp only | intro _

theorem endLoad_keeps {z s : State} (entry : Nat) (ref : BundleRef) (ok : Bool) (hz : Keeps afresh z s) :
    Keeps afresh z (endLoad s entry ref ok) := by
  unfold endLoad
  try dsimp only
  repeat' first
    | (with_reducible first | assumption | apply unlist_keeps | apply endCmd_keeps | apply updateHolds_keeps)
    | split
    | simp only [keeps_with] | dsimp only | intro _

theorem loadBundle_keeps {z s : State} (entry : Nat) (ref : BundleRef) (b : List Byte) (hz : Keeps afresh z s) :
    Keeps afresh z (loadBundle s entry ref b) := by
  unfold loadBundle
  try dsimp only
  repeat' first
    | (with_reducible first | assumption | apply endCmd_keeps | apply loadChunks_keeps | apply endLoad_keeps)
    | split
    | (with_reducible first | refine Keeps.snd (by assumption) ?_ | refine Keeps.fst (by assumption) ?_)
    | (with_reducible first | refine Keeps.opt (by assumption) ?_)
    | dsimp only | intro _

theorem execBundleLoad_keeps {z s : State} (entry : Fin 32) (data : Option (List Byte)) (hz : Keeps afresh z s) :
    KeepsOut afresh z (execBundleLoad entry data s) := by
  unfold execBundleLoad
  try dsimp only
  repeat' first
    | (with_reducible first | assumption | apply refuseCmd_keeps | apply withLink_keeps | apply loadBundle_keeps)
    | (with_reducible first | apply startCmd_keeps | apply KeepsOut.next)
    | split
    | (with_reducible first | refine Keeps.snd (by assumption) ?_ | refine Keeps.fst (by assumption) ?_)
    | (with_reducible first | refine Keeps.opt (by assumption) ?_)
    | dsimp only | intro _

theorem zeroLocal_keeps {z s : State} (n a len : Nat) (hz : Keeps afresh z s) :
    Keeps afresh z (zeroLocal s n a len) := by
  unfold zeroLocal
  try dsimp only
  repeat' first
    | (with_reducible first | assumption | apply State.updSlice_keeps | (apply Keeps.fold <;> intros))
    | (with_reducible first | (apply Keeps.fold2 <;> intros) | (apply Keeps.fold2' <;> intros))
    | (with_reducible first | (apply Keeps.fold3 <;> intros))
    | split
    | (with_reducible first | refine Keeps.snd (by assumption) ?_ | refine Keeps.fst (by assumption) ?_)
    | (with_reducible first | refine Keeps.opt (by assumption) ?_ | apply Keeps.getD)
    | simp only [keeps_with] | dsimp only | intro _

theorem dropShares_keeps {z s : State} (n i : Nat) (hz : Keeps afresh z s) :
    Keeps afresh z (dropShares s n i) := by
  unfold dropShares
  try dsimp only
  repeat' first
    | (with_reducible first | assumption | apply State.updEngine_keeps | apply zeroLocal_keeps)
    | (with_reducible first | (apply Keeps.fold <;> intros) | (apply Keeps.fold2 <;> intros))
    | (with_reducible first | (apply Keeps.fold2' <;> intros) | (apply Keeps.fold3 <;> intros))
    | simp only [keeps_with] | dsimp only | intro _

theorem evictBundle_keeps {z s : State} (i : Nat) (ref : BundleRef) (hz : Keeps afresh z s) :
    Keeps afresh z (evictBundle s i ref) := by
  unfold evictBundle
  try dsimp only
  repeat' first
    | (with_reducible first | assumption | apply dropShares_keeps | apply State.updSlice_keeps)
    | (with_reducible first | (apply Keeps.fold <;> intros) | (apply Keeps.fold2 <;> intros))
    | (with_reducible first | (apply Keeps.fold2' <;> intros) | (apply Keeps.fold3 <;> intros))
    | split
    | (with_reducible first | refine Keeps.snd (by assumption) ?_ | refine Keeps.fst (by assumption) ?_)
    | (with_reducible first | refine Keeps.opt (by assumption) ?_)
    | simp only [keeps_with] | dsimp only | intro _

theorem stageInto_keeps {z s : State} (i : Nat) (ref : BundleRef) (w : WinRec) (hz : Keeps afresh z s) :
    Keeps afresh z (stageInto s i ref w).2 := by
  unfold stageInto
  try dsimp only
  repeat' first
    | (with_reducible first | assumption | apply devTake_keeps | apply stageMats_keeps | apply copyRange_keeps)
    | split
    | simp only [keeps_with] | dsimp only | intro _

theorem runStaging_keeps {z s : State} (i : Nat) (entry : Option Nat) (hz : Keeps afresh z s) :
    Keeps afresh z (runStaging s i entry) := by
  unfold runStaging
  try dsimp only
  repeat' first
    | (with_reducible first | assumption | apply endCmd_keeps | apply updateHolds_keeps | apply evictBundle_keeps)
    | (with_reducible first | apply stageInto_keeps | (apply Keeps.fold <;> intros))
    | (with_reducible first | (apply Keeps.fold2 <;> intros) | (apply Keeps.fold2' <;> intros))
    | (with_reducible first | (apply Keeps.fold3 <;> intros))
    | split
    | (with_reducible first | refine Keeps.snd (by assumption) ?_ | refine Keeps.fst (by assumption) ?_)
    | (with_reducible first | refine Keeps.opt (by assumption) ?_)
    | dsimp only | intro _

theorem stagingMay_keeps {z s : State} (win i : Nat) (evicts : Bool) (mark : Nat) (hz : Keeps afresh z s) :
    Keeps afresh z (stagingMay s win i evicts mark).2 := by
  unfold stagingMay
  try dsimp only
  repeat' first
    | (with_reducible first | assumption | apply mayAccess_keeps | apply snoopRead_keeps)
    | split
    | (with_reducible first | refine Keeps.snd (by assumption) ?_ | refine Keeps.fst (by assumption) ?_)
    | (with_reducible first | refine Keeps.opt (by assumption) ?_)
    | dsimp only | intro _

theorem runEviction_keeps {z s : State} (i : Nat) (entry : Option Nat) (hz : Keeps afresh z s) :
    Keeps afresh z (runEviction s i entry) := by
  unfold runEviction
  try dsimp only
  repeat' first
    | (with_reducible first | assumption | apply evictBundle_keeps | apply endCmd_keeps | apply updateHolds_keeps)
    | split
    | (with_reducible first | refine Keeps.snd (by assumption) ?_ | refine Keeps.fst (by assumption) ?_)
    | (with_reducible first | refine Keeps.opt (by assumption) ?_)
    | dsimp only | intro _

theorem execWindowStagingStart_keeps {z s : State} (win : Fin 64) (hz : Keeps afresh z s) :
    KeepsOut afresh z (execWindowStagingStart win s) := by
  unfold execWindowStagingStart
  try dsimp only
  repeat' first
    | (with_reducible first | assumption | apply stagingMay_keeps | apply runEviction_keeps)
    | (with_reducible first | apply runStaging_keeps | apply KeepsOut.next)
    | split
    | (with_reducible first | refine Keeps.snd (by assumption) ?_ | refine Keeps.fst (by assumption) ?_)
    | (with_reducible first | refine Keeps.opt (by assumption) ?_)
    | simp only [keeps_with] | dsimp only | intro _

theorem queueStaging_keeps {z s : State} (w i : Nat) (evicts : Bool) (entry : Option Nat) (hz : Keeps afresh z s) :
    Keeps afresh z (queueStaging s w i evicts entry) := by
  unfold queueStaging
  try dsimp only
  repeat' first
    | (with_reducible first | assumption)
    | simp only [keeps_with] | dsimp only | intro _

theorem execBundleStage_keeps {z s : State} (entry : Fin 32) (hz : Keeps afresh z s) :
    KeepsOut afresh z (execBundleStage entry s) := by
  unfold execBundleStage
  try dsimp only
  repeat' first
    | (with_reducible first | assumption | apply refuseCmd_keeps | apply queueStaging_keeps | apply startCmd_keeps)
    | (with_reducible first | apply KeepsOut.next)
    | split
    | (with_reducible first | refine Keeps.snd (by assumption) ?_ | refine Keeps.fst (by assumption) ?_)
    | (with_reducible first | refine Keeps.opt (by assumption) ?_)
    | dsimp only | intro _

theorem execBundleEvict_keeps {z s : State} (entry : Fin 32) (hz : Keeps afresh z s) :
    KeepsOut afresh z (execBundleEvict entry s) := by
  unfold execBundleEvict
  try dsimp only
  repeat' first
    | (with_reducible first | assumption | apply refuseCmd_keeps | apply queueStaging_keeps | apply startCmd_keeps)
    | (with_reducible first | apply KeepsOut.next)
    | split
    | (with_reducible first | refine Keeps.snd (by assumption) ?_ | refine Keeps.fst (by assumption) ?_)
    | (with_reducible first | refine Keeps.opt (by assumption) ?_)
    | dsimp only | intro _

theorem execStageAtStart_keeps {z s : State} (ref : Fin 1024) (hz : Keeps afresh z s) :
    KeepsOut afresh z (execStageAtStart ref s) := by
  unfold execStageAtStart
  try dsimp only
  repeat' first
    | (with_reducible first | assumption | apply queueStaging_keeps | apply KeepsOut.next)
    | split
    | (with_reducible first | refine Keeps.snd (by assumption) ?_ | refine Keeps.fst (by assumption) ?_)
    | (with_reducible first | refine Keeps.opt (by assumption) ?_)
    | dsimp only | intro _

theorem spreadTables_keeps {z s : State} (entry : Nat) (copy : Bool) (rs : List (List Byte)) (fwd : List FwdLoss) (hz : Keeps afresh z s) :
    Keeps afresh z (spreadTables s entry copy rs fwd) := by
  unfold spreadTables
  try dsimp only
  repeat' first
    | (with_reducible first | assumption | apply floorChange_keeps | apply State.updCore_keeps | apply endCmd_keeps)
    | (with_reducible first | (apply Keeps.fold <;> intros) | (apply Keeps.fold2 <;> intros))
    | (with_reducible first | (apply Keeps.fold2' <;> intros) | (apply Keeps.fold3 <;> intros))
    | split
    | (with_reducible first | refine Keeps.snd (by assumption) ?_ | refine Keeps.fst (by assumption) ?_)
    | (with_reducible first | refine Keeps.opt (by assumption) ?_)
    | simp only [keeps_with] | (intro _; unfold codeOk; omega) | (unfold codeOk; omega) | dsimp only | intro _

theorem execSfTableLoad_keeps {z s : State} (entry : Fin 32) (data : Option (List Byte)) (fwd : List FwdLoss) (hz : Keeps afresh z s) :
    KeepsOut afresh z (execSfTableLoad entry data fwd s) := by
  unfold execSfTableLoad
  try dsimp only
  repeat' first
    | (with_reducible first | assumption | apply refuseCmd_keeps | apply withLink_keeps | apply endCmd_keeps)
    | (with_reducible first | apply spreadTables_keeps | apply progressOf_keeps | apply startCmd_keeps)
    | (with_reducible first | apply KeepsOut.next)
    | split
    | (with_reducible first | refine Keeps.snd (by assumption) ?_ | refine Keeps.fst (by assumption) ?_)
    | (with_reducible first | refine Keeps.opt (by assumption) ?_)
    | dsimp only | intro _

theorem prepare_keeps {z s : State} (k : ModeKind) (hz : Keeps afresh z s) :
    Keeps afresh z (prepare s k) := by
  unfold prepare
  try dsimp only
  repeat' first
    | (with_reducible first | assumption | apply State.updCore_keeps | (apply Keeps.fold <;> intros))
    | (with_reducible first | (apply Keeps.fold2 <;> intros) | (apply Keeps.fold2' <;> intros))
    | (with_reducible first | (apply Keeps.fold3 <;> intros))
    | split
    | (with_reducible first | refine Keeps.snd (by assumption) ?_ | refine Keeps.fst (by assumption) ?_)
    | (with_reducible first | refine Keeps.opt (by assumption) ?_ | apply Keeps.getD)
    | simp only [keeps_with] | dsimp only | intro _

theorem execSfCommit_keeps {z s : State} (entry : Fin 32) (hz : Keeps afresh z s) :
    KeepsOut afresh z (execSfCommit entry s) := by
  unfold execSfCommit
  try dsimp only
  repeat' first
    | (with_reducible first | assumption | apply refuseCmd_keeps | apply prepare_keeps | apply startCmd_keeps)
    | (with_reducible first | apply KeepsOut.next)
    | split
    | (with_reducible first | refine Keeps.snd (by assumption) ?_ | refine Keeps.fst (by assumption) ?_)
    | (with_reducible first | refine Keeps.opt (by assumption) ?_)
    | dsimp only | intro _

theorem execHostWindowBind_keeps {z s : State} (entry : Fin 32) (hz : Keeps afresh z s) :
    KeepsOut afresh z (execHostWindowBind entry s) := by
  unfold execHostWindowBind
  try dsimp only
  repeat' first
    | (with_reducible first | assumption | apply endCmd_keeps | apply refuseCmd_keeps | apply startCmd_keeps)
    | (with_reducible first | apply KeepsOut.next)
    | split
    | (with_reducible first | refine Keeps.snd (by assumption) ?_ | refine Keeps.fst (by assumption) ?_)
    | (with_reducible first | refine Keeps.opt (by assumption) ?_)
    | simp only [keeps_with] | dsimp only | intro _

end Sys2Proof.Machine
end

