-- ==== Sys2Proof/Laws/KeepsModes.lean ====
section
/-! SUPPORT. What each operation of Machine/Modes.lean keeps. -/

set_option linter.all false

namespace Sys2Proof.Machine

variable {afresh : Prop}

theorem fenceReceiver_keeps {z s : State} (r : Receiver) (reason : Nat) (hz : Keeps afresh z s) :
    Keeps afresh z (fenceReceiver s r reason) := by
  unfold fenceReceiver
  try dsimp only
  repeat' first
    | (with_reducible first | assumption | apply floorChange_keeps | apply startSliceFence_keeps)
    | split
    | (with_reducible first | refine Keeps.snd (by assumption) ?_ | refine Keeps.fst (by assumption) ?_)
    | (with_reducible first | refine Keeps.opt (by assumption) ?_)
    | (intro _; unfold codeOk; omega) | (unfold codeOk; omega) | dsimp only | intro _

theorem fenceReceivers_keeps {z s : State} (rs : List Receiver) (reason : Nat) (hz : Keeps afresh z s) :
    Keeps afresh z (fenceReceivers s rs reason) := by
  unfold fenceReceivers
  try dsimp only
  repeat' first
    | (with_reducible first | assumption | apply fenceReceiver_keeps | (apply Keeps.fold <;> intros))
    | (with_reducible first | (apply Keeps.fold2 <;> intros) | (apply Keeps.fold2' <;> intros))
    | (with_reducible first | (apply Keeps.fold3 <;> intros))
    | dsimp only | intro _

theorem mem_sortBy {α : Type} {key : α → Nat} {a : α} {xs : List α} : a ∈ sortBy key xs ↔ a ∈ xs := by
  have ins : ∀ (x : α) (l : List α), a ∈ insertBy key x l ↔ a = x ∨ a ∈ l := by
    intro x l
    induction l with
    | nil => simp [insertBy]
    | cons y l ih =>
      unfold insertBy
      split
      · simp
      · simp only [List.mem_cons, ih]; exact or_left_comm
  unfold sortBy
  induction xs with
  | nil => rfl
  | cons x xs ih => simp only [List.foldr_cons, ins, ih, List.mem_cons]

theorem applyDeferred_keeps {z s : State} (hz : Keeps afresh z s) : Keeps afresh z (applyDeferred s) := by
  unfold applyDeferred
  dsimp only
  have h0 : Keeps afresh z { s with flp := { s.flp with deferred := [] } } :=
    ⟨hz.1, hz.2.1, fun i => ⟨(hz.2.2 i).1, (hz.2.2 i).2.1, (hz.2.2 i).2.2.1, fun d hd => by cases hd⟩⟩
  have hd : ∀ d ∈ sortBy (fun d => changeKey d.1 d.2.1) s.flp.deferred, Inv z → codeOk d.1 d.2.2.1 :=
    fun d hd i => (hz.2.2 i).2.2.2 d (mem_sortBy.1 hd)
  revert h0 hd
  generalize sortBy (fun d => changeKey d.1 d.2.1) s.flp.deferred = ds
  generalize ({ s with flp := { s.flp with deferred := [] } } : State) = t
  intro h0 hd
  induction ds generalizing t with
  | nil => exact h0
  | cons d ds ih =>
    refine ih _ ?_ fun e he => hd e (by simp [he])
    dsimp only
    split
    · exact startSliceFence_keeps _ _ _ h0
    · exact floorChange_keeps _ _ _ _ _ _ _ h0 (hd d (by simp))

theorem endSwitch_keeps {z s : State} (w : Switch) (ok : Bool) (hz : Keeps afresh z s) :
    Keeps afresh z (endSwitch s w ok) := by
  unfold endSwitch
  try dsimp only
  repeat' first
    | (with_reducible first | assumption | apply applyDeferred_keeps | apply endCmd_keeps)
    | split
    | simp only [keeps_with] | dsimp only | intro _

theorem switchFails_keeps {z s : State} (w : Switch) (hz : Keeps afresh z s) :
    Keeps afresh z (switchFails s w) := by
  unfold switchFails
  try dsimp only
  repeat' first
    | (with_reducible first | assumption | apply startQuiesce_keeps | apply endSwitch_keeps | apply noImage_keeps)
    | split
    | (with_reducible first | refine Keeps.snd (by assumption) ?_ | refine Keeps.fst (by assumption) ?_)
    | (with_reducible first | refine Keeps.opt (by assumption) ?_)
    | simp only [keeps_with] | dsimp only | intro _

theorem stepFive_keeps {z s : State} (w : Switch) (hz : Keeps afresh z s) :
    Keeps afresh z (stepFive s w) := by
  unfold stepFive
  try dsimp only
  repeat' first
    | (with_reducible first | assumption | apply touchShadow_keeps | apply switchFails_keeps)
    | (with_reducible first | apply recordLoad_keeps | apply prepare_keeps)
    | split
    | (with_reducible first | refine Keeps.snd (by assumption) ?_ | refine Keeps.fst (by assumption) ?_)
    | (with_reducible first | refine Keeps.opt (by assumption) ?_)
    | simp only [keeps_with] | dsimp only | intro _

theorem stepSeven_keeps {z s : State} (w : Switch) (im : Image) (hz : Keeps afresh z s) :
    Keeps afresh z (stepSeven s w im) := by
  unfold stepSeven
  try dsimp only
  repeat' first
    | (with_reducible first | assumption | apply State.setShadow_keeps | apply startImage_keeps)
    | (with_reducible first | apply keepReferenced_keeps | apply endSwitch_keeps | apply recordLoad_keeps)
    | (with_reducible first | apply refuseFit_keeps | apply switchFails_keeps)
    | split
    | (with_reducible first | refine Keeps.snd (by assumption) ?_ | refine Keeps.fst (by assumption) ?_)
    | (with_reducible first | refine Keeps.opt (by assumption) ?_)
    | simp only [keeps_with] | dsimp only | intro _

theorem changeOver_keeps {z s : State} (k : ModeKind) (hz : Keeps afresh z s) :
    Keeps afresh z (changeOver s k) := by
  unfold changeOver
  try dsimp only
  repeat' first
    | (with_reducible first | assumption | apply placeImage_keeps | apply State.updCore_keeps)
    | (with_reducible first | (apply Keeps.fold <;> intros) | (apply Keeps.fold2 <;> intros))
    | (with_reducible first | (apply Keeps.fold2' <;> intros) | (apply Keeps.fold3 <;> intros))
    | split
    | (with_reducible first | refine Keeps.snd (by assumption) ?_ | refine Keeps.fst (by assumption) ?_)
    | (with_reducible first | refine Keeps.opt (by assumption) ?_)
    | simp only [keeps_with] | dsimp only | intro _

theorem commitEpoch_keeps {z s : State} (k : ModeKind) (hz : Keeps afresh z s) :
    Keeps afresh z (commitEpoch s k) := by
  unfold commitEpoch
  try dsimp only
  repeat' first
    | (with_reducible first | assumption | apply State.updCore_keeps | (apply Keeps.fold <;> intros))
    | (with_reducible first | (apply Keeps.fold2 <;> intros) | (apply Keeps.fold2' <;> intros))
    | (with_reducible first | (apply Keeps.fold3 <;> intros))
    | simp only [keeps_with] | dsimp only | intro _

theorem execModePrepareComplete_keeps {z s : State} (hz : Keeps afresh z s) :
    KeepsOut afresh z (execModePrepareComplete s) := by
  unfold execModePrepareComplete
  try dsimp only
  repeat' first
    | (with_reducible first | assumption | apply changeOver_keeps | apply commitEpoch_keeps | apply KeepsOut.next)
    | split
    | (with_reducible first | refine Keeps.snd (by assumption) ?_ | refine Keeps.fst (by assumption) ?_)
    | (with_reducible first | refine Keeps.opt (by assumption) ?_)
    | dsimp only | intro _

theorem afterChange_keeps {z s : State} (k : ModeKind) (hz : Keeps afresh z s) :
    Keeps afresh z (afterChange s k) := by
  unfold afterChange
  try dsimp only
  repeat' first
    | (with_reducible first | assumption | apply endCmd_keeps | apply stepFive_keeps | apply stepSeven_keeps)
    | (with_reducible first | apply switchFails_keeps)
    | split
    | (with_reducible first | refine Keeps.snd (by assumption) ?_ | refine Keeps.fst (by assumption) ?_)
    | (with_reducible first | refine Keeps.opt (by assumption) ?_)
    | dsimp only | intro _

theorem completeChange_keeps {z s : State} (k : ModeKind) (hz : Keeps afresh z s) :
    Keeps afresh z (completeChange s k) := by
  unfold completeChange
  try dsimp only
  repeat' first
    | (with_reducible first | assumption | apply afterChange_keeps | apply notice_keeps)
    | simp only [keeps_with] | dsimp only | intro _

theorem execModeCommitComplete_keeps {z s : State} (hz : Keeps afresh z s) :
    KeepsOut afresh z (execModeCommitComplete s) := by
  unfold execModeCommitComplete
  try dsimp only
  repeat' first
    | (with_reducible first | assumption | apply completeChange_keeps | apply KeepsOut.next)
    | split
    | (with_reducible first | refine Keeps.snd (by assumption) ?_ | refine Keeps.fst (by assumption) ?_)
    | (with_reducible first | refine Keeps.opt (by assumption) ?_)
    | dsimp only | intro _

theorem execModePrepareTimeout_keeps {z s : State} (hz : Keeps afresh z s) :
    KeepsOut afresh z (execModePrepareTimeout s) := by
  unfold execModePrepareTimeout
  try dsimp only
  repeat' first
    | (with_reducible first | assumption | apply State.updCore_keeps | apply notice_keeps | apply endCmd_keeps)
    | (with_reducible first | apply prepare_keeps | (apply Keeps.fold <;> intros) | (apply Keeps.fold2 <;> intros))
    | (with_reducible first | (apply Keeps.fold2' <;> intros) | (apply Keeps.fold3 <;> intros))
    | (with_reducible first | apply KeepsOut.next)
    | split
    | (with_reducible first | refine Keeps.snd (by assumption) ?_ | refine Keeps.fst (by assumption) ?_)
    | (with_reducible first | refine Keeps.opt (by assumption) ?_)
    | simp only [keeps_with] | dsimp only | intro _

theorem execModeCommitTimeout_keeps {z s : State} (late : List Receiver) (hz : Keeps afresh z s) :
    KeepsOut afresh z (execModeCommitTimeout late s) := by
  unfold execModeCommitTimeout
  try dsimp only
  repeat' first
    | (with_reducible first | assumption | apply completeChange_keeps | apply fenceReceivers_keeps)
    | (with_reducible first | apply KeepsOut.next)
    | split
    | (with_reducible first | refine Keeps.snd (by assumption) ?_ | refine Keeps.fst (by assumption) ?_)
    | (with_reducible first | refine Keeps.opt (by assumption) ?_)
    | dsimp only | intro _

end Sys2Proof.Machine
end

