-- ==== Sys2Proof/Laws/KeepsCtl.lean ====
section
/-! SUPPORT. What each operation of Machine/Ctl.lean keeps. -/

set_option linter.all false

namespace Sys2Proof.Machine

variable {afresh : Prop}

theorem bodyBra_keeps {z s : State} (c g w : Nat) (e : Ecc) (hz : Keeps afresh z s) : Keeps afresh z (bodyBra s c g w e) := by
  unfold bodyBra
  try dsimp only
  repeat' first
    | (with_reducible first | assumption | apply State.setGrp_keeps | apply takeTrap_keeps)
    | split
    | (with_reducible first | refine Keeps.snd (by assumption) ?_ | refine Keeps.fst (by assumption) ?_)
    | (with_reducible first | refine Keeps.opt (by assumption) ?_)
    | dsimp only | intro _

theorem bodyJmp_keeps {z s : State} (c g w : Nat) (e : Ecc) (hz : Keeps afresh z s) : Keeps afresh z (bodyJmp s c g w e) := by
  unfold bodyJmp
  try dsimp only
  repeat' first
    | (with_reducible first | assumption | apply State.updGrp_keeps)
    | dsimp only | intro _

theorem bodyJmpc_keeps {z s : State} (c g w : Nat) (e : Ecc) (hz : Keeps afresh z s) : Keeps afresh z (bodyJmpc s c g w e) := by
  unfold bodyJmpc
  try dsimp only
  repeat' first
    | (with_reducible first | assumption | apply State.updGrp_keeps)
    | split
    | dsimp only | intro _

theorem bodyJmpi_keeps {z s : State} (c g w : Nat) (e : Ecc) (hz : Keeps afresh z s) : Keeps afresh z (bodyJmpi s c g w e) := by
  unfold bodyJmpi
  try dsimp only
  repeat' first
    | (with_reducible first | assumption | apply State.updGrp_keeps)
    | dsimp only | intro _

theorem bodyExit_keeps {z s : State} (c g w : Nat) (e : Ecc) (hz : Keeps afresh z s) : Keeps afresh z (bodyExit s c g w e) := by
  unfold bodyExit
  try dsimp only
  repeat' first
    | (with_reducible first | assumption | apply State.setGrp_keeps | apply endGroup_keeps)
    | split
    | (with_reducible first | refine Keeps.snd (by assumption) ?_ | refine Keeps.fst (by assumption) ?_)
    | (with_reducible first | refine Keeps.opt (by assumption) ?_)
    | simp only [keeps_with] | dsimp only | intro _

theorem bodyTrap_keeps {z s : State} (c g w : Nat) (e : Ecc) (hz : Keeps afresh z s) : Keeps afresh z (bodyTrap s c g w e) := by
  unfold bodyTrap
  try dsimp only
  repeat' first
    | (with_reducible first | assumption | apply takeTrap_keeps)
    | dsimp only | intro _

theorem bodyNop_keeps {z s : State} (c g w : Nat) (e : Ecc) (hz : Keeps afresh z s) : Keeps afresh z (bodyNop s c g w e) := by
  unfold bodyNop
  try dsimp only
  repeat' first
    | (with_reducible first | assumption | apply State.updGrp_keeps)
    | dsimp only | intro _

theorem arrive_keeps (wait : Bool) {z s : State} (c g w : Nat) (e : Ecc) (hz : Keeps afresh z s) : Keeps afresh z (arrive wait s c g w e) := by
  unfold arrive
  try dsimp only
  repeat' first
    | (with_reducible first | assumption | apply takeTrap_keeps | apply State.setGrp_keeps)
    | (with_reducible first | apply State.updCore_keeps)
    | split
    | simp only [keeps_with] | dsimp only | intro _

theorem bodyBarSync_keeps {z s : State} (c g w : Nat) (e : Ecc) (hz : Keeps afresh z s) : Keeps afresh z (bodyBarSync s c g w e) := by
  unfold bodyBarSync
  try dsimp only
  repeat' first
    | (with_reducible first | assumption | apply arrive_keeps)
    | dsimp only | intro _

theorem bodyBarArrive_keeps {z s : State} (c g w : Nat) (e : Ecc) (hz : Keeps afresh z s) : Keeps afresh z (bodyBarArrive s c g w e) := by
  unfold bodyBarArrive
  try dsimp only
  repeat' first
    | (with_reducible first | assumption | apply arrive_keeps)
    | dsimp only | intro _

theorem bodyEpochRd_keeps {z s : State} (c g w : Nat) (e : Ecc) (hz : Keeps afresh z s) : Keeps afresh z (bodyEpochRd s c g w e) := by
  unfold bodyEpochRd
  try dsimp only
  repeat' first
    | (with_reducible first | assumption | apply State.updGrp_keeps)
    | dsimp only | intro _

theorem execBra_keeps {z s : State} (c : Fin 272) (g : Fin 16) (ecc : Ecc) (hz : Keeps afresh z s) :
    KeepsOut afresh z (execBra c g ecc s) := by
  unfold execBra
  try dsimp only
  repeat' first
    | (with_reducible first | assumption | apply issueAs_keeps | apply bodyBra_keeps | apply KeepsOut.next)
    | (with_reducible first | (apply issueAs_keeps <;> intros))
    | dsimp only | intro _

theorem execJmp_keeps {z s : State} (c : Fin 272) (g : Fin 16) (ecc : Ecc) (hz : Keeps afresh z s) :
    KeepsOut afresh z (execJmp c g ecc s) := by
  unfold execJmp
  try dsimp only
  repeat' first
    | (with_reducible first | assumption | apply issueAs_keeps | apply bodyJmp_keeps | apply KeepsOut.next)
    | (with_reducible first | (apply issueAs_keeps <;> intros))
    | dsimp only | intro _

theorem execJmpc_keeps {z s : State} (c : Fin 272) (g : Fin 16) (ecc : Ecc) (hz : Keeps afresh z s) :
    KeepsOut afresh z (execJmpc c g ecc s) := by
  unfold execJmpc
  try dsimp only
  repeat' first
    | (with_reducible first | assumption | apply issueAs_keeps | apply bodyJmpc_keeps | apply KeepsOut.next)
    | (with_reducible first | (apply issueAs_keeps <;> intros))
    | dsimp only | intro _

theorem execJmpi_keeps {z s : State} (c : Fin 272) (g : Fin 16) (ecc : Ecc) (hz : Keeps afresh z s) :
    KeepsOut afresh z (execJmpi c g ecc s) := by
  unfold execJmpi
  try dsimp only
  repeat' first
    | (with_reducible first | assumption | apply issueAs_keeps | apply bodyJmpi_keeps | apply KeepsOut.next)
    | (with_reducible first | (apply issueAs_keeps <;> intros))
    | dsimp only | intro _

theorem execExit_keeps {z s : State} (c : Fin 272) (g : Fin 16) (ecc : Ecc) (hz : Keeps afresh z s) :
    KeepsOut afresh z (execExit c g ecc s) := by
  unfold execExit
  try dsimp only
  repeat' first
    | (with_reducible first | assumption | apply issueAs_keeps | apply bodyExit_keeps | apply KeepsOut.next)
    | (with_reducible first | (apply issueAs_keeps <;> intros))
    | dsimp only | intro _

theorem execTrap_keeps {z s : State} (c : Fin 272) (g : Fin 16) (ecc : Ecc) (hz : Keeps afresh z s) :
    KeepsOut afresh z (execTrap c g ecc s) := by
  unfold execTrap
  try dsimp only
  repeat' first
    | (with_reducible first | assumption | apply issueAs_keeps | apply bodyTrap_keeps | apply KeepsOut.next)
    | (with_reducible first | (apply issueAs_keeps <;> intros))
    | dsimp only | intro _

theorem execNop_keeps {z s : State} (c : Fin 272) (g : Fin 16) (ecc : Ecc) (hz : Keeps afresh z s) :
    KeepsOut afresh z (execNop c g ecc s) := by
  unfold execNop
  try dsimp only
  repeat' first
    | (with_reducible first | assumption | apply issueAs_keeps | apply bodyNop_keeps | apply KeepsOut.next)
    | (with_reducible first | (apply issueAs_keeps <;> intros))
    | dsimp only | intro _

theorem execBarSync_keeps {z s : State} (c : Fin 272) (g : Fin 16) (ecc : Ecc) (hz : Keeps afresh z s) :
    KeepsOut afresh z (execBarSync c g ecc s) := by
  unfold execBarSync
  try dsimp only
  repeat' first
    | (with_reducible first | assumption | apply issueAs_keeps | apply bodyBarSync_keeps | apply KeepsOut.next)
    | (with_reducible first | (apply issueAs_keeps <;> intros))
    | dsimp only | intro _

theorem execBarArrive_keeps {z s : State} (c : Fin 272) (g : Fin 16) (ecc : Ecc) (hz : Keeps afresh z s) :
    KeepsOut afresh z (execBarArrive c g ecc s) := by
  unfold execBarArrive
  try dsimp only
  repeat' first
    | (with_reducible first | assumption | apply issueAs_keeps | apply bodyBarArrive_keeps | apply KeepsOut.next)
    | (with_reducible first | (apply issueAs_keeps <;> intros))
    | dsimp only | intro _

theorem execEpochRd_keeps {z s : State} (c : Fin 272) (g : Fin 16) (ecc : Ecc) (hz : Keeps afresh z s) :
    KeepsOut afresh z (execEpochRd c g ecc s) := by
  unfold execEpochRd
  try dsimp only
  repeat' first
    | (with_reducible first | assumption | apply issueAs_keeps | apply bodyEpochRd_keeps | apply KeepsOut.next)
    | (with_reducible first | (apply issueAs_keeps <;> intros))
    | dsimp only | intro _

end Sys2Proof.Machine
end

