-- ==== Sys2Proof/Laws/KeepsFrag.lean ====
section
/-! SUPPORT. What each operation of Machine/Frag.lean keeps. -/

set_option linter.all false

namespace Sys2Proof.Machine

variable {afresh : Prop}

theorem fragTrap_keeps {z s : State} (c g : Nat) (open_ : Bool) (more : Bank → Bool) (hz : Keeps afresh z s) :
    KeepsOpt afresh z (fragTrap s c g open_ more) := by
  unfold fragTrap
  try dsimp only
  repeat' first
    | (with_reducible first | assumption | apply descTrap_keeps | apply KeepsOpt.some | exact KeepsOpt.none)
    | split
    | (with_reducible first | refine Keeps.snd (by assumption) ?_ | refine Keeps.fst (by assumption) ?_)
    | (with_reducible first | refine Keeps.opt (by assumption) ?_)
    | dsimp only | intro _

theorem bodyFragOpen_keeps {z s : State} (c g w : Nat) (e : Ecc) (hz : Keeps afresh z s) : Keeps afresh z (bodyFragOpen s c g w e) := by
  unfold bodyFragOpen
  try dsimp only
  repeat' first
    | (with_reducible first | assumption | apply fragTrap_keeps | apply stallRetry_keeps | apply takeA0_keeps)
    | (with_reducible first | apply State.updCore_keeps | apply State.updGrp_keeps)
    | split
    | (with_reducible first | refine Keeps.snd (by assumption) ?_ | refine Keeps.fst (by assumption) ?_)
    | (with_reducible first | refine Keeps.opt (by assumption) ?_)
    | dsimp only | intro _

theorem bodyFragLdb_keeps {z s : State} (c g w : Nat) (e : Ecc) (hz : Keeps afresh z s) : Keeps afresh z (bodyFragLdb s c g w e) := by
  unfold bodyFragLdb
  try dsimp only
  repeat' first
    | (with_reducible first | assumption | apply takeTrap_keeps | apply fragTrap_keeps | apply stallRetry_keeps)
    | (with_reducible first | apply takeA0_keeps | apply State.updCore_keeps | apply State.updGrp_keeps)
    | split
    | (with_reducible first | refine Keeps.snd (by assumption) ?_ | refine Keeps.fst (by assumption) ?_)
    | (with_reducible first | refine Keeps.opt (by assumption) ?_)
    | simp only [keeps_with] | dsimp only | intro _

theorem bodyFragMma_keeps {z s : State} (c g w : Nat) (e : Ecc) (hz : Keeps afresh z s) : Keeps afresh z (bodyFragMma s c g w e) := by
  unfold bodyFragMma
  try dsimp only
  repeat' first
    | (with_reducible first | assumption | apply fragTrap_keeps | apply stallRetry_keeps | apply takeA0_keeps)
    | (with_reducible first | apply State.updCore_keeps | apply State.updGrp_keeps)
    | split
    | (with_reducible first | refine Keeps.snd (by assumption) ?_ | refine Keeps.fst (by assumption) ?_)
    | (with_reducible first | refine Keeps.opt (by assumption) ?_)
    | simp only [keeps_with] | dsimp only | intro _

theorem execFragMmaResult_keeps {z s : State} (c : Fin 272) (hz : Keeps afresh z s) :
    KeepsOut afresh z (execFragMmaResult c s) := by
  unfold execFragMmaResult
  try dsimp only
  repeat' first
    | (with_reducible first | assumption | apply State.updCore_keeps | (apply Keeps.fold <;> intros))
    | (with_reducible first | (apply Keeps.fold2 <;> intros) | (apply Keeps.fold2' <;> intros))
    | (with_reducible first | (apply Keeps.fold3 <;> intros) | apply KeepsOut.next)
    | split
    | (with_reducible first | refine Keeps.snd (by assumption) ?_ | refine Keeps.fst (by assumption) ?_)
    | (with_reducible first | refine Keeps.opt (by assumption) ?_)
    | simp only [keeps_with] | dsimp only | intro _

theorem bodyFragRound_keeps {z s : State} (c g w : Nat) (e : Ecc) (hz : Keeps afresh z s) : Keeps afresh z (bodyFragRound s c g w e) := by
  unfold bodyFragRound
  try dsimp only
  repeat' first
    | (with_reducible first | assumption | apply fragTrap_keeps | apply stallRetry_keeps | apply takeA0_keeps)
    | (with_reducible first | apply State.setCore_keeps | apply State.updGrp_keeps | apply orFlags_keeps)
    | (with_reducible first | (apply Keeps.fold <;> intros) | (apply Keeps.fold2 <;> intros))
    | (with_reducible first | (apply Keeps.fold2' <;> intros) | (apply Keeps.fold3 <;> intros))
    | split
    | (with_reducible first | refine Keeps.snd (by assumption) ?_ | refine Keeps.fst (by assumption) ?_)
    | (with_reducible first | refine Keeps.opt (by assumption) ?_)
    | simp only [keeps_with] | dsimp only | intro _

theorem execFragOpen_keeps {z s : State} (c : Fin 272) (g : Fin 16) (ecc : Ecc) (hz : Keeps afresh z s) :
    KeepsOut afresh z (execFragOpen c g ecc s) := by
  unfold execFragOpen
  try dsimp only
  repeat' first
    | (with_reducible first | assumption | apply issueAs_keeps | apply bodyFragOpen_keeps | apply KeepsOut.next)
    | (with_reducible first | (apply issueAs_keeps <;> intros))
    | dsimp only | intro _

theorem execFragLdb_keeps {z s : State} (c : Fin 272) (g : Fin 16) (ecc : Ecc) (hz : Keeps afresh z s) :
    KeepsOut afresh z (execFragLdb c g ecc s) := by
  unfold execFragLdb
  try dsimp only
  repeat' first
    | (with_reducible first | assumption | apply issueAs_keeps | apply bodyFragLdb_keeps | apply KeepsOut.next)
    | (with_reducible first | (apply issueAs_keeps <;> intros))
    | dsimp only | intro _

theorem execFragMma_keeps {z s : State} (c : Fin 272) (g : Fin 16) (ecc : Ecc) (hz : Keeps afresh z s) :
    KeepsOut afresh z (execFragMma c g ecc s) := by
  unfold execFragMma
  try dsimp only
  repeat' first
    | (with_reducible first | assumption | apply issueAs_keeps | apply bodyFragMma_keeps | apply KeepsOut.next)
    | (with_reducible first | (apply issueAs_keeps <;> intros))
    | dsimp only | intro _

theorem execFragRound_keeps {z s : State} (c : Fin 272) (g : Fin 16) (ecc : Ecc) (hz : Keeps afresh z s) :
    KeepsOut afresh z (execFragRound c g ecc s) := by
  unfold execFragRound
  try dsimp only
  repeat' first
    | (with_reducible first | assumption | apply issueAs_keeps | apply bodyFragRound_keeps | apply KeepsOut.next)
    | (with_reducible first | (apply issueAs_keeps <;> intros))
    | dsimp only | intro _

end Sys2Proof.Machine
end

