-- ==== Sys2Proof/Laws/KeepsSfu.lean ====
section
/-! SUPPORT. What each operation of Machine/Sfu.lean keeps. -/

set_option linter.all false

namespace Sys2Proof.Machine

variable {afresh : Prop}

theorem tableEcc_keeps {z s : State} (c : Nat) (e : Ecc) (hz : Keeps afresh z s) :
    Keeps afresh z (tableEcc s c e) := by
  unfold tableEcc
  try dsimp only
  repeat' first
    | (with_reducible first | assumption | apply noteRow_keeps | apply State.updCore_keeps | apply faultEvent_keeps)
    | split
    | (with_reducible first | refine Keeps.snd (by assumption) ?_ | refine Keeps.fst (by assumption) ?_)
    | (with_reducible first | refine Keeps.opt (by assumption) ?_ | apply Keeps.getD)
    | simp only [keeps_with] | simp only [id_eq] | dsimp only | intro _

theorem bodySfEval_keeps {z s : State} (c g w : Nat) (e : Ecc) (hz : Keeps afresh z s) : Keeps afresh z (bodySfEval s c g w e) := by
  unfold bodySfEval
  try dsimp only
  repeat' first
    | (with_reducible first | assumption | apply tableEcc_keeps | apply State.setGrp_keeps)
    | (with_reducible first | apply State.updCore_keeps | apply orFlags_keeps | (apply Keeps.fold <;> intros))
    | (with_reducible first | (apply Keeps.fold2 <;> intros) | (apply Keeps.fold2' <;> intros))
    | (with_reducible first | (apply Keeps.fold3 <;> intros))
    | split
    | simp only [keeps_with] | dsimp only | intro _

theorem bodyRowstat_keeps {z s : State} (c g w : Nat) (e : Ecc) (hz : Keeps afresh z s) : Keeps afresh z (bodyRowstat s c g w e) := by
  unfold bodyRowstat
  try dsimp only
  repeat' first
    | (with_reducible first | assumption | apply takeTrap_keeps | apply lmEcc_keeps | apply State.setGrp_keeps)
    | (with_reducible first | apply State.updCore_keeps | apply orFlags_keeps)
    | split
    | (with_reducible first | refine Keeps.snd (by assumption) ?_ | refine Keeps.fst (by assumption) ?_)
    | (with_reducible first | refine Keeps.opt (by assumption) ?_)
    | simp only [keeps_with] | dsimp only | intro _

theorem execSfEval_keeps {z s : State} (c : Fin 272) (g : Fin 16) (ecc : Ecc) (hz : Keeps afresh z s) :
    KeepsOut afresh z (execSfEval c g ecc s) := by
  unfold execSfEval
  try dsimp only
  repeat' first
    | (with_reducible first | assumption | apply issueAs_keeps | apply bodySfEval_keeps | apply KeepsOut.next)
    | (with_reducible first | (apply issueAs_keeps <;> intros))
    | dsimp only | intro _

theorem execRowstat_keeps {z s : State} (c : Fin 272) (g : Fin 16) (ecc : Ecc) (hz : Keeps afresh z s) :
    KeepsOut afresh z (execRowstat c g ecc s) := by
  unfold execRowstat
  try dsimp only
  repeat' first
    | (with_reducible first | assumption | apply issueAs_keeps | apply bodyRowstat_keeps | apply KeepsOut.next)
    | (with_reducible first | (apply issueAs_keeps <;> intros))
    | dsimp only | intro _

end Sys2Proof.Machine
end

