-- ==== Sys2Proof/Laws/KeepsSimt.lean ====
section
/-! SUPPORT. What each operation of Machine/Simt.lean keeps. -/

set_option linter.all false

namespace Sys2Proof.Machine

variable {afresh : Prop}

theorem bodyOf_keeps {z s : State} {op : Nat} {f : Body} (e : bodyOf op = some f) (c g w : Nat) (ecc : Ecc)
    (hz : Keeps afresh z s) : Keeps afresh z (f s c g w ecc) := by
  unfold bodyOf at e
  split at e
  · cases e; exact bodyIadd_keeps c g w ecc hz
  · cases e; exact bodyIsub_keeps c g w ecc hz
  · cases e; exact bodyImul_keeps c g w ecc hz
  · cases e; exact bodyImulhiU_keeps c g w ecc hz
  · cases e; exact bodyImulhiS_keeps c g w ecc hz
  · cases e; exact bodyAnd_keeps c g w ecc hz
  · cases e; exact bodyOr_keeps c g w ecc hz
  · cases e; exact bodyXor_keeps c g w ecc hz
  · cases e; exact bodyShl_keeps c g w ecc hz
  · cases e; exact bodyShr_keeps c g w ecc hz
  · cases e; exact bodySar_keeps c g w ecc hz
  · cases e; exact bodyIminS_keeps c g w ecc hz
  · cases e; exact bodyImaxS_keeps c g w ecc hz
  · cases e; exact bodyIminU_keeps c g w ecc hz
  · cases e; exact bodyImaxU_keeps c g w ecc hz
  · cases e; exact bodyIsetp_keeps c g w ecc hz
  · cases e; exact bodySel_keeps c g w ecc hz
  · cases e; exact bodyMov_keeps c g w ecc hz
  · cases e; exact bodyFadd_keeps c g w ecc hz
  · cases e; exact bodyFsub_keeps c g w ecc hz
  · cases e; exact bodyFmul_keeps c g w ecc hz
  · cases e; exact bodyFfma_keeps c g w ecc hz
  · cases e; exact bodyFmin_keeps c g w ecc hz
  · cases e; exact bodyFmax_keeps c g w ecc hz
  · cases e; exact bodyFsetp_keeps c g w ecc hz
  · cases e; exact bodyCvt_keeps c g w ecc hz
  · cases e; exact bodyCvtScale_keeps c g w ecc hz
  · cases e; exact bodyLd_keeps c g w ecc hz
  · cases e; exact bodySt_keeps c g w ecc hz
  · cases e; exact atomBody_keeps _ c g w ecc hz
  · cases e; exact atomBody_keeps _ c g w ecc hz
  · cases e; exact atomBody_keeps _ c g w ecc hz
  · cases e; exact atomBody_keeps _ c g w ecc hz
  · cases e; exact atomBody_keeps _ c g w ecc hz
  · cases e; exact atomBody_keeps _ c g w ecc hz
  · cases e; exact atomBody_keeps _ c g w ecc hz
  · cases e; exact atomBody_keeps _ c g w ecc hz
  · cases e; exact atomBody_keeps _ c g w ecc hz
  · cases e; exact atomBody_keeps _ c g w ecc hz
  · cases e; exact atomBody_keeps _ c g w ecc hz
  · cases e; exact bodyFenceD_keeps c g w ecc hz
  · cases e; exact bodyCacheRetire_keeps c g w ecc hz
  · cases e; exact bodyMxIssue_keeps c g w ecc hz
  · cases e; exact bodyDmaIssue_keeps c g w ecc hz
  · cases e; exact bodyPalmIssue_keeps c g w ecc hz
  · cases e; exact bodyWait_keeps c g w ecc hz
  · cases e; exact bodyFragOpen_keeps c g w ecc hz
  · cases e; exact bodyFragLdb_keeps c g w ecc hz
  · cases e; exact bodyFragMma_keeps c g w ecc hz
  · cases e; exact bodyFragRound_keeps c g w ecc hz
  · cases e; exact bodyBra_keeps c g w ecc hz
  · cases e; exact bodyJmp_keeps c g w ecc hz
  · cases e; exact bodyJmpc_keeps c g w ecc hz
  · cases e; exact bodyJmpi_keeps c g w ecc hz
  · cases e; exact bodyExit_keeps c g w ecc hz
  · cases e; exact bodyTrap_keeps c g w ecc hz
  · cases e; exact bodyNop_keeps c g w ecc hz
  · cases e; exact bodyBarSync_keeps c g w ecc hz
  · cases e; exact bodyBarArrive_keeps c g w ecc hz
  · cases e; exact bodyEpochRd_keeps c g w ecc hz
  · cases e; exact bodySfEval_keeps c g w ecc hz
  · cases e; exact bodyRowstat_keeps c g w ecc hz
  · cases e

theorem issueAny_keeps {z s : State} (c g : Nat) (ecc : Ecc) (hz : Keeps afresh z s) : Keeps afresh z (issueAny s c g ecc) := by
  unfold issueAny
  have h := issue_keeps (z := z) c g none ecc hz
  split
  · rename_i e; rw [e] at h; exact h
  · rename_i e
    rw [e] at h
    split
    · exact bodyOf_keeps (by assumption) _ _ _ _ h
    · exact h

theorem startBlock_keeps {z s : State} (stream cls slot : Nat) (b : BlockRec) (hz : Keeps afresh z s) :
    Keeps afresh z (startBlock s stream cls slot b) := by
  unfold startBlock
  try dsimp only
  repeat' first
    | (with_reducible first | assumption | apply State.setGrp_keeps | apply State.updCore_keeps)
    | (with_reducible first | (apply Keeps.fold <;> intros) | (apply Keeps.fold2 <;> intros))
    | (with_reducible first | (apply Keeps.fold2' <;> intros) | (apply Keeps.fold3 <;> intros))
    | split
    | (with_reducible first | refine Keeps.snd (by assumption) ?_ | refine Keeps.fst (by assumption) ?_)
    | (with_reducible first | refine Keeps.opt (by assumption) ?_)
    | dsimp only | intro _

theorem execBlockStart_keeps {z s : State} (stream : Fin 64) (step : Nat) (hz : Keeps afresh z s) :
    KeepsOut afresh z (execBlockStart stream step s) := by
  unfold execBlockStart
  try dsimp only
  repeat' first
    | (with_reducible first | assumption | apply writeStatus_keeps | apply updReq_keeps | apply startBlock_keeps)
    | (with_reducible first | apply stepEnd_keeps | (apply Keeps.fold <;> intros) | (apply Keeps.fold2 <;> intros))
    | (with_reducible first | (apply Keeps.fold2' <;> intros) | (apply Keeps.fold3 <;> intros))
    | (with_reducible first | apply KeepsOut.next)
    | split
    | (with_reducible first | refine Keeps.snd (by assumption) ?_ | refine Keeps.fst (by assumption) ?_)
    | (with_reducible first | refine Keeps.opt (by assumption) ?_)
    | simp only [keeps_with] | dsimp only | intro _

theorem execGroupDrainEnd_keeps {z s : State} (c : Fin 272) (g : Fin 16) (hz : Keeps afresh z s) :
    KeepsOut afresh z (execGroupDrainEnd c g s) := by
  unfold execGroupDrainEnd
  try dsimp only
  repeat' first
    | (with_reducible first | assumption | apply drainEnd_keeps | apply KeepsOut.next)
    | dsimp only | intro _

end Sys2Proof.Machine
end

