-- ==== Sys2Proof/Laws/KeepsVisor.lean ====
section
/-! SUPPORT. What each operation of Machine/Visor.lean keeps. -/

set_option linter.all false

namespace Sys2Proof.Machine

variable {afresh : Prop}

theorem abortHeld_keeps {z s : State} (c g : Nat) (hz : Keeps afresh z s) :
    Keeps afresh z (abortHeld s c g) := by
  unfold abortHeld
  try dsimp only
  repeat' first
    | (with_reducible first | assumption | apply abortAs_keeps)
    | split
    | dsimp only | intro _

theorem endVisor_keeps {z s : State} (hz : Keeps afresh z s) :
    Keeps afresh z (endVisor s) := by
  unfold endVisor
  try dsimp only
  repeat' first
    | (with_reducible first | assumption | apply State.updCore_keeps | apply abortHeld_keeps)
    | (with_reducible first | apply State.updGrp_keeps | apply notice_keeps | (apply Keeps.fold <;> intros))
    | (with_reducible first | (apply Keeps.fold2 <;> intros) | (apply Keeps.fold2' <;> intros))
    | (with_reducible first | (apply Keeps.fold3 <;> intros))
    | split
    | simp only [keeps_with] | dsimp only | intro _

theorem openVisor_keeps {z s : State} (secs : Nat) (hz : Keeps afresh z s) :
    Keeps afresh z (openVisor s secs) := by
  unfold openVisor
  try dsimp only
  repeat' first
    | (with_reducible first | assumption | apply notice_keeps)
    | simp only [keeps_with] | dsimp only | intro _

theorem execVisorSessionExpiry_keeps {z s : State} (hz : Keeps afresh z s) :
    KeepsOut afresh z (execVisorSessionExpiry s) := by
  unfold execVisorSessionExpiry
  try dsimp only
  repeat' first
    | (with_reducible first | assumption | apply endVisor_keeps | apply KeepsOut.next)
    | split
    | (with_reducible first | refine Keeps.snd (by assumption) ?_ | refine Keeps.fst (by assumption) ?_)
    | (with_reducible first | refine Keeps.opt (by assumption) ?_)
    | dsimp only | intro _

theorem visorAnswer_keeps {z s : State} (status : Nat) (hz : Keeps afresh z s) :
    Keeps afresh z (visorAnswer s status) := by
  unfold visorAnswer
  try dsimp only
  repeat' first
    | (with_reducible first | assumption)
    | simp only [keeps_with] | dsimp only | intro _

theorem visorCmd_keeps {z s : State} (f : State → Nat → Nat → State) (hf : ∀ (t : State) x0 x1, Keeps afresh z t → Keeps afresh z (f t x0 x1)) (hz : Keeps afresh z s) :
    Keeps afresh z (visorCmd s f) := by
  unfold visorCmd
  try dsimp only
  repeat' first
    | (with_reducible first | assumption | apply visorAnswer_keeps | apply State.updGrp_keeps | apply hf)
    | split
    | simp only [keeps_with] | dsimp only | intro _

theorem haltGroup_keeps {z s : State} (c g : Nat) (hz : Keeps afresh z s) :
    Keeps afresh z (haltGroup s c g) := by
  unfold haltGroup
  try dsimp only
  repeat' first
    | (with_reducible first | assumption | apply visorAnswer_keeps | apply State.updGrp_keeps)
    | split
    | simp only [keeps_with] | dsimp only | intro _

theorem resumeGroup_keeps {z s : State} (c g : Nat) (hz : Keeps afresh z s) :
    Keeps afresh z (resumeGroup s c g) := by
  unfold resumeGroup
  try dsimp only
  repeat' first
    | (with_reducible first | assumption | apply visorAnswer_keeps | apply State.updGrp_keeps)
    | split
    | dsimp only | intro _

theorem stepOne_keeps {z s : State} (c g : Nat) (ecc : Ecc) (hz : Keeps afresh z s) : Keeps afresh z (stepOne s c g ecc) := by
  unfold stepOne
  dsimp only
  split
  · exact endStep_keeps _ _ _ (State.updGrp_keeps _ _ _ hz)
  · exact endStep_keeps _ _ _ (State.updGrp_keeps _ _ _ hz)
  · refine finishIssue_keeps _ _ _ _ (fun t w ht => ?_) (issue_keeps _ _ _ _ ?_)
    · split
      · rename_i e; exact bodyOf_keeps e _ _ _ _ ht
      · exact ht
    · split
      · exact State.setGrp_keeps _ _ _ hz
      · exact hz

theorem stepGroup_keeps {z s : State} (ecc : Ecc) (c g : Nat) (hz : Keeps afresh z s) :
    Keeps afresh z (stepGroup ecc s c g) := by
  unfold stepGroup
  try dsimp only
  repeat' first
    | (with_reducible first | assumption | apply visorAnswer_keeps | apply stepOne_keeps | apply State.updGrp_keeps)
    | split
    | simp only [keeps_with] | dsimp only | intro _

theorem abortGroup_keeps {z s : State} (c g : Nat) (hz : Keeps afresh z s) :
    Keeps afresh z (abortGroup s c g) := by
  unfold abortGroup
  try dsimp only
  repeat' first
    | (with_reducible first | assumption | apply visorAnswer_keeps | apply abortAs_keeps)
    | split
    | (with_reducible first | refine Keeps.snd (by assumption) ?_ | refine Keeps.fst (by assumption) ?_)
    | (with_reducible first | refine Keeps.opt (by assumption) ?_)
    | dsimp only | intro _

theorem execVisorHalt_keeps {z s : State} (hz : Keeps afresh z s) :
    KeepsOut afresh z (execVisorHalt s) := by
  unfold execVisorHalt
  try dsimp only
  repeat' first
    | (with_reducible first | assumption | apply barWrite_keeps | apply visorCmd_keeps | apply haltGroup_keeps)
    | (with_reducible first | apply KeepsOut.next)
    | dsimp only | intro _

theorem execVisorResume_keeps {z s : State} (hz : Keeps afresh z s) :
    KeepsOut afresh z (execVisorResume s) := by
  unfold execVisorResume
  try dsimp only
  repeat' first
    | (with_reducible first | assumption | apply barWrite_keeps | apply visorCmd_keeps | apply resumeGroup_keeps)
    | (with_reducible first | apply KeepsOut.next)
    | dsimp only | intro _

theorem execVisorStep_keeps {z s : State} (ecc : Ecc) (hz : Keeps afresh z s) :
    KeepsOut afresh z (execVisorStep ecc s) := by
  unfold execVisorStep
  try dsimp only
  repeat' first
    | (with_reducible first | assumption | apply barWrite_keeps | apply visorCmd_keeps | apply stepGroup_keeps)
    | (with_reducible first | apply KeepsOut.next)
    | dsimp only | intro _

theorem execVisorAbort_keeps {z s : State} (hz : Keeps afresh z s) :
    KeepsOut afresh z (execVisorAbort s) := by
  unfold execVisorAbort
  try dsimp only
  repeat' first
    | (with_reducible first | assumption | apply barWrite_keeps | apply visorCmd_keeps | apply abortGroup_keeps)
    | (with_reducible first | apply KeepsOut.next)
    | dsimp only | intro _

theorem stopField_keeps {z s : State} (stop : Option Word) (hz : Keeps afresh z s) :
    Keeps afresh z (stopField s stop).2 := by
  unfold stopField
  try dsimp only
  repeat' first
    | (with_reducible first | assumption | apply State.drawWord_keeps)
    | split
    | (with_reducible first | refine Keeps.snd (by assumption) ?_ | refine Keeps.fst (by assumption) ?_)
    | (with_reducible first | refine Keeps.opt (by assumption) ?_)
    | dsimp only | intro _

theorem visorLoad_keeps {z s : State} (x : Group) (target lane i : Nat) (hz : Keeps afresh z s) :
    Keeps afresh z (visorLoad s x target lane i).2 := by
  unfold visorLoad
  try dsimp only
  repeat' first
    | (with_reducible first | assumption | apply stopField_keeps | apply State.drawWord_keeps)
    | split
    | (with_reducible first | refine Keeps.snd (by assumption) ?_ | refine Keeps.fst (by assumption) ?_)
    | (with_reducible first | refine Keeps.opt (by assumption) ?_)
    | dsimp only | intro _

theorem visorAccess_keeps {z s : State} (v : Word) (write : Bool) (c g : Nat) (hz : Keeps afresh z s) :
    Keeps afresh z (visorAccess v write s c g) := by
  unfold visorAccess
  extract_lets x v0 s1 target lane i
  have h1 : Keeps afresh z s1 := keeps_with.2 hz
  split
  · exact visorAnswer_keeps _ h1
  split
  · split
    · exact visorAnswer_keeps _ h1
    · exact visorAnswer_keeps _ (keeps_with.2 (State.setGrp_keeps _ _ _ h1))
  · have hr : Keeps afresh z (visorLoad s1 x target lane i).2 := visorLoad_keeps _ _ _ _ h1
    split
    · exact visorAnswer_keeps _ h1
    · exact visorAnswer_keeps _ (keeps_with.2 hr)

theorem execVisorAccessLoad_keeps {z s : State} (value : Word) (hz : Keeps afresh z s) :
    KeepsOut afresh z (execVisorAccessLoad value s) := by
  unfold execVisorAccessLoad
  try dsimp only
  repeat' first
    | (with_reducible first | assumption | apply barWrite_keeps | apply visorCmd_keeps | apply visorAccess_keeps)
    | (with_reducible first | apply KeepsOut.next)
    | dsimp only | intro _

theorem execVisorAccessStore_keeps {z s : State} (value : Word) (hz : Keeps afresh z s) :
    KeepsOut afresh z (execVisorAccessStore value s) := by
  unfold execVisorAccessStore
  try dsimp only
  repeat' first
    | (with_reducible first | assumption | apply barWrite_keeps | apply visorCmd_keeps | apply visorAccess_keeps)
    | (with_reducible first | apply KeepsOut.next)
    | dsimp only | intro _

theorem updBp_keeps {z s : State} (i : Nat) (f : BreakP → BreakP) (hz : Keeps afresh z s) :
    Keeps afresh z (updBp s i f) := by
  unfold updBp
  try dsimp only
  repeat' first
    | (with_reducible first | assumption | apply State.updCore_keeps)
    | simp only [keeps_with] | dsimp only | intro _

theorem writeGcmd_keeps {z s : State} (v : Nat) (hz : Keeps afresh z s) :
    Keeps afresh z (writeGcmd s v) := by
  unfold writeGcmd
  try dsimp only
  repeat' first
    | (with_reducible first | assumption | apply visorCmd_keeps | apply haltGroup_keeps | apply resumeGroup_keeps)
    | (with_reducible first | apply stepGroup_keeps | apply abortGroup_keeps | apply visorAnswer_keeps)
    | split
    | (with_reducible first | refine Keeps.snd (by assumption) ?_ | refine Keeps.fst (by assumption) ?_)
    | (with_reducible first | refine Keeps.opt (by assumption) ?_)
    | dsimp only | intro _

theorem visorReg_keeps {z s : State} (o v : Nat) (hz : Keeps afresh z s) :
    KeepsOpt afresh z (visorReg s o v) := by
  unfold visorReg
  try dsimp only
  repeat' first
    | (with_reducible first | assumption | apply writeGcmd_keeps | apply visorCmd_keeps | apply visorAccess_keeps)
    | (with_reducible first | apply updBp_keeps | apply State.updCore_keeps | apply KeepsOpt.some)
    | (with_reducible first | exact KeepsOpt.none)
    | split
    | simp only [keeps_with] | dsimp only | intro _

theorem visorWrite_keeps {z s : State} (o v : Nat) (hz : Keeps afresh z s) : KeepsOpt afresh z (visorWrite s o v) := by
  unfold visorWrite
  split
  · exact visorReg_keeps _ _ hz
  · intro t e
    obtain ⟨x, -, rfl⟩ := Option.map_eq_some_iff.1 e
    split
    · exact visorAnswer_keeps _ hz
    · exact hz

end Sys2Proof.Machine
end

