-- ==== Sys2Proof/Laws/KeepsSecurity.lean ====
section
/-! SUPPORT. What each operation of Machine/Security.lean keeps. -/

set_option linter.all false

namespace Sys2Proof.Machine

variable {afresh : Prop}

theorem writeOp_keeps {z s : State} (f : OpRec → OpRec) (hz : Keeps afresh z s) :
    Keeps afresh z (writeOp s f) := by
  unfold writeOp
  try dsimp only
  repeat' first
    | (with_reducible first | assumption)
    | split
    | simp only [keeps_with] | dsimp only | intro _

theorem appendEpoch_keeps {z s : State} (e : Nat) (hz : Keeps afresh z s) :
    Keeps afresh z (appendEpoch s e) := by
  unfold appendEpoch
  try dsimp only
  repeat' first
    | (with_reducible first | assumption)
    | split
    | simp only [keeps_with] | dsimp only | intro _

theorem authFailed_keeps {z s : State} (hz : Keeps afresh z s) :
    Keeps afresh z (authFailed s) := by
  unfold authFailed
  try dsimp only
  repeat' first
    | (with_reducible first | assumption | apply notice_keeps)
    | simp only [keeps_with] | dsimp only | intro _

theorem authorised_keeps {z s : State} (j : Job) (k : State → State) (hk : ∀ t : State, Keeps afresh z t → Keeps afresh z (k t)) (hz : Keeps afresh z s) :
    Keeps afresh z (authorised s j k) := by
  unfold authorised
  try dsimp only
  repeat' first
    | (with_reducible first | assumption | apply refuseCmd_keeps | apply authFailed_keeps | apply writeOp_keeps)
    | (with_reducible first | apply hk)
    | split
    | simp only [keeps_with] | dsimp only | intro _

theorem secDone_keeps {z s : State} (j : Job) (k : State → State) (hk : ∀ t : State, Keeps afresh z t → Keeps afresh z (k t)) (hz : Keeps afresh z s) :
    Keeps afresh z (secDone s j k) := by
  unfold secDone
  try dsimp only
  repeat' first
    | (with_reducible first | assumption | apply endCmd_keeps | apply startCmd_keeps | apply hk)
    | dsimp only | intro _

theorem execProvClaim_keeps {z s : State} (entry : Fin 32) (hz : Keeps afresh z s) :
    KeepsOut afresh z (execProvClaim entry s) := by
  unfold execProvClaim
  try dsimp only
  repeat' first
    | (with_reducible first | assumption | apply refuseCmd_keeps | apply secDone_keeps | apply writeOp_keeps)
    | (with_reducible first | apply KeepsOut.next)
    | split
    | (with_reducible first | refine Keeps.snd (by assumption) ?_ | refine Keeps.fst (by assumption) ?_)
    | (with_reducible first | refine Keeps.opt (by assumption) ?_)
    | simp only [keeps_with] | dsimp only | intro _

theorem execSignerSet_keeps {z s : State} (entry : Fin 32) (hz : Keeps afresh z s) :
    KeepsOut afresh z (execSignerSet entry s) := by
  unfold execSignerSet
  try dsimp only
  repeat' first
    | (with_reducible first | assumption | apply authorised_keeps | apply refuseCmd_keeps | apply secDone_keeps)
    | (with_reducible first | apply writeOp_keeps | apply KeepsOut.next)
    | split
    | (with_reducible first | refine Keeps.snd (by assumption) ?_ | refine Keeps.fst (by assumption) ?_)
    | (with_reducible first | refine Keeps.opt (by assumption) ?_)
    | dsimp only | intro _

theorem execSignerClear_keeps {z s : State} (entry : Fin 32) (hz : Keeps afresh z s) :
    KeepsOut afresh z (execSignerClear entry s) := by
  unfold execSignerClear
  try dsimp only
  repeat' first
    | (with_reducible first | assumption | apply authorised_keeps | apply refuseCmd_keeps | apply secDone_keeps)
    | (with_reducible first | apply writeOp_keeps | apply KeepsOut.next)
    | split
    | (with_reducible first | refine Keeps.snd (by assumption) ?_ | refine Keeps.fst (by assumption) ?_)
    | (with_reducible first | refine Keeps.opt (by assumption) ?_)
    | simp only [keeps_with] | dsimp only | intro _

theorem execFloorRaise_keeps {z s : State} (entry : Fin 32) (hz : Keeps afresh z s) :
    KeepsOut afresh z (execFloorRaise entry s) := by
  unfold execFloorRaise
  try dsimp only
  repeat' first
    | (with_reducible first | assumption | apply authorised_keeps | apply refuseCmd_keeps | apply secDone_keeps)
    | (with_reducible first | apply writeOp_keeps | apply KeepsOut.next)
    | split
    | (with_reducible first | refine Keeps.snd (by assumption) ?_ | refine Keeps.fst (by assumption) ?_)
    | (with_reducible first | refine Keeps.opt (by assumption) ?_)
    | simp only [keeps_with] | dsimp only | intro _

theorem execSettingWrite_keeps {z s : State} (entry : Fin 32) (hz : Keeps afresh z s) :
    KeepsOut afresh z (execSettingWrite entry s) := by
  unfold execSettingWrite
  try dsimp only
  repeat' first
    | (with_reducible first | assumption | apply authorised_keeps | apply refuseCmd_keeps | apply secDone_keeps)
    | (with_reducible first | apply writeOp_keeps | apply KeepsOut.next)
    | split
    | (with_reducible first | refine Keeps.snd (by assumption) ?_ | refine Keeps.fst (by assumption) ?_)
    | (with_reducible first | refine Keeps.opt (by assumption) ?_)
    | dsimp only | intro _

theorem execOperatorReplace_keeps {z s : State} (entry : Fin 32) (hz : Keeps afresh z s) :
    KeepsOut afresh z (execOperatorReplace entry s) := by
  unfold execOperatorReplace
  try dsimp only
  repeat' first
    | (with_reducible first | assumption | apply authorised_keeps | apply refuseCmd_keeps | apply secDone_keeps)
    | (with_reducible first | apply endVisor_keeps | apply writeOp_keeps | apply KeepsOut.next)
    | split
    | (with_reducible first | refine Keeps.snd (by assumption) ?_ | refine Keeps.fst (by assumption) ?_)
    | (with_reducible first | refine Keeps.opt (by assumption) ?_)
    | simp only [keeps_with] | dsimp only | intro _

theorem execProvRelease_keeps {z s : State} (entry : Fin 32) (hz : Keeps afresh z s) :
    KeepsOut afresh z (execProvRelease entry s) := by
  unfold execProvRelease
  try dsimp only
  repeat' first
    | (with_reducible first | assumption | apply authorised_keeps | apply refuseCmd_keeps | apply secDone_keeps)
    | (with_reducible first | apply writeOp_keeps | apply appendEpoch_keeps | apply KeepsOut.next)
    | split
    | (with_reducible first | refine Keeps.snd (by assumption) ?_ | refine Keeps.fst (by assumption) ?_)
    | (with_reducible first | refine Keeps.opt (by assumption) ?_)
    | simp only [keeps_with] | dsimp only | intro _

theorem execVisorOpen_keeps {z s : State} (entry : Fin 32) (hz : Keeps afresh z s) :
    KeepsOut afresh z (execVisorOpen entry s) := by
  unfold execVisorOpen
  try dsimp only
  repeat' first
    | (with_reducible first | assumption | apply authorised_keeps | apply refuseCmd_keeps | apply secDone_keeps)
    | (with_reducible first | apply openVisor_keeps | apply writeOp_keeps | apply appendEpoch_keeps)
    | (with_reducible first | apply KeepsOut.next)
    | split
    | (with_reducible first | refine Keeps.snd (by assumption) ?_ | refine Keeps.fst (by assumption) ?_)
    | (with_reducible first | refine Keeps.opt (by assumption) ?_)
    | simp only [keeps_with] | dsimp only | intro _

theorem execVisorClose_keeps {z s : State} (entry : Fin 32) (hz : Keeps afresh z s) :
    KeepsOut afresh z (execVisorClose entry s) := by
  unfold execVisorClose
  try dsimp only
  repeat' first
    | (with_reducible first | assumption | apply refuseCmd_keeps | apply secDone_keeps | apply endVisor_keeps)
    | (with_reducible first | apply KeepsOut.next)
    | split
    | (with_reducible first | refine Keeps.snd (by assumption) ?_ | refine Keeps.fst (by assumption) ?_)
    | (with_reducible first | refine Keeps.opt (by assumption) ?_)
    | dsimp only | intro _

theorem execLiningWrite_keeps {z s : State} (entry : Fin 32) (hz : Keeps afresh z s) :
    KeepsOut afresh z (execLiningWrite entry s) := by
  unfold execLiningWrite
  try dsimp only
  repeat' first
    | (with_reducible first | assumption | apply refuseCmd_keeps | apply startCmd_keeps | apply endCmd_keeps)
    | (with_reducible first | apply KeepsOut.next)
    | split
    | (with_reducible first | refine Keeps.snd (by assumption) ?_ | refine Keeps.fst (by assumption) ?_)
    | (with_reducible first | refine Keeps.opt (by assumption) ?_)
    | simp only [keeps_with] | dsimp only | intro _

end Sys2Proof.Machine
end

