-- ==== Sys2Proof/Laws/KeepsResets.lean ====
section
/-! SUPPORT. What each operation of Machine/Resets.lean keeps. -/

set_option linter.all false

namespace Sys2Proof.Machine

variable {afresh : Prop}

theorem beginPartial_keeps {z s : State} (u : UnitRef) (trigger : Nat) (entry : Option Nat) (hz : Keeps afresh z s) :
    Keeps afresh z (beginPartial s u trigger entry) := by
  unfold beginPartial
  try dsimp only
  repeat' first
    | (with_reducible first | assumption)
    | split
    | (with_reducible first | refine Keeps.snd (by assumption) ?_ | refine Keeps.fst (by assumption) ?_)
    | (with_reducible first | refine Keeps.opt (by assumption) ?_)
    | simp only [keeps_with] | dsimp only | intro _

theorem execResetUnit_keeps {z s : State} (entry : Fin 32) (hz : Keeps afresh z s) :
    KeepsOut afresh z (execResetUnit entry s) := by
  unfold execResetUnit
  try dsimp only
  repeat' first
    | (with_reducible first | assumption | apply refuseCmd_keeps | apply beginPartial_keeps | apply startCmd_keeps)
    | (with_reducible first | apply KeepsOut.next)
    | split
    | (with_reducible first | refine Keeps.snd (by assumption) ?_ | refine Keeps.fst (by assumption) ?_)
    | (with_reducible first | refine Keeps.opt (by assumption) ?_)
    | dsimp only | intro _

theorem faultReset_keeps {z s : State} (u : UnitRef) (hz : Keeps afresh z s) :
    Keeps afresh z (faultReset s u) := by
  unfold faultReset
  try dsimp only
  repeat' first
    | (with_reducible first | assumption | apply beginPartial_keeps | apply faultEvent_keeps)
    | split
    | simp only [keeps_with] | dsimp only | intro _

theorem swReset_keeps {z s : State} (u : UnitRef) (hz : Keeps afresh z s) :
    Keeps afresh z (swReset s u) := by
  unfold swReset
  try dsimp only
  repeat' first
    | (with_reducible first | assumption | apply faultReset_keeps)
    | split
    | dsimp only | intro _

theorem execCoreSwReset_keeps {z s : State} (c : Fin 272) (hz : Keeps afresh z s) :
    KeepsOut afresh z (execCoreSwReset c s) := by
  unfold execCoreSwReset
  try dsimp only
  repeat' first
    | (with_reducible first | assumption | apply swReset_keeps | apply KeepsOut.next)
    | dsimp only | intro _

theorem execPalmSwReset_keeps {z s : State} (n : Fin 128) (hz : Keeps afresh z s) :
    KeepsOut afresh z (execPalmSwReset n s) := by
  unfold execPalmSwReset
  try dsimp only
  repeat' first
    | (with_reducible first | assumption | apply swReset_keeps | apply KeepsOut.next)
    | dsimp only | intro _

theorem execSliceSwReset_keeps {z s : State} (n : Fin 128) (hz : Keeps afresh z s) :
    KeepsOut afresh z (execSliceSwReset n s) := by
  unfold execSliceSwReset
  try dsimp only
  repeat' first
    | (with_reducible first | assumption | apply swReset_keeps | apply KeepsOut.next)
    | dsimp only | intro _

theorem execControllerSwReset_keeps {z s : State} (lpddr : Bool) (ch : Fin 16) (hz : Keeps afresh z s) :
    KeepsOut afresh z (execControllerSwReset lpddr ch s) := by
  unfold execControllerSwReset
  try dsimp only
  repeat' first
    | (with_reducible first | assumption | apply swReset_keeps | apply KeepsOut.next)
    | split
    | dsimp only | intro _

theorem fenceAny_keeps {z s : State} (u : UnitRef) (reason : Nat) (hz : Keeps afresh z s) :
    Keeps afresh z (fenceAny s u reason) := by
  unfold fenceAny
  try dsimp only
  repeat' first
    | (with_reducible first | assumption | apply fenceReceiver_keeps | apply fenceCluster_keeps)
    | (with_reducible first | apply fenceUnit_keeps | (apply Keeps.fold <;> intros))
    | (with_reducible first | (apply Keeps.fold2 <;> intros) | (apply Keeps.fold2' <;> intros))
    | (with_reducible first | (apply Keeps.fold3 <;> intros))
    | split
    | (with_reducible first | refine Keeps.snd (by assumption) ?_ | refine Keeps.fst (by assumption) ?_)
    | (with_reducible first | refine Keeps.opt (by assumption) ?_)
    | dsimp only | intro _

theorem recover_keeps {z s : State} (u : UnitRef) (hz : Keeps afresh z s) :
    Keeps afresh z (recover s u) := by
  unfold recover
  try dsimp only
  repeat' first
    | (with_reducible first | assumption | apply fenceAny_keeps | apply faultReset_keeps)
    | split
    | dsimp only | intro _

theorem execUnitPollTimeout_keeps {z s : State} (u : UnitRef) (hz : Keeps afresh z s) :
    KeepsOut afresh z (execUnitPollTimeout u s) := by
  unfold execUnitPollTimeout
  try dsimp only
  repeat' first
    | (with_reducible first | assumption | apply recover_keeps | apply KeepsOut.next)
    | dsimp only | intro _

theorem execControlStateUncorrectable_keeps {z s : State} (u : UnitRef) (hz : Keeps afresh z s) :
    KeepsOut afresh z (execControlStateUncorrectable u s) := by
  unfold execControlStateUncorrectable
  try dsimp only
  repeat' first
    | (with_reducible first | assumption | apply recover_keeps | apply KeepsOut.next)
    | split
    | (with_reducible first | refine Keeps.snd (by assumption) ?_ | refine Keeps.fst (by assumption) ?_)
    | (with_reducible first | refine Keeps.opt (by assumption) ?_)
    | dsimp only | intro _

theorem execFenceByCrownCommand_keeps {z s : State} (u : UnitRef) (hz : Keeps afresh z s) :
    KeepsOut afresh z (execFenceByCrownCommand u s) := by
  unfold execFenceByCrownCommand
  try dsimp only
  repeat' first
    | (with_reducible first | assumption | apply fenceAny_keeps | apply KeepsOut.next)
    | split
    | (with_reducible first | refine Keeps.snd (by assumption) ?_ | refine Keeps.fst (by assumption) ?_)
    | (with_reducible first | refine Keeps.opt (by assumption) ?_)
    | dsimp only | intro _

theorem dropMisses_keeps {z s : State} (n : Nat) (hz : Keeps afresh z s) :
    Keeps afresh z (dropMisses s n) := by
  unfold dropMisses
  try dsimp only
  repeat' first
    | (with_reducible first | assumption | apply State.updSlice_keeps | apply State.updMc_keeps)
    | (with_reducible first | (apply Keeps.fold <;> intros) | (apply Keeps.fold2 <;> intros))
    | (with_reducible first | (apply Keeps.fold2' <;> intros) | (apply Keeps.fold3 <;> intros))
    | simp only [keeps_with] | dsimp only | intro _

theorem applyAccepted_keeps {z s : State} (n : Nat) (r : Req) (hz : Keeps afresh z s) :
    Keeps afresh z (applyAccepted s n r) := by
  unfold applyAccepted
  try dsimp only
  repeat' first
    | (with_reducible first | assumption | apply dirInvRange_keeps | apply storeLine_keeps | apply writeBack_keeps)
    | split
    | (with_reducible first | refine Keeps.snd (by assumption) ?_ | refine Keeps.fst (by assumption) ?_)
    | (with_reducible first | refine Keeps.opt (by assumption) ?_)
    | dsimp only | intro _

theorem absorbSlice_keeps {z s : State} (n : Nat) (hz : Keeps afresh z s) :
    Keeps afresh z (absorbSlice s n) := by
  unfold absorbSlice
  try dsimp only
  repeat' first
    | (with_reducible first | assumption | apply answer_keeps | apply applyAccepted_keeps | apply dropMisses_keeps)
    | (with_reducible first | apply State.updSlice_keeps | (apply Keeps.fold <;> intros))
    | (with_reducible first | (apply Keeps.fold2 <;> intros) | (apply Keeps.fold2' <;> intros))
    | (with_reducible first | (apply Keeps.fold3 <;> intros))
    | simp only [keeps_with] | dsimp only | intro _

theorem drainSlice_keeps {z s : State} (n : Nat) (hz : Keeps afresh z s) :
    Keeps afresh z (drainSlice s n) := by
  unfold drainSlice
  try dsimp only
  repeat' first
    | (with_reducible first | assumption | apply settleLine_keeps | (apply Keeps.fold <;> intros))
    | (with_reducible first | (apply Keeps.fold2 <;> intros) | (apply Keeps.fold2' <;> intros))
    | (with_reducible first | (apply Keeps.fold3 <;> intros))
    | dsimp only | intro _

theorem serveAtCtl_keeps {z s : State} (lpddr : Bool) (c : Nat) (r : MemReq) (hz : Keeps afresh z s) :
    Keeps afresh z (serveAtCtl s lpddr c r) := by
  unfold serveAtCtl
  try dsimp only
  repeat' first
    | (with_reducible first | assumption | apply storeAtCtl_keeps | apply bondedTake_keeps | apply chargeCtl_keeps)
    | (with_reducible first | apply giveBack_keeps | apply lpRead_keeps)
    | split
    | (with_reducible first | refine Keeps.snd (by assumption) ?_ | refine Keeps.fst (by assumption) ?_)
    | (with_reducible first | refine Keeps.opt (by assumption) ?_)
    | dsimp only | intro _

theorem drainMerges_keeps {z s : State} (c : Nat) (hz : Keeps afresh z s) :
    Keeps afresh z (drainMerges s c) := by
  unfold drainMerges
  try dsimp only
  repeat' first
    | (with_reducible first | assumption | apply drainEntry_keeps | (apply Keeps.fold <;> intros))
    | (with_reducible first | (apply Keeps.fold2 <;> intros) | (apply Keeps.fold2' <;> intros))
    | (with_reducible first | (apply Keeps.fold3 <;> intros))
    | dsimp only | intro _

theorem drainCtl_keeps {z s : State} (lpddr : Bool) (c : Nat) (hz : Keeps afresh z s) :
    Keeps afresh z (drainCtl s lpddr c) := by
  unfold drainCtl
  try dsimp only
  repeat' first
    | (with_reducible first | assumption | apply serveAtCtl_keeps | apply State.updMc_keeps)
    | (with_reducible first | apply drainMerges_keeps | (apply Keeps.fold <;> intros))
    | (with_reducible first | (apply Keeps.fold2 <;> intros) | (apply Keeps.fold2' <;> intros))
    | (with_reducible first | (apply Keeps.fold3 <;> intros))
    | split
    | simp only [keeps_with] | dsimp only | intro _

theorem absorbCtl_keeps {z s : State} (lpddr : Bool) (c : Nat) (hz : Keeps afresh z s) :
    Keeps afresh z (absorbCtl s lpddr c) := by
  unfold absorbCtl
  try dsimp only
  repeat' first
    | (with_reducible first | assumption | apply State.updMc_keeps)
    | split
    | dsimp only | intro _

theorem writeDirty_keeps {z s : State} (n : Nat) (p : Line → Bool) (hz : Keeps afresh z s) :
    Keeps afresh z (writeDirty s n p) := by
  unfold writeDirty
  try dsimp only
  repeat' first
    | (with_reducible first | assumption | apply writeBack_keeps | (apply Keeps.fold <;> intros))
    | (with_reducible first | (apply Keeps.fold2 <;> intros) | (apply Keeps.fold2' <;> intros))
    | (with_reducible first | (apply Keeps.fold3 <;> intros))
    | dsimp only | intro _

theorem resetEngine_keeps {z s : State} (n : Nat) (hz : Keeps afresh z s) :
    Keeps afresh z (resetEngine s n) := by
  unfold resetEngine
  try dsimp only
  repeat' first
    | (with_reducible first | assumption | apply updLaunch_keeps | apply State.setEngine_keeps)
    | (with_reducible first | apply faultEvent_keeps | (apply Keeps.fold <;> intros))
    | (with_reducible first | (apply Keeps.fold2 <;> intros) | (apply Keeps.fold2' <;> intros))
    | (with_reducible first | (apply Keeps.fold3 <;> intros))
    | split
    | simp only [keeps_with] | simp only [id_eq] | dsimp only | intro _

theorem recopyShares_keeps {z s : State} (n : Nat) (hz : Keeps afresh z s) :
    Keeps afresh z (recopyShares s n) := by
  unfold recopyShares
  try dsimp only
  repeat' first
    | (with_reducible first | assumption | apply rewriteLine_keeps | (apply Keeps.fold <;> intros))
    | (with_reducible first | (apply Keeps.fold2 <;> intros) | (apply Keeps.fold2' <;> intros))
    | (with_reducible first | (apply Keeps.fold3 <;> intros))
    | dsimp only | intro _

theorem loseOnSlice_keeps {z s : State} (n : Nat) (hz : Keeps afresh z s) :
    Keeps afresh z (loseOnSlice s n) := by
  unfold loseOnSlice
  try dsimp only
  repeat' first
    | (with_reducible first | assumption | apply loseSequences_keeps | apply endLost_keeps)
    | (with_reducible first | (apply Keeps.fold <;> intros) | (apply Keeps.fold2 <;> intros))
    | (with_reducible first | (apply Keeps.fold2' <;> intros) | (apply Keeps.fold3 <;> intros))
    | dsimp only | intro _

theorem resetSlice_keeps {z s : State} (n : Nat) (p : Partial) (hz : Keeps afresh z s) :
    Keeps afresh z (resetSlice s n p) := by
  unfold resetSlice
  try dsimp only
  repeat' first
    | (with_reducible first | assumption | apply drainSlice_keeps | apply writeDirty_keeps)
    | (with_reducible first | apply State.updSlice_keeps | apply placeLocal_keeps | apply resetEngine_keeps)
    | (with_reducible first | apply loseOnSlice_keeps | apply recopyShares_keeps | (apply Keeps.fold <;> intros))
    | (with_reducible first | (apply Keeps.fold2 <;> intros) | (apply Keeps.fold2' <;> intros))
    | (with_reducible first | (apply Keeps.fold3 <;> intros))
    | split
    | simp only [keeps_with] | dsimp only | intro _

theorem resetCtl_keeps {z s : State} (lpddr : Bool) (c : Nat) (p : Partial) (hz : Keeps afresh z s) :
    Keeps afresh z (resetCtl s lpddr c p) := by
  unfold resetCtl
  try dsimp only
  repeat' first
    | (with_reducible first | assumption | apply drainCtl_keeps | apply State.updMc_keeps)
    | split
    | simp only [keeps_with] | dsimp only | intro _

theorem resetBlock_keeps {z s : State} (p : Partial) (hz : Keeps afresh z s) :
    Keeps afresh z (resetBlock s p) := by
  unfold resetBlock
  try dsimp only
  repeat' first
    | (with_reducible first | assumption | apply resetEngine_keeps | apply resetSlice_keeps | apply resetCtl_keeps)
    | (with_reducible first | apply loseCore_keeps | (apply Keeps.fold <;> intros) | (apply Keeps.fold2 <;> intros))
    | (with_reducible first | (apply Keeps.fold2' <;> intros) | (apply Keeps.fold3 <;> intros))
    | split
    | (with_reducible first | refine Keeps.snd (by assumption) ?_ | refine Keeps.fst (by assumption) ?_)
    | (with_reducible first | refine Keeps.opt (by assumption) ?_)
    | dsimp only | intro _

theorem releaseUnit_keeps {z s : State} (u : UnitRef) (hz : Keeps afresh z s) :
    Keeps afresh z (releaseUnit s u) := by
  unfold releaseUnit
  try dsimp only
  repeat' first
    | (with_reducible first | assumption | apply goOn_keeps | apply release_keeps | apply admitCtl_keeps)
    | split
    | (with_reducible first | refine Keeps.snd (by assumption) ?_ | refine Keeps.fst (by assumption) ?_)
    | (with_reducible first | refine Keeps.opt (by assumption) ?_)
    | dsimp only | intro _

theorem execPartialResetComplete_keeps {z s : State} (u : UnitRef) (hz : Keeps afresh z s) :
    KeepsOut afresh z (execPartialResetComplete u s) := by
  unfold execPartialResetComplete
  try dsimp only
  repeat' first
    | (with_reducible first | assumption | apply releaseUnit_keeps | apply endPartial_keeps)
    | (with_reducible first | apply resetBlock_keeps | apply KeepsOut.next)
    | split
    | (with_reducible first | refine Keeps.snd (by assumption) ?_ | refine Keeps.fst (by assumption) ?_)
    | (with_reducible first | refine Keeps.opt (by assumption) ?_)
    | dsimp only | intro _

theorem absorb_keeps {z s : State} (u : UnitRef) (hz : Keeps afresh z s) :
    Keeps afresh z (absorb s u) := by
  unfold absorb
  try dsimp only
  repeat' first
    | (with_reducible first | assumption | apply absorbSlice_keeps | apply absorbCtl_keeps | apply orphanReqs_keeps)
    | (with_reducible first | apply State.updCore_keeps | (apply Keeps.fold <;> intros))
    | (with_reducible first | (apply Keeps.fold2 <;> intros) | (apply Keeps.fold2' <;> intros))
    | (with_reducible first | (apply Keeps.fold3 <;> intros))
    | split
    | (with_reducible first | refine Keeps.snd (by assumption) ?_ | refine Keeps.fst (by assumption) ?_)
    | (with_reducible first | refine Keeps.opt (by assumption) ?_)
    | simp only [keeps_with] | dsimp only | intro _

theorem execCuffTimeout_keeps {z s : State} (u : UnitRef) (hz : Keeps afresh z s) :
    KeepsOut afresh z (execCuffTimeout u s) := by
  unfold execCuffTimeout
  try dsimp only
  repeat' first
    | (with_reducible first | assumption | apply absorb_keeps | apply KeepsOut.next)
    | split
    | (with_reducible first | refine Keeps.snd (by assumption) ?_ | refine Keeps.fst (by assumption) ?_)
    | (with_reducible first | refine Keeps.opt (by assumption) ?_)
    | simp only [keeps_with] | dsimp only | intro _

theorem denyLine_keeps {z s : State} (n : Nat) (b : List (Option (List Byte) × Bool)) (l : Nat) (hz : Keeps afresh z s) :
    Keeps afresh z (denyLine n (b, s) l).2 := by
  unfold denyLine
  dsimp only
  split
  · split
    · exact hz
    · exact hostReadLine_keeps _ hz
  · exact hostReadLine_keeps _ hz

theorem denyHost_keeps {z s : State} (n : Nat) (a : HostAcc) (hz : Keeps afresh z s) :
    Keeps afresh z (denyHost n s a) := by
  unfold denyHost
  try dsimp only
  repeat' first
    | (with_reducible first | assumption | apply denyLine_keeps | apply State.emit_keeps | apply ringWrite_keeps)
    | (with_reducible first | (apply Keeps.fold <;> intros) | (apply Keeps.fold2 <;> intros))
    | (with_reducible first | (apply Keeps.fold2' <;> intros) | (apply Keeps.fold3 <;> intros))
    | split
    | (with_reducible first | refine Keeps.snd (by assumption) ?_ | refine Keeps.fst (by assumption) ?_)
    | (with_reducible first | refine Keeps.opt (by assumption) ?_)
    | dsimp only | intro _

theorem denyHeld_keeps {z s : State} (n : Nat) (hz : Keeps afresh z s) :
    Keeps afresh z (denyHeld s n) := by
  unfold denyHeld
  try dsimp only
  repeat' first
    | (with_reducible first | assumption | apply State.updSlice_keeps | apply answer_keeps)
    | (with_reducible first | apply State.updCore_keeps | apply denyHost_keeps | (apply Keeps.fold <;> intros))
    | (with_reducible first | (apply Keeps.fold2 <;> intros) | (apply Keeps.fold2' <;> intros))
    | (with_reducible first | (apply Keeps.fold3 <;> intros))
    | simp only [keeps_with] | dsimp only | intro _

theorem execPartialResetTimeout_keeps {z s : State} (u : UnitRef) (hz : Keeps afresh z s) :
    KeepsOut afresh z (execPartialResetTimeout u s) := by
  unfold execPartialResetTimeout
  try dsimp only
  repeat' first
    | (with_reducible first | assumption | apply startSliceFence_keeps | apply denyHeld_keeps)
    | (with_reducible first | apply absorbSlice_keeps | apply fenceAny_keeps | apply KeepsOut.next)
    | split
    | (with_reducible first | refine Keeps.snd (by assumption) ?_ | refine Keeps.fst (by assumption) ?_)
    | (with_reducible first | refine Keeps.opt (by assumption) ?_)
    | dsimp only | intro _

end Sys2Proof.Machine
end

