-- ==== Sys2Proof/Laws/KeepsBoot.lean ====
section
/-! SUPPORT. What each operation of Machine/Boot.lean keeps. -/

set_option linter.all false

namespace Sys2Proof.Machine

variable {afresh : Prop}

theorem updStep_keeps {z s : State} (k : Nat) (f : BootStep → BootStep) (hz : Keeps afresh z s) :
    Keeps afresh z (updStep s k f) := by
  unfold updStep
  try dsimp only
  repeat' first
    | (with_reducible first | assumption)
    | simp only [keeps_with] | dsimp only | intro _

theorem beginStep_keeps {z s : State} (k : Nat) (hz : Keeps afresh z s) :
    Keeps afresh z (beginStep s k) := by
  unfold beginStep
  try dsimp only
  repeat' first
    | (with_reducible first | assumption | apply updStep_keeps)
    | simp only [keeps_with] | dsimp only | intro _

theorem finishStep_keeps {z s : State} (k : Nat) (e : StepEnd) (hz : Keeps afresh z s) :
    Keeps afresh z (finishStep s k e) := by
  unfold finishStep
  try dsimp only
  repeat' first
    | (with_reducible first | assumption | apply updStep_keeps)
    | simp only [keeps_with] | dsimp only | intro _

theorem stopBoot_keeps {z s : State} (k : Nat) (hz : Keeps afresh z s) :
    Keeps afresh z (stopBoot s k) := by
  unfold stopBoot
  try dsimp only
  repeat' first
    | (with_reducible first | assumption | apply finishStep_keeps)
    | simp only [keeps_with] | dsimp only | intro _

theorem runStep_keeps {z s : State} (env : BootEnv) (k : Nat) (f : State → State) (hf : ∀ t : State, Keeps afresh z t → Keeps afresh z (f t)) (hz : Keeps afresh z s) :
    Keeps afresh z (runStep env k f s) := by
  unfold runStep
  try dsimp only
  repeat' first
    | (with_reducible first | assumption | apply beginStep_keeps | apply hf)
    | split
    | dsimp only | intro _

theorem markEnded_keeps {z s : State} (k : Nat) (us : List UnitRef) (hz : Keeps afresh z s) :
    Keeps afresh z (markEnded s k us) := by
  unfold markEnded
  try dsimp only
  repeat' first
    | (with_reducible first | assumption)
    | simp only [keeps_with] | dsimp only | intro _

theorem runUnits_keeps {z s : State} (env : BootEnv) (more : List (Nat × UnitRef)) (k : Nat) (part : (UnitRef → Bool) → State → State) (fin : Nat → State → State) (hpart : ∀ (x : (UnitRef → Bool)) (t : State), Keeps afresh z t → Keeps afresh z (part x t)) (hfin : ∀ (x : Nat) (t : State), Keeps afresh z t → Keeps afresh z (fin x t)) (hz : Keeps afresh z s) :
    Keeps afresh z (runUnits env more k part fin s) := by
  unfold runUnits
  try dsimp only
  repeat' first
    | (with_reducible first | assumption | apply beginStep_keeps | apply markEnded_keeps | apply hpart | apply hfin)
    | split
    | (with_reducible first | refine Keeps.snd (by assumption) ?_ | refine Keeps.fst (by assumption) ?_)
    | (with_reducible first | refine Keeps.opt (by assumption) ?_)
    | dsimp only | intro _

theorem fenceBootSlice_keeps {z s : State} (homes : Bool) (reason n : Nat) (hz : Keeps afresh z s) :
    Keeps afresh z (fenceBootSlice s homes reason n) := by
  unfold fenceBootSlice
  try dsimp only
  repeat' first
    | (with_reducible first | assumption | apply floorChange_keeps | apply dealBuckets_keeps)
    | split
    | (intro _; unfold codeOk; omega) | (unfold codeOk; omega) | dsimp only | intro _

theorem fenceBoot_keeps {z s : State} (homes : Bool) (reason : Nat) (u : UnitRef) (hz : Keeps afresh z s) :
    Keeps afresh z (fenceBoot s homes reason u) := by
  unfold fenceBoot
  try dsimp only
  repeat' first
    | (with_reducible first | assumption | apply fenceBootSlice_keeps | apply floorChange_keeps)
    | (with_reducible first | apply fenceUnit_keeps)
    | split
    | (with_reducible first | refine Keeps.snd (by assumption) ?_ | refine Keeps.fst (by assumption) ?_)
    | (with_reducible first | refine Keeps.opt (by assumption) ?_)
    | (intro _; unfold codeOk; omega) | (unfold codeOk; omega) | dsimp only | intro _

theorem failUnits_keeps {z s : State} (env : BootEnv) (more : List (Nat × UnitRef)) (k : Nat) (homes : Bool) (reason : Nat) (sel : UnitRef → Bool) (hz : Keeps afresh z s) :
    Keeps afresh z (failUnits env more k homes reason sel s) := by
  unfold failUnits
  try dsimp only
  repeat' first
    | (with_reducible first | assumption | apply fenceBoot_keeps | (apply Keeps.fold <;> intros))
    | (with_reducible first | (apply Keeps.fold2 <;> intros) | (apply Keeps.fold2' <;> intros))
    | (with_reducible first | (apply Keeps.fold3 <;> intros))
    | dsimp only | intro _

theorem endUnits_keeps {z s : State} (k n : Nat) (hz : Keeps afresh z s) :
    Keeps afresh z (endUnits k n s) := by
  unfold endUnits
  try dsimp only
  repeat' first
    | (with_reducible first | assumption | apply finishStep_keeps)
    | dsimp only | intro _

theorem runCopy_keeps {z s : State} (b : Bool) (hz : Keeps afresh z s) :
    Keeps afresh z (runCopy s b) := by
  unfold runCopy
  try dsimp only
  repeat' first
    | (with_reducible first | assumption)
    | simp only [keeps_with] | dsimp only | intro _

theorem stepTwo_keeps {z s : State} (env : BootEnv) (hz : Keeps afresh z s) :
    Keeps afresh z (stepTwo env s) := by
  unfold stepTwo
  try dsimp only
  repeat' first
    | (with_reducible first | assumption | apply finishStep_keeps | apply runCopy_keeps | apply stopBoot_keeps)
    | split
    | dsimp only | intro _

theorem takeOtherCopy_keeps {z s : State} (env : BootEnv) (hz : Keeps afresh z s) :
    Keeps afresh z (takeOtherCopy env s) := by
  unfold takeOtherCopy
  try dsimp only
  repeat' first
    | (with_reducible first | assumption | apply finishStep_keeps | apply runCopy_keeps)
    | split
    | dsimp only | intro _

theorem readOperator_keeps {z s : State} (hz : Keeps afresh z s) :
    Keeps afresh z (readOperator s) := by
  unfold readOperator
  try dsimp only
  repeat' first
    | (with_reducible first | assumption | apply notice_keeps | apply writeOp_keeps)
    | split
    | simp only [keeps_with] | dsimp only | intro _

theorem failedStart_keeps {z s : State} (hz : Keeps afresh z s) :
    Keeps afresh z (failedStart s).1 := by
  unfold failedStart
  try dsimp only
  repeat' first
    | (with_reducible first | assumption)
    | split
    | (with_reducible first | refine Keeps.snd (by assumption) ?_ | refine Keeps.fst (by assumption) ?_)
    | (with_reducible first | refine Keeps.opt (by assumption) ?_)
    | simp only [keeps_with] | dsimp only | intro _

theorem lockstepEvent_keeps {z s : State} (hz : Keeps afresh z s) :
    Keeps afresh z (lockstepEvent s) := by
  unfold lockstepEvent
  try dsimp only
  repeat' first
    | (with_reducible first | assumption | apply logEvent_keeps)
    | split
    | simp only [keeps_with] | dsimp only | intro _

theorem closeEvent_keeps {z s : State} (hz : Keeps afresh z s) :
    Keeps afresh z (closeEvent s) := by
  unfold closeEvent
  try dsimp only
  repeat' first
    | (with_reducible first | assumption | apply notice_keeps)
    | split
    | simp only [keeps_with] | dsimp only | intro _

theorem liningLost_keeps {z s : State} (bad : Bool) (hb : bad = true → afresh) (hz : Keeps afresh z s) :
    Keeps afresh z (liningLost s bad) := by
  unfold liningLost
  split
  · rename_i e
    refine logEvent_keeps _ ⟨hz.1, ⟨hz.2.1.1, fun _ ut id => .inr ⟨hb (by simp only [Bool.and_eq_true] at e; exact e.2), ?_⟩⟩, fun i => ?_⟩
    · rw [← hz.2.1.1]; exact Worse.refl _
    have k := hz.2.2 i
    exact ⟨k.1, codesOk_congr (f := s.flp.delivered) rfl k.2.2.1, k.2.2.1, k.2.2.2⟩
  · exact hz

theorem stepThree_keeps {z s : State} (env : BootEnv) (hb : env.liningBad = true → afresh) (hz : Keeps afresh z s) :
    Keeps afresh z (stepThree env s).1 := by
  unfold stepThree
  try dsimp only
  repeat' first
    | (with_reducible first | assumption | apply recordSets_keeps | apply liningLost_keeps | apply closeEvent_keeps)
    | (with_reducible first | apply readOperator_keeps | apply lockstepEvent_keeps | apply restoreRing_keeps)
    | (with_reducible first | apply stopBoot_keeps | apply failedStart_keeps | apply finishStep_keeps)
    | (with_reducible first | apply takeOtherCopy_keeps)
    | split
    | simp only [keeps_with] | dsimp only | intro _

theorem bootBond_keeps {z s : State} (homes : Bool) (b : Bond) (hz : Keeps afresh z s) :
    Keeps afresh z (bootBond homes s b) := by
  unfold bootBond
  try dsimp only
  repeat' first
    | (with_reducible first | assumption | apply fenceBoot_keeps | apply failBond_keeps | apply floorChange_keeps)
    | (with_reducible first | apply correction_keeps)
    | split
    | (with_reducible first | refine Keeps.snd (by assumption) ?_ | refine Keeps.fst (by assumption) ?_)
    | (with_reducible first | refine Keeps.opt (by assumption) ?_)
    | (intro _; unfold codeOk; omega) | (unfold codeOk; omega) | simp only [id_eq] | dsimp only | intro _

theorem stepSix_keeps {z s : State} (env : BootEnv) (more : List (Nat × UnitRef)) (sel : UnitRef → Bool)
    (hz : Keeps afresh z s) : Keeps afresh z (stepSix env more sel s) := by
  unfold stepSix
  dsimp only
  apply failUnits_keeps
  refine Keeps.fold (fun _ _ h => bootBond_keeps _ _ h) ?_
  refine ⟨hz.1, hz.2.1, fun i => ?_⟩
  have k := hz.2.2 i
  exact ⟨k.1, codesOk_congr (f := s.flp.cur) rfl k.2.1, k.2.2⟩

theorem takeCoreSpares_keeps {z s : State} (homes : Bool) (c : Fin 272) (kind n : Nat) (hz : Keeps afresh z s) :
    Keeps afresh z (takeCoreSpares homes s c kind n) := by
  unfold takeCoreSpares
  try dsimp only
  repeat' first
    | (with_reducible first | assumption | apply State.updCore_keeps | apply fenceBoot_keeps)
    | split
    | simp only [keeps_with] | dsimp only | intro _

theorem takeSpares_keeps {z s : State} (homes : Bool) (f : UnitRef × Struct × Nat) (hz : Keeps afresh z s) :
    Keeps afresh z (takeSpares homes s f) := by
  unfold takeSpares
  try dsimp only
  repeat' first
    | (with_reducible first | assumption | apply State.updSlice_keeps | apply fenceBoot_keeps)
    | (with_reducible first | apply takeCoreSpares_keeps)
    | split
    | (with_reducible first | refine Keeps.snd (by assumption) ?_ | refine Keeps.fst (by assumption) ?_)
    | (with_reducible first | refine Keeps.opt (by assumption) ?_)
    | simp only [keeps_with] | dsimp only | intro _

theorem stepSevenBoot_keeps {z s : State} (env : BootEnv) (more : List (Nat × UnitRef)) (sel : UnitRef → Bool) (hz : Keeps afresh z s) :
    Keeps afresh z (stepSevenBoot env more sel s) := by
  unfold stepSevenBoot
  try dsimp only
  repeat' first
    | (with_reducible first | assumption | apply takeCoreSpares_keeps | apply takeSpares_keeps)
    | (with_reducible first | apply failUnits_keeps | (apply Keeps.fold <;> intros))
    | (with_reducible first | (apply Keeps.fold2 <;> intros) | (apply Keeps.fold2' <;> intros))
    | (with_reducible first | (apply Keeps.fold3 <;> intros))
    | split
    | simp only [keeps_with] | dsimp only | intro _

theorem stepEight_keeps {z s : State} (env : BootEnv) (more : List (Nat × UnitRef)) (sel : UnitRef → Bool) (hz : Keeps afresh z s) :
    Keeps afresh z (stepEight env more sel s) := by
  unfold stepEight
  try dsimp only
  repeat' first
    | (with_reducible first | assumption | apply floorChange_keeps | apply dropSet_keeps | apply failUnits_keeps)
    | (with_reducible first | (apply Keeps.fold <;> intros) | (apply Keeps.fold2 <;> intros))
    | (with_reducible first | (apply Keeps.fold2' <;> intros) | (apply Keeps.fold3 <;> intros))
    | split
    | (intro _; unfold codeOk; omega) | (unfold codeOk; omega) | dsimp only | intro _

theorem endEight_keeps {z s : State} (n : Nat) (hz : Keeps afresh z s) :
    Keeps afresh z (endEight n s) := by
  unfold endEight
  try dsimp only
  repeat' first
    | (with_reducible first | assumption | apply finishStep_keeps)
    | split
    | simp only [keeps_with] | dsimp only | intro _

theorem buildHomes_keeps {z s : State} (hz : Keeps afresh z s) :
    Keeps afresh z (buildHomes s) := by
  unfold buildHomes
  try dsimp only
  repeat' first
    | (with_reducible first | assumption | (apply Keeps.fold <;> intros) | (apply Keeps.fold2 <;> intros))
    | (with_reducible first | (apply Keeps.fold2' <;> intros) | (apply Keeps.fold3 <;> intros))
    | split
    | (with_reducible first | apply Keeps.getD)
    | simp only [keeps_with] | dsimp only | intro _

theorem newKeys_keeps {z s : State} (hz : Keeps afresh z s) :
    Keeps afresh z (newKeys s) := by
  unfold newKeys
  try dsimp only
  repeat' first
    | (with_reducible first | assumption | apply State.draw_keeps)
    | simp only [keeps_with] | dsimp only | intro _

theorem stepNine_keeps {z s : State} (env : BootEnv) (more : List (Nat × UnitRef)) (sel : UnitRef → Bool) (hz : Keeps afresh z s) :
    Keeps afresh z (stepNine env more sel s) := by
  unfold stepNine
  try dsimp only
  repeat' first
    | (with_reducible first | assumption | apply floorChange_keeps | apply failUnits_keeps)
    | (with_reducible first | (apply Keeps.fold <;> intros) | (apply Keeps.fold2 <;> intros))
    | (with_reducible first | (apply Keeps.fold2' <;> intros) | (apply Keeps.fold3 <;> intros))
    | split
    | (intro _; unfold codeOk; omega) | (unfold codeOk; omega) | dsimp only | intro _

theorem zeroCounters_keeps {z s : State} (hz : Keeps afresh z s) :
    Keeps afresh z (zeroCounters s) := by
  unfold zeroCounters
  try dsimp only
  repeat' first
    | (with_reducible first | assumption)
    | simp only [keeps_with] | dsimp only | intro _

theorem endNine_keeps {z s : State} (env : BootEnv) (n : Nat) (hz : Keeps afresh z s) :
    Keeps afresh z (endNine env n s) := by
  unfold endNine
  try dsimp only
  repeat' first
    | (with_reducible first | assumption | apply stopBoot_keeps | apply newKeys_keeps | apply zeroCounters_keeps)
    | (with_reducible first | apply buildHomes_keeps | apply finishStep_keeps)
    | split
    | simp only [keeps_with] | dsimp only | intro _

theorem shadowSlot_keeps {z s : State} (n : Nat) (hz : Keeps afresh z s) :
    Keeps afresh z (shadowSlot s n) := by
  unfold shadowSlot
  try dsimp only
  repeat' first
    | (with_reducible first | assumption | apply touchShadow_keeps | apply State.setShadow_keeps)
    | (with_reducible first | apply State.putShadow_keeps | apply recordLoad_keeps)
    | split
    | (with_reducible first | refine Keeps.snd (by assumption) ?_ | refine Keeps.fst (by assumption) ?_)
    | (with_reducible first | refine Keeps.opt (by assumption) ?_)
    | simp only [keeps_with] | dsimp only | intro _

theorem stepTen_keeps {z s : State} (hz : Keeps afresh z s) :
    Keeps afresh z (stepTen s) := by
  unfold stepTen
  try dsimp only
  repeat' first
    | (with_reducible first | assumption | apply finishStep_keeps | apply shadowSlot_keeps)
    | (with_reducible first | (apply Keeps.fold <;> intros) | (apply Keeps.fold2 <;> intros))
    | (with_reducible first | (apply Keeps.fold2' <;> intros) | (apply Keeps.fold3 <;> intros))
    | dsimp only | intro _

theorem hungTen_keeps {z s : State} (env : BootEnv) (hz : Keeps afresh z s) :
    Keeps afresh z (hungTen env s) := by
  unfold hungTen
  try dsimp only
  repeat' first
    | (with_reducible first | assumption | apply shadowSlot_keeps | (apply Keeps.fold <;> intros))
    | (with_reducible first | (apply Keeps.fold2 <;> intros) | (apply Keeps.fold2' <;> intros))
    | (with_reducible first | (apply Keeps.fold3 <;> intros))
    | split
    | (with_reducible first | refine Keeps.snd (by assumption) ?_ | refine Keeps.fst (by assumption) ?_)
    | (with_reducible first | refine Keeps.opt (by assumption) ?_)
    | simp only [keeps_with] | dsimp only | intro _

theorem runTen_keeps {z s : State} (env : BootEnv) (hz : Keeps afresh z s) :
    Keeps afresh z (runTen env s) := by
  unfold runTen
  try dsimp only
  repeat' first
    | (with_reducible first | assumption | apply hungTen_keeps | apply beginStep_keeps | apply stepTen_keeps)
    | split
    | dsimp only | intro _

theorem trainLink_keeps {z s : State} (width rate : Nat) (hz : Keeps afresh z s) :
    Keeps afresh z (trainLink s width rate) := by
  unfold trainLink
  try dsimp only
  repeat' first
    | (with_reducible first | assumption)
    | split
    | simp only [keeps_with] | dsimp only | intro _

theorem stepEleven_keeps {z s : State} (env : BootEnv) (hz : Keeps afresh z s) :
    Keeps afresh z (stepEleven env s) := by
  unfold stepEleven
  try dsimp only
  repeat' first
    | (with_reducible first | assumption | apply finishStep_keeps | apply trainLink_keeps)
    | split
    | (with_reducible first | refine Keeps.snd (by assumption) ?_ | refine Keeps.fst (by assumption) ?_)
    | (with_reducible first | refine Keeps.opt (by assumption) ?_)
    | simp only [keeps_with] | dsimp only | intro _

theorem stepThirteen_keeps {z s : State} (env : BootEnv) (more : List (Nat × UnitRef)) (sel : UnitRef → Bool) (hz : Keeps afresh z s) :
    Keeps afresh z (stepThirteen env more sel s) := by
  unfold stepThirteen
  try dsimp only
  repeat' first
    | (with_reducible first | assumption | apply requestOn_keeps | apply fenceBoot_keeps)
    | (with_reducible first | (apply Keeps.fold <;> intros) | (apply Keeps.fold2 <;> intros))
    | (with_reducible first | (apply Keeps.fold2' <;> intros) | (apply Keeps.fold3 <;> intros))
    | dsimp only | intro _

theorem lastSteps_keeps {z s : State} (env : BootEnv) (more : List (Nat × UnitRef)) (hz : Keeps afresh z s) :
    Keeps afresh z (lastSteps env more s) := by
  unfold lastSteps
  try dsimp only
  repeat' first
    | (with_reducible first | assumption | apply runUnits_keeps | apply stepThirteen_keeps | apply endUnits_keeps)
    | (with_reducible first | apply beginStep_keeps)
    | split
    | dsimp only | intro _

theorem endFwd_keeps {z s : State} (x : FwdRun) (hz : Keeps afresh z s) :
    Keeps afresh z (endFwd s x) := by
  unfold endFwd
  try dsimp only
  repeat' first
    | (with_reducible first | assumption | apply fenceBoot_keeps | apply endUnits_keeps | apply markEnded_keeps)
    | (with_reducible first | (apply Keeps.fold <;> intros) | (apply Keeps.fold2 <;> intros))
    | (with_reducible first | (apply Keeps.fold2' <;> intros) | (apply Keeps.fold3 <;> intros))
    | simp only [keeps_with] | dsimp only | intro _

theorem closeRound_keeps {z s : State} (x : FwdRun) (hz : Keeps afresh z s) :
    Keeps afresh z (closeRound s x) := by
  unfold closeRound
  try dsimp only
  repeat' first
    | (with_reducible first | assumption | apply markEnded_keeps)
    | simp only [keeps_with] | dsimp only | intro _

theorem fwdGo_keeps {z : State} (k : Nat) : ∀ (x : FwdRun) {s : State}, Keeps afresh z s → Keeps afresh z (fwdGo k s x) := by
  induction k with
  | zero => intro x s hz; exact lastSteps_keeps _ _ (endFwd_keeps _ hz)
  | succ k ih =>
    intro x s hz
    unfold fwdGo
    dsimp only
    split
    · exact lastSteps_keeps _ _ (endFwd_keeps _ hz)
    split
    · exact ih _ (closeRound_keeps _ hz)
    · exact closeRound_keeps _ hz

theorem beginTwelve_keeps {z s : State} (env : BootEnv) (more : List (Nat × UnitRef)) (hz : Keeps afresh z s) :
    Keeps afresh z (beginTwelve env more s) := by
  unfold beginTwelve
  try dsimp only
  repeat' first
    | (with_reducible first | assumption | apply failUnits_keeps)
    | simp only [keeps_with] | dsimp only | intro _

theorem stepTwelve_keeps {z s : State} (env : BootEnv) (more : List (Nat × UnitRef)) (hz : Keeps afresh z s) :
    Keeps afresh z (stepTwelve env more s) := by
  unfold stepTwelve
  try dsimp only
  repeat' first
    | (with_reducible first | assumption | apply beginTwelve_keeps | apply fwdGo_keeps | apply closeRound_keeps)
    | split
    | dsimp only | intro _

theorem hungTwelve_keeps {z s : State} (env : BootEnv) (more : List (Nat × UnitRef)) (us : List UnitRef) (hz : Keeps afresh z s) :
    Keeps afresh z (hungTwelve env more us s) := by
  unfold hungTwelve
  try dsimp only
  repeat' first
    | (with_reducible first | assumption | apply beginTwelve_keeps | apply markEnded_keeps)
    | simp only [keeps_with] | dsimp only | intro _

theorem runTwelve_keeps {z s : State} (env : BootEnv) (more : List (Nat × UnitRef)) (hz : Keeps afresh z s) :
    Keeps afresh z (runTwelve env more s) := by
  unfold runTwelve
  try dsimp only
  repeat' first
    | (with_reducible first | assumption | apply beginStep_keeps | apply hungTwelve_keeps | apply stepTwelve_keeps)
    | split
    | (with_reducible first | refine Keeps.snd (by assumption) ?_ | refine Keeps.fst (by assumption) ?_)
    | (with_reducible first | refine Keeps.opt (by assumption) ?_)
    | dsimp only | intro _

theorem latchStraps_keeps {z s : State} (env : BootEnv) (hz : Keeps afresh z s) :
    Keeps afresh z (latchStraps env s) := by
  unfold latchStraps
  try dsimp only
  repeat' first
    | (with_reducible first | assumption)
    | split
    | simp only [keeps_with] | dsimp only | intro _

theorem lightPort_keeps {z s : State} (hz : Keeps afresh z s) :
    Keeps afresh z (lightPort s) := by
  unfold lightPort
  try dsimp only
  repeat' first
    | (with_reducible first | assumption)
    | split
    | simp only [keeps_with] | dsimp only | intro _

theorem newRecord_keeps {z s : State} (warm : Bool) (cause : Nat) (hz : Keeps afresh z s) :
    Keeps afresh z (newRecord s warm cause) := by
  unfold newRecord
  try dsimp only
  repeat' first
    | (with_reducible first | assumption)
    | split
    | simp only [keeps_with] | dsimp only | intro _

theorem runBoot_keeps {z s : State} (warm : Bool) (cause : Nat) (env : BootEnv) (hb : env.liningBad = true → afresh) (hz : Keeps afresh z s) :
    Keeps afresh z (runBoot s warm cause env) := by
  unfold runBoot
  try dsimp only
  repeat' first
    | (with_reducible first | assumption | apply latchStraps_keeps | apply newRecord_keeps | apply runStep_keeps)
    | (with_reducible first | apply finishStep_keeps | apply stepTwo_keeps | apply lightPort_keeps)
    | (with_reducible first | apply stepThree_keeps | apply beginStep_keeps | apply runUnits_keeps)
    | (with_reducible first | apply failUnits_keeps | apply endUnits_keeps | apply stepSix_keeps)
    | (with_reducible first | apply stepSevenBoot_keeps | apply stepEight_keeps | apply endEight_keeps)
    | (with_reducible first | apply stepNine_keeps | apply endNine_keeps | apply stepEleven_keeps)
    | (with_reducible first | apply runTen_keeps | apply runTwelve_keeps)
    | split
    | simp only [id_eq] | dsimp only | intro _

theorem readActive_keeps {z s : State} (hz : Keeps afresh z s) :
    Keeps afresh z (readActive s) := by
  unfold readActive
  try dsimp only
  repeat' first
    | (with_reducible first | assumption | apply touchShadow_keeps)
    | split
    | dsimp only | intro _

theorem endLeftSlot_keeps {z s : State} (r : StreamRec) (i : Nat) (hz : Keeps afresh z s) :
    Keeps afresh z (endLeftSlot s r i) := by
  unfold endLeftSlot
  try dsimp only
  repeat' first
    | (with_reducible first | assumption | apply devTake_keeps | apply devWrite_keeps)
    | split
    | (with_reducible first | refine Keeps.snd (by assumption) ?_ | refine Keeps.fst (by assumption) ?_)
    | (with_reducible first | refine Keeps.opt (by assumption) ?_)
    | dsimp only | intro _

theorem endLeftSlots_keeps {z s : State} (im : Image) (hz : Keeps afresh z s) :
    Keeps afresh z (endLeftSlots s im) := by
  unfold endLeftSlots
  try dsimp only
  repeat' first
    | (with_reducible first | assumption | apply endLeftSlot_keeps | (apply Keeps.fold <;> intros))
    | (with_reducible first | (apply Keeps.fold2 <;> intros) | (apply Keeps.fold2' <;> intros))
    | (with_reducible first | (apply Keeps.fold3 <;> intros))
    | dsimp only | intro _

theorem loadCommits_keeps {z s : State} (im : Image) (f : FitOk) (hz : Keeps afresh z s) :
    Keeps afresh z (loadCommits s im f) := by
  unfold loadCommits
  try dsimp only
  repeat' first
    | (with_reducible first | assumption | apply notice_keeps | apply commitEpoch_keeps | apply placeImage_keeps)
    | simp only [keeps_with] | dsimp only | intro _

theorem startBootImage_keeps {z s : State} (hz : Keeps afresh z s) :
    Keeps afresh z (startBootImage s) := by
  unfold startBootImage
  try dsimp only
  repeat' first
    | (with_reducible first | assumption | apply followBinding_keeps | apply readActive_keeps)
    | (with_reducible first | apply recordLoad_keeps | apply refuseFit_keeps | apply State.setShadow_keeps)
    | (with_reducible first | apply startImage_keeps | apply loadCommits_keeps | apply endLeftSlots_keeps)
    | split
    | (with_reducible first | refine Keeps.snd (by assumption) ?_ | refine Keeps.fst (by assumption) ?_)
    | (with_reducible first | refine Keeps.opt (by assumption) ?_)
    | simp only [keeps_with] | dsimp only | intro _

theorem becomeReady_keeps {z s : State} (hz : Keeps afresh z s) :
    Keeps afresh z (becomeReady s) := by
  unfold becomeReady
  try dsimp only
  repeat' first
    | (with_reducible first | assumption | apply finishStep_keeps)
    | split
    | simp only [keeps_with] | dsimp only | intro _

theorem execImageStart_keeps {z s : State} (hz : Keeps afresh z s) :
    KeepsOut afresh z (execImageStart s) := by
  unfold execImageStart
  try dsimp only
  repeat' first
    | (with_reducible first | assumption | apply becomeReady_keeps | apply startBootImage_keeps)
    | (with_reducible first | apply KeepsOut.next)
    | split
    | dsimp only | intro _

theorem execFwdAnswerTimeout_keeps {z s : State} (r : Receiver) (hz : Keeps afresh z s) :
    KeepsOut afresh z (execFwdAnswerTimeout r s) := by
  unfold execFwdAnswerTimeout
  try dsimp only
  repeat' first
    | (with_reducible first | assumption | apply fwdGo_keeps | apply KeepsOut.next)
    | split
    | (with_reducible first | refine Keeps.snd (by assumption) ?_ | refine Keeps.fst (by assumption) ?_)
    | (with_reducible first | refine Keeps.opt (by assumption) ?_)
    | simp only [keeps_with] | dsimp only | intro _

end Sys2Proof.Machine
end

