-- ==== Sys2Proof/Laws/KeepsClock.lean ====
section
/-! SUPPORT. What each operation of Machine/Clock.lean keeps. -/

set_option linter.all false

namespace Sys2Proof.Machine

variable {afresh : Prop}

theorem idleTick_keeps {z s : State} (hz : Keeps afresh z s) :
    Keeps afresh z (idleTick s) := by
  unfold idleTick
  try dsimp only
  repeat' first
    | (with_reducible first | assumption)
    | split
    | simp only [keeps_with] | dsimp only | intro _

end Sys2Proof.Machine
end

