-- ==== Sys2Proof/Laws/KeepsKv.lean ====
section
/-! SUPPORT. What each operation of Machine/Kv.lean keeps. -/

set_option linter.all false

namespace Sys2Proof.Machine

variable {afresh : Prop}

theorem kvDoOpen_keeps {z s : State} (n : Nat) (k : KvLayout) (c : KvCmd) (hz : Keeps afresh z s) :
    Keeps afresh z (kvDoOpen s n k c).2 := by
  unfold kvDoOpen
  try dsimp only
  repeat' first
    | (with_reducible first | assumption | apply State.setKv_keeps | (apply Keeps.fold <;> intros))
    | (with_reducible first | (apply Keeps.fold2 <;> intros) | (apply Keeps.fold2' <;> intros))
    | (with_reducible first | (apply Keeps.fold3 <;> intros))
    | split
    | simp only [keeps_with] | dsimp only | intro _

theorem kvDoAppend_keeps {z s : State} (n : Nat) (k : KvLayout) (c : KvCmd) (hz : Keeps afresh z s) :
    Keeps afresh z (kvDoAppend s n k c).2 := by
  unfold kvDoAppend
  try dsimp only
  repeat' first
    | (with_reducible first | assumption | apply State.setKv_keeps | apply writePt_keeps)
    | (with_reducible first | (apply Keeps.fold <;> intros) | (apply Keeps.fold2 <;> intros))
    | (with_reducible first | (apply Keeps.fold2' <;> intros) | (apply Keeps.fold3 <;> intros))
    | split
    | (with_reducible first | refine Keeps.snd (by assumption) ?_ | refine Keeps.fst (by assumption) ?_)
    | (with_reducible first | refine Keeps.opt (by assumption) ?_)
    | simp only [keeps_with] | dsimp only | intro _

theorem publish_keeps {z s : State} (n slot m : Nat) (hz : Keeps afresh z s) :
    Keeps afresh z (publish s n slot m) := by
  unfold publish
  try dsimp only
  repeat' first
    | (with_reducible first | assumption | apply updReq_keeps | apply writeStatus_keeps)
    | split
    | (with_reducible first | refine Keeps.snd (by assumption) ?_ | refine Keeps.fst (by assumption) ?_)
    | (with_reducible first | refine Keeps.opt (by assumption) ?_)
    | simp only [keeps_with] | dsimp only | intro _

theorem kvDoCommit_keeps {z s : State} (n : Nat) (k : KvLayout) (c : KvCmd) (hz : Keeps afresh z s) :
    Keeps afresh z (kvDoCommit s n k c).2 := by
  unfold kvDoCommit
  try dsimp only
  repeat' first
    | (with_reducible first | assumption | apply State.setKv_keeps | apply writePt_keeps | apply publish_keeps)
    | (with_reducible first | (apply Keeps.fold <;> intros) | (apply Keeps.fold2 <;> intros))
    | (with_reducible first | (apply Keeps.fold2' <;> intros) | (apply Keeps.fold3 <;> intros))
    | split
    | simp only [keeps_with] | dsimp only | intro _

theorem kvDoEnd_keeps {z s : State} (n : Nat) (c : KvCmd) (hz : Keeps afresh z s) :
    Keeps afresh z (kvDoEnd s n c).2 := by
  unfold kvDoEnd
  try dsimp only
  repeat' first
    | (with_reducible first | assumption | apply closeSeq_keeps)
    | split
    | dsimp only | intro _

theorem lengthsList_keeps {z s : State} (n : Nat) (c : KvCmd) (hz : Keeps afresh z s) :
    Keeps afresh z (lengthsList s n c).2 := by
  unfold lengthsList
  try dsimp only
  repeat' first
    | (with_reducible first | assumption | apply devRead_keeps)
    | split
    | (with_reducible first | refine Keeps.snd (by assumption) ?_ | refine Keeps.fst (by assumption) ?_)
    | (with_reducible first | refine Keeps.opt (by assumption) ?_)
    | dsimp only | intro _

theorem kvDoLengths_keeps {z s : State} (n : Nat) (c : KvCmd) (hz : Keeps afresh z s) :
    Keeps afresh z (kvDoLengths s n c).2 := by
  unfold kvDoLengths
  try dsimp only
  repeat' first
    | (with_reducible first | assumption | apply lengthsList_keeps | apply devWrite_keeps)
    | (with_reducible first | (apply Keeps.fold <;> intros) | (apply Keeps.fold2 <;> intros))
    | (with_reducible first | (apply Keeps.fold2' <;> intros) | (apply Keeps.fold3 <;> intros))
    | split
    | (with_reducible first | refine Keeps.snd (by assumption) ?_ | refine Keeps.fst (by assumption) ?_)
    | (with_reducible first | refine Keeps.opt (by assumption) ?_)
    | dsimp only | intro _

theorem kvRun_keeps {z s : State} (n : Nat) (k : KvLayout) (c : KvCmd) (hz : Keeps afresh z s) :
    Keeps afresh z (kvRun s n k c).2 := by
  unfold kvRun
  try dsimp only
  repeat' first
    | (with_reducible first | assumption | apply kvDoOpen_keeps | apply kvDoAppend_keeps | apply kvDoCommit_keeps)
    | (with_reducible first | apply kvDoEnd_keeps | apply kvDoLengths_keeps)
    | split
    | (with_reducible first | refine Keeps.snd (by assumption) ?_ | refine Keeps.fst (by assumption) ?_)
    | (with_reducible first | refine Keeps.opt (by assumption) ?_)
    | dsimp only | intro _

theorem kvResult_keeps {z s : State} (n : Nat) (k : KvLayout) (c : KvCmd) (res : Nat) (hz : Keeps afresh z s) :
    Keeps afresh z (kvResult s n k c res) := by
  unfold kvResult
  try dsimp only
  repeat' first
    | (with_reducible first | assumption | apply State.setKv_keeps | apply devWrite_keeps)
    | (with_reducible first | apply writeSeqRecord_keeps)
    | split
    | simp only [keeps_with] | dsimp only | intro _

theorem kvAccept_keeps {z s : State} (src : Src) (hz : Keeps afresh z s) :
    Keeps afresh z (kvAccept s src) := by
  unfold kvAccept
  try dsimp only
  repeat' first
    | (with_reducible first | assumption | apply answer_keeps)
    | dsimp only | intro _

theorem kvMay_keeps {z s : State} (n : Nat) (k : KvLayout) (c : KvCmd) (hz : Keeps afresh z s) :
    Keeps afresh z (kvMay s n k c).2 := by
  unfold kvMay
  try dsimp only
  repeat' first
    | (with_reducible first | assumption | apply mayAccess_keeps | apply snoopRead_keeps)
    | split
    | dsimp only | intro _

theorem kvTake_keeps {z s : State} (n op : Nat) (hz : Keeps afresh z s) :
    Keeps afresh z (kvTake s n op) := by
  unfold kvTake
  try dsimp only
  repeat' first
    | (with_reducible first | assumption | apply kvMay_keeps | apply State.setKv_keeps | apply kvRun_keeps)
    | (with_reducible first | apply kvAccept_keeps | apply kvResult_keeps | apply endLost_keeps)
    | split
    | (with_reducible first | refine Keeps.snd (by assumption) ?_ | refine Keeps.fst (by assumption) ?_)
    | (with_reducible first | refine Keeps.opt (by assumption) ?_)
    | simp only [keeps_with] | dsimp only | intro _

theorem execKvOpen_keeps {z s : State} (n : Fin 64) (hz : Keeps afresh z s) :
    KeepsOut afresh z (execKvOpen n s) := by
  unfold execKvOpen
  try dsimp only
  repeat' first
    | (with_reducible first | assumption | apply kvTake_keeps | apply KeepsOut.next)
    | dsimp only | intro _

theorem execKvAppend_keeps {z s : State} (n : Fin 64) (hz : Keeps afresh z s) :
    KeepsOut afresh z (execKvAppend n s) := by
  unfold execKvAppend
  try dsimp only
  repeat' first
    | (with_reducible first | assumption | apply kvTake_keeps | apply KeepsOut.next)
    | dsimp only | intro _

theorem execKvCommit_keeps {z s : State} (n : Fin 64) (hz : Keeps afresh z s) :
    KeepsOut afresh z (execKvCommit n s) := by
  unfold execKvCommit
  try dsimp only
  repeat' first
    | (with_reducible first | assumption | apply kvTake_keeps | apply KeepsOut.next)
    | dsimp only | intro _

theorem execKvEnd_keeps {z s : State} (n : Fin 64) (hz : Keeps afresh z s) :
    KeepsOut afresh z (execKvEnd n s) := by
  unfold execKvEnd
  try dsimp only
  repeat' first
    | (with_reducible first | assumption | apply kvTake_keeps | apply KeepsOut.next)
    | dsimp only | intro _

theorem execKvLengths_keeps {z s : State} (n : Fin 64) (hz : Keeps afresh z s) :
    KeepsOut afresh z (execKvLengths n s) := by
  unfold execKvLengths
  try dsimp only
  repeat' first
    | (with_reducible first | assumption | apply kvTake_keeps | apply KeepsOut.next)
    | dsimp only | intro _

end Sys2Proof.Machine
end

