-- ==== Sys2Proof/Laws/KeepsWarm.lean ====
section
/-! SUPPORT. What each operation of Machine/Warm.lean keeps. -/

set_option linter.all false

namespace Sys2Proof.Machine

variable {afresh : Prop}

theorem warmClear_keeps {z s : State} (hz : Keeps afresh z s) : Keeps afresh z (warmClear s) :=
  ⟨hz.1, hz.2.1, fun i => ⟨(hz.2.2 i).1, (hz.2.2 i).2.1, (hz.2.2 i).2.2.1, fun _ hd => by cases hd⟩⟩

theorem latchReset_keeps {z s : State} (cause : Nat) (phase : ResetPhase) (hz : Keeps afresh z s) :
    Keeps afresh z (latchReset s cause phase) := by
  unfold latchReset
  try dsimp only
  repeat' first
    | (with_reducible first | assumption)
    | simp only [keeps_with] | dsimp only | intro _

theorem drainBonded_keeps {z s : State} (c : Nat) (hz : Keeps afresh z s) :
    Keeps afresh z (drainBonded s c) := by
  unfold drainBonded
  try dsimp only
  repeat' first
    | (with_reducible first | assumption | apply bondedStore_keeps | apply State.updMc_keeps)
    | (with_reducible first | (apply Keeps.fold <;> intros) | (apply Keeps.fold2 <;> intros))
    | (with_reducible first | (apply Keeps.fold2' <;> intros) | (apply Keeps.fold3 <;> intros))
    | (with_reducible first | apply Keeps.getD)
    | simp only [keeps_with] | dsimp only | intro _

theorem drainAll_keeps {z s : State} (hz : Keeps afresh z s) :
    Keeps afresh z (drainAll s) := by
  unfold drainAll
  try dsimp only
  repeat' first
    | (with_reducible first | assumption | apply drainSlice_keeps | apply writeDirty_keeps)
    | (with_reducible first | apply drainBonded_keeps | (apply Keeps.fold <;> intros))
    | (with_reducible first | (apply Keeps.fold2 <;> intros) | (apply Keeps.fold2' <;> intros))
    | (with_reducible first | (apply Keeps.fold3 <;> intros))
    | dsimp only | intro _

theorem settleChanges_keeps {z s : State} (hz : Keeps afresh z s) :
    Keeps afresh z (settleChanges s) := by
  unfold settleChanges
  try dsimp only
  repeat' first
    | (with_reducible first | assumption | apply applyDeferred_keeps | apply fenceSlice_keeps)
    | (with_reducible first | (apply Keeps.fold <;> intros) | (apply Keeps.fold2 <;> intros))
    | (with_reducible first | (apply Keeps.fold2' <;> intros) | (apply Keeps.fold3 <;> intros))
    | split
    | (with_reducible first | refine Keeps.snd (by assumption) ?_ | refine Keeps.fst (by assumption) ?_)
    | (with_reducible first | refine Keeps.opt (by assumption) ?_)
    | simp only [keeps_with] | dsimp only | intro _

theorem crownSave_keeps {z s : State} (hz : Keeps afresh z s) :
    Keeps afresh z (crownSave s) := by
  unfold crownSave
  try dsimp only
  repeat' first
    | (with_reducible first | assumption)
    | simp only [keeps_with] | dsimp only | intro _

theorem assertReset_keeps {z s : State} (env : BootEnv) (hb : env.liningBad = true → afresh) (hz : Keeps afresh z s) :
    Keeps afresh z (assertReset s env) := by
  unfold assertReset
  try dsimp only
  repeat' first
    | (with_reducible first | assumption | apply warmClear_keeps | apply runBoot_keeps)
    | split
    | simp only [keeps_with] | dsimp only | intro _

theorem enterFour_keeps {z s : State} (env : BootEnv) (hb : env.liningBad = true → afresh) (hz : Keeps afresh z s) :
    Keeps afresh z (enterFour s env) := by
  unfold enterFour
  try dsimp only
  repeat' first
    | (with_reducible first | assumption | apply assertReset_keeps)
    | split
    | simp only [keeps_with] | dsimp only | intro _

theorem warmReset_keeps {z s : State} (cause : Nat) (env : BootEnv) (hb : env.liningBad = true → afresh) (hz : Keeps afresh z s) :
    Keeps afresh z (warmReset s cause env) := by
  unfold warmReset
  try dsimp only
  repeat' first
    | (with_reducible first | assumption | apply enterFour_keeps | apply crownSave_keeps)
    | (with_reducible first | apply settleChanges_keeps | apply drainAll_keeps | apply endVisor_keeps)
    | (with_reducible first | apply latchReset_keeps)
    | split
    | dsimp only | intro _

theorem crownlessReset_keeps {z s : State} (cause : Nat) (hz : Keeps afresh z s) :
    Keeps afresh z (crownlessReset s cause) := by
  unfold crownlessReset
  try dsimp only
  repeat' first
    | (with_reducible first | assumption | apply drainAll_keeps | apply latchReset_keeps)
    | split
    | dsimp only | intro _

theorem execModuleReset_keeps {z s : State} (entry : Fin 32) (env : BootEnv) (hb : env.liningBad = true → afresh) (hz : Keeps afresh z s) :
    KeepsOut afresh z (execModuleReset entry env s) := by
  unfold execModuleReset
  try dsimp only
  repeat' first
    | (with_reducible first | assumption | apply refuseCmd_keeps | apply warmReset_keeps | apply endCmd_keeps)
    | (with_reducible first | apply startCmd_keeps | apply KeepsOut.next)
    | split
    | (with_reducible first | refine Keeps.snd (by assumption) ?_ | refine Keeps.fst (by assumption) ?_)
    | (with_reducible first | refine Keeps.opt (by assumption) ?_)
    | dsimp only | intro _

theorem execFatalResetTimer_keeps {z s : State} (env : BootEnv) (hb : env.liningBad = true → afresh) (hz : Keeps afresh z s) :
    KeepsOut afresh z (execFatalResetTimer env s) := by
  unfold execFatalResetTimer
  try dsimp only
  repeat' first
    | (with_reducible first | assumption | apply warmReset_keeps | apply KeepsOut.next)
    | split
    | (with_reducible first | refine Keeps.snd (by assumption) ?_ | refine Keeps.fst (by assumption) ?_)
    | (with_reducible first | refine Keeps.opt (by assumption) ?_)
    | dsimp only | intro _

theorem execCrownLockstepMismatch_keeps {z s : State} (hz : Keeps afresh z s) :
    KeepsOut afresh z (execCrownLockstepMismatch s) := by
  unfold execCrownLockstepMismatch
  try dsimp only
  repeat' first
    | (with_reducible first | assumption | apply crownlessReset_keeps | apply KeepsOut.next)
    | split
    | simp only [keeps_with] | dsimp only | intro _

theorem execCrownWatchdogExpiry_keeps {z s : State} (hz : Keeps afresh z s) :
    KeepsOut afresh z (execCrownWatchdogExpiry s) := by
  unfold execCrownWatchdogExpiry
  try dsimp only
  repeat' first
    | (with_reducible first | assumption | apply crownlessReset_keeps | apply KeepsOut.next)
    | split
    | dsimp only | intro _

theorem execWarmResetCrownTimeout_keeps {z s : State} (env : BootEnv) (hb : env.liningBad = true → afresh) (hz : Keeps afresh z s) :
    KeepsOut afresh z (execWarmResetCrownTimeout env s) := by
  unfold execWarmResetCrownTimeout
  try dsimp only
  repeat' first
    | (with_reducible first | assumption | apply enterFour_keeps | apply KeepsOut.next)
    | split
    | dsimp only | intro _

theorem execFlashPulseEnd_keeps {z s : State} (env : BootEnv) (hb : env.liningBad = true → afresh) (hz : Keeps afresh z s) :
    KeepsOut afresh z (execFlashPulseEnd env s) := by
  unfold execFlashPulseEnd
  try dsimp only
  repeat' first
    | (with_reducible first | assumption | apply assertReset_keeps | apply KeepsOut.next)
    | split
    | (with_reducible first | refine Keeps.snd (by assumption) ?_ | refine Keeps.fst (by assumption) ?_)
    | (with_reducible first | refine Keeps.opt (by assumption) ?_)
    | simp only [keeps_with] | dsimp only | intro _

theorem execBootWatchdogExpiry_keeps {z s : State} (env : BootEnv) (hb : env.liningBad = true → afresh) (hz : Keeps afresh z s) :
    KeepsOut afresh z (execBootWatchdogExpiry env s) := by
  unfold execBootWatchdogExpiry
  try dsimp only
  repeat' first
    | (with_reducible first | assumption | apply enterFour_keeps | apply drainAll_keeps | apply latchReset_keeps)
    | (with_reducible first | apply KeepsOut.next)
    | split
    | (with_reducible first | refine Keeps.snd (by assumption) ?_ | refine Keeps.fst (by assumption) ?_)
    | (with_reducible first | refine Keeps.opt (by assumption) ?_)
    | simp only [keeps_with] | dsimp only | intro _

theorem execResetNAssert_keeps {z s : State} (ns : Nat) (taken : Bool) (env : BootEnv) (hb : env.liningBad = true → afresh) (hz : Keeps afresh z s) :
    KeepsOut afresh z (execResetNAssert ns taken env s) := by
  unfold execResetNAssert
  try dsimp only
  repeat' first
    | (with_reducible first | assumption | apply warmReset_keeps | apply KeepsOut.next)
    | split
    | simp only [keeps_with] | dsimp only | intro _

theorem execResetNRelease_keeps {z s : State} (env : BootEnv) (hb : env.liningBad = true → afresh) (hz : Keeps afresh z s) :
    KeepsOut afresh z (execResetNRelease env s) := by
  unfold execResetNRelease
  try dsimp only
  repeat' first
    | (with_reducible first | assumption | apply runBoot_keeps | apply KeepsOut.next)
    | split
    | simp only [keeps_with] | dsimp only | intro _

theorem coldState_keeps {z s : State} (hb : afresh) (hz : Keeps afresh z s) : Keeps afresh z (coldState s) :=
  ⟨hz.1, ⟨hz.2.1.1, fun _ ut id => .inr ⟨hb, hz.2.1.1 ▸ Worse.refl _⟩⟩, fun i =>
    ⟨rfl, codesOk_congr (f := s.flp.delivered) rfl (hz.2.2 i).2.2.1, (hz.2.2 i).2.2.1, fun _ hd => by cases hd⟩⟩

theorem execPowerOnReset_keeps {z s : State} (env : BootEnv) (hb : afresh) (hz : Keeps afresh z s) :
    KeepsOut afresh z (execPowerOnReset env s) := by
  have h := coldState_keeps hb hz
  unfold execPowerOnReset
  dsimp only
  split
  · exact KeepsOut.next hz
  split
  · exact KeepsOut.next (keeps_with.2 h)
  · exact KeepsOut.next (runBoot_keeps _ _ _ (fun _ => hb) h)

end Sys2Proof.Machine
end

