-- ==== Sys2Proof/Laws/KeepsLink.lean ====
section
/-! SUPPORT. What each operation of Machine/Link.lean keeps. -/

set_option linter.all false

namespace Sys2Proof.Machine

variable {afresh : Prop}

theorem takeSnp_keeps {z s t : State} {l : Nat} {b : Bool × Nat × Nat} (e : takeSnp s l = some (b, t))
    (hz : Keeps afresh z s) : Keeps afresh z t := by
  unfold takeSnp at e
  simp only [Option.map_eq_some_iff] at e
  obtain ⟨r, -, e⟩ := e
  cases e
  simp only [keeps_with]
  exact hz

theorem snpAnswered_keeps {z s : State} (line : Nat) (hz : Keeps afresh z s) :
    Keeps afresh z (snpAnswered s line) := by
  unfold snpAnswered
  try dsimp only
  repeat' first
    | (with_reducible first | assumption | apply resumePolls_keeps | apply release_keeps)
    | split
    | (with_reducible first | refine Keeps.snd (by assumption) ?_ | refine Keeps.fst (by assumption) ?_)
    | (with_reducible first | refine Keeps.opt (by assumption) ?_)
    | dsimp only | intro _

theorem execBiResponse_keeps {z s : State} (line : Nat) (data : Option (List Byte)) (hz : Keeps afresh z s) :
    KeepsOut afresh z (execBiResponse line data s) := by
  unfold execBiResponse
  try dsimp only
  repeat' first
    | (with_reducible first | assumption | apply hostMay_keeps | apply snpAnswered_keeps | apply hostServe_keeps)
    | (with_reducible first | apply KeepsOut.next | refine takeSnp_keeps (by assumption) ?_)
    | split
    | (with_reducible first | refine Keeps.snd (by assumption) ?_ | refine Keeps.fst (by assumption) ?_)
    | (with_reducible first | refine Keeps.opt (by assumption) ?_)
    | dsimp only | intro _

theorem execBiTimeout_keeps {z s : State} (line : Nat) (hz : Keeps afresh z s) :
    KeepsOut afresh z (execBiTimeout line s) := by
  unfold execBiTimeout
  try dsimp only
  repeat' first
    | (with_reducible first | assumption | apply snpAnswered_keeps | apply hlkEvent_keeps | apply KeepsOut.next)
    | (with_reducible first | refine takeSnp_keeps (by assumption) ?_)
    | split
    | (with_reducible first | refine Keeps.snd (by assumption) ?_ | refine Keeps.fst (by assumption) ?_)
    | (with_reducible first | refine Keeps.opt (by assumption) ?_)
    | simp only [keeps_with] | dsimp only | intro _

theorem regWrite_keeps {z s : State} (off v : Nat) (hz : Keeps afresh z s) :
    Keeps afresh z (regWrite s off v) := by
  unfold regWrite
  try dsimp only
  repeat' first
    | (with_reducible first | assumption | apply w1cWrite_keeps | apply visorWrite_keeps | apply dropCtl_keeps)
    | split
    | (with_reducible first | refine Keeps.snd (by assumption) ?_ | refine Keeps.fst (by assumption) ?_)
    | (with_reducible first | refine Keeps.opt (by assumption) ?_ | apply Keeps.getD)
    | dsimp only | intro _

theorem execRegisterWrite_keeps {z s : State} (offset : BitVec 28) (value : Word) (hz : Keeps afresh z s) :
    KeepsOut afresh z (execRegisterWrite offset value s) := by
  unfold execRegisterWrite
  try dsimp only
  repeat' first
    | (with_reducible first | assumption | apply barWrite_keeps | apply regWrite_keeps | apply KeepsOut.next)
    | dsimp only | intro _

theorem execW1cClearWrite_keeps {z s : State} (offset : BitVec 28) (value sets : Word) (hz : Keeps afresh z s) :
    KeepsOut afresh z (execW1cClearWrite offset value sets s) := by
  unfold execW1cClearWrite
  try dsimp only
  repeat' first
    | (with_reducible first | assumption | apply barWrite_keeps | apply regWrite_keeps | apply KeepsOut.next)
    | dsimp only | intro _

theorem execFitCountLoRead_keeps {z s : State} (hz : Keeps afresh z s) :
    KeepsOut afresh z (execFitCountLoRead s) := by
  unfold execFitCountLoRead
  try dsimp only
  repeat' first
    | (with_reducible first | assumption | apply State.emit_keeps | apply latchCount_keeps | apply KeepsOut.next)
    | split
    | dsimp only | intro _

theorem entryWrite_keeps {z s : State} (entry off : Nat) (bs : List Byte) (hz : Keeps afresh z s) :
    Keeps afresh z (entryWrite s entry off bs) := by
  unfold entryWrite
  try dsimp only
  repeat' first
    | (with_reducible first | assumption | apply State.setEntry_keeps | apply hlkEvent_keeps)
    | split
    | (with_reducible first | apply Keeps.getD)
    | simp only [keeps_with] | dsimp only | intro _

theorem execHostCommandEntryWrite_keeps {z s : State} (entry : Fin 16) (offset : Fin 256) (bytes : List Byte) (hz : Keeps afresh z s) :
    KeepsOut afresh z (execHostCommandEntryWrite entry offset bytes s) := by
  unfold execHostCommandEntryWrite
  try dsimp only
  repeat' first
    | (with_reducible first | assumption | apply barWrite_keeps | apply entryWrite_keeps | apply KeepsOut.next)
    | dsimp only | intro _

theorem execConfigWrite_keeps {z s : State} (offset : BitVec 12) (value : Word) (hz : Keeps afresh z s) :
    KeepsOut afresh z (execConfigWrite offset value s) := by
  unfold execConfigWrite
  try dsimp only
  repeat' first
    | (with_reducible first | assumption | apply State.emit_keeps | apply hlkEvent_keeps | apply dropCtl_keeps)
    | (with_reducible first | apply KeepsOut.next)
    | split
    | simp only [keeps_with] | dsimp only | intro _

theorem failHostReads_keeps {z s : State} (hz : Keeps afresh z s) :
    Keeps afresh z (failHostReads s) := by
  unfold failHostReads
  try dsimp only
  repeat' first
    | (with_reducible first | assumption | apply failCopy_keeps | apply abortGoesOn_keeps | apply endTest5_keeps)
    | (with_reducible first | (apply Keeps.fold <;> intros) | (apply Keeps.fold2 <;> intros))
    | (with_reducible first | (apply Keeps.fold2' <;> intros) | (apply Keeps.fold3 <;> intros))
    | split
    | dsimp only | intro _

theorem hostLost_keeps {z s : State} (hz : Keeps afresh z s) :
    Keeps afresh z (hostLost s) := by
  unfold hostLost
  try dsimp only
  repeat' first
    | (with_reducible first | assumption | apply failHostReads_keeps | apply resumePolls_keeps)
    | (with_reducible first | apply release_keeps | (apply Keeps.fold <;> intros) | (apply Keeps.fold2 <;> intros))
    | (with_reducible first | (apply Keeps.fold2' <;> intros) | (apply Keeps.fold3 <;> intros))
    | simp only [keeps_with] | dsimp only | intro _

theorem linkEvent_keeps {z s : State} (hz : Keeps afresh z s) :
    Keeps afresh z (linkEvent s) := by
  unfold linkEvent
  try dsimp only
  repeat' first
    | (with_reducible first | assumption | apply logEvent_keeps | apply hlkEvent_keeps)
    | dsimp only | intro _

theorem loseLink_keeps {z s : State} (hz : Keeps afresh z s) :
    Keeps afresh z (loseLink s) := by
  unfold loseLink
  try dsimp only
  repeat' first
    | (with_reducible first | assumption | apply linkEvent_keeps | apply hostLost_keeps)
    | simp only [keeps_with] | dsimp only | intro _

theorem execLinkDown_keeps {z s : State} (hz : Keeps afresh z s) :
    KeepsOut afresh z (execLinkDown s) := by
  unfold execLinkDown
  try dsimp only
  repeat' first
    | (with_reducible first | assumption | apply loseLink_keeps | apply KeepsOut.next)
    | split
    | dsimp only | intro _

theorem execLinkUp_keeps {z s : State} (width rate : Nat) (hz : Keeps afresh z s) :
    KeepsOut afresh z (execLinkUp width rate s) := by
  unfold execLinkUp
  try dsimp only
  repeat' first
    | (with_reducible first | assumption | apply trainLink_keeps | apply KeepsOut.next)
    | split
    | dsimp only | intro _

theorem hotState_keeps {z s : State} (hz : Keeps afresh z s) :
    Keeps afresh z (hotState s) := by
  unfold hotState
  try dsimp only
  repeat' first
    | (with_reducible first | assumption | apply writeEntry_keeps | apply linkEvent_keeps | apply hostLost_keeps)
    | (with_reducible first | (apply Keeps.fold <;> intros) | (apply Keeps.fold2 <;> intros))
    | (with_reducible first | (apply Keeps.fold2' <;> intros) | (apply Keeps.fold3 <;> intros))
    | split
    | simp only [keeps_with] | dsimp only | intro _

theorem execHotReset_keeps {z s : State} (kind : HotReset) (env : BootEnv) (hb : env.liningBad = true → afresh) (hz : Keeps afresh z s) :
    KeepsOut afresh z (execHotReset kind env s) := by
  unfold execHotReset
  try dsimp only
  repeat' first
    | (with_reducible first | assumption | apply hotState_keeps | apply warmReset_keeps | apply KeepsOut.next)
    | split
    | (with_reducible first | refine Keeps.snd (by assumption) ?_ | refine Keeps.fst (by assumption) ?_)
    | (with_reducible first | refine Keeps.opt (by assumption) ?_)
    | dsimp only | intro _

theorem execOpticalLaneFailure_keeps {z s : State} (lane : Fin 16) (hz : Keeps afresh z s) :
    KeepsOut afresh z (execOpticalLaneFailure lane s) := by
  unfold execOpticalLaneFailure
  try dsimp only
  repeat' first
    | (with_reducible first | assumption | apply loseLink_keeps | apply KeepsOut.next)
    | split
    | simp only [keeps_with] | dsimp only | intro _

theorem execMalformedTlpOrFlit_keeps {z s : State} (answered : Bool) (hz : Keeps afresh z s) :
    KeepsOut afresh z (execMalformedTlpOrFlit answered s) := by
  unfold execMalformedTlpOrFlit
  try dsimp only
  repeat' first
    | (with_reducible first | assumption | apply State.emit_keeps | apply correction_keeps | apply KeepsOut.next)
    | split
    | dsimp only | intro _

theorem touchSession_keeps {z s : State} (p : Port) (id : Nat) (hz : Keeps afresh z s) :
    Keeps afresh z (touchSession s p id) := by
  unfold touchSession
  try dsimp only
  repeat' first
    | (with_reducible first | assumption)
    | split
    | simp only [keeps_with] | simp only [id_eq] | dsimp only | intro _

theorem ideUpdate_keeps {z s : State} (hz : Keeps afresh z s) :
    Keeps afresh z (ideUpdate s) := by
  unfold ideUpdate
  try dsimp only
  repeat' first
    | (with_reducible first | assumption)
    | split
    | simp only [keeps_with] | dsimp only | intro _

theorem execIdeKeyProg_keeps {z s : State} (session : Nat) (ide : IdeStream) (key : List Byte) (hz : Keeps afresh z s) :
    KeepsOut afresh z (execIdeKeyProg session ide key s) := by
  unfold execIdeKeyProg
  try dsimp only
  repeat' first
    | (with_reducible first | assumption | apply touchSession_keeps | apply State.emit_keeps)
    | (with_reducible first | apply State.draw_keeps | apply ideUpdate_keeps | apply KeepsOut.next)
    | split
    | (with_reducible first | refine Keeps.snd (by assumption) ?_ | refine Keeps.fst (by assumption) ?_)
    | (with_reducible first | refine Keeps.opt (by assumption) ?_)
    | simp only [keeps_with] | dsimp only | intro _

theorem execIdeKSetGo_keeps {z s : State} (session : Nat) (ide : IdeStream) (hz : Keeps afresh z s) :
    KeepsOut afresh z (execIdeKSetGo session ide s) := by
  unfold execIdeKSetGo
  try dsimp only
  repeat' first
    | (with_reducible first | assumption | apply touchSession_keeps | apply State.emit_keeps)
    | (with_reducible first | apply ideUpdate_keeps | apply KeepsOut.next)
    | split
    | (with_reducible first | refine Keeps.snd (by assumption) ?_ | refine Keeps.fst (by assumption) ?_)
    | (with_reducible first | refine Keeps.opt (by assumption) ?_)
    | simp only [keeps_with] | dsimp only | intro _

theorem execIdeKSetStop_keeps {z s : State} (session : Nat) (ide : IdeStream) (hz : Keeps afresh z s) :
    KeepsOut afresh z (execIdeKSetStop session ide s) := by
  unfold execIdeKSetStop
  try dsimp only
  repeat' first
    | (with_reducible first | assumption | apply touchSession_keeps | apply ideUpdate_keeps)
    | (with_reducible first | apply State.emit_keeps | apply KeepsOut.next)
    | split
    | (with_reducible first | refine Keeps.snd (by assumption) ?_ | refine Keeps.fst (by assumption) ?_)
    | (with_reducible first | refine Keeps.opt (by assumption) ?_)
    | simp only [keeps_with] | dsimp only | intro _

theorem execIdeIntegrityFailure_keeps {z s : State} (hz : Keeps afresh z s) :
    KeepsOut afresh z (execIdeIntegrityFailure s) := by
  unfold execIdeIntegrityFailure
  try dsimp only
  repeat' first
    | (with_reducible first | assumption | apply logEvent_keeps | apply hlkEvent_keeps | apply KeepsOut.next)
    | split
    | simp only [keeps_with] | dsimp only | intro _

end Sys2Proof.Machine
end

