-- ==== Sys2Proof/Laws/KeepsMgmt.lean ====
section
/-! SUPPORT. What each operation of Machine/Mgmt.lean keeps. -/

set_option linter.all false

namespace Sys2Proof.Machine

variable {afresh : Prop}

theorem mgmtDrop_keeps {z s : State} (hz : Keeps afresh z s) :
    Keeps afresh z (mgmtDrop s) := by
  unfold mgmtDrop
  try dsimp only
  repeat' first
    | (with_reducible first | assumption)
    | simp only [keeps_with] | dsimp only | intro _

theorem mgmtIn_keeps {z s : State} (f : State → State) (hf : ∀ t : State, Keeps afresh z t → Keeps afresh z (f t)) (hz : Keeps afresh z s) :
    Keeps afresh z (mgmtIn s f) := by
  unfold mgmtIn
  try dsimp only
  repeat' first
    | (with_reducible first | assumption | apply mgmtDrop_keeps | apply hf)
    | split
    | simp only [keeps_with] | dsimp only | intro _

theorem doeIn_keeps {z s : State} (f : State → State) (hf : ∀ t : State, Keeps afresh z t → Keeps afresh z (f t)) (hz : Keeps afresh z s) :
    Keeps afresh z (doeIn s f) := by
  unfold doeIn
  try dsimp only
  repeat' first
    | (with_reducible first | assumption | apply State.emit_keeps | apply hf)
    | split
    | dsimp only | intro _

theorem spdmIn_keeps {z s : State} (p : Port) (f : State → State) (hf : ∀ t : State, Keeps afresh z t → Keeps afresh z (f t)) (hz : Keeps afresh z s) :
    Keeps afresh z (spdmIn s p f) := by
  unfold spdmIn
  try dsimp only
  repeat' first
    | (with_reducible first | assumption | apply doeIn_keeps | apply mgmtIn_keeps | apply hf)
    | split
    | (with_reducible first | refine Keeps.snd (by assumption) ?_ | refine Keeps.fst (by assumption) ?_)
    | (with_reducible first | refine Keeps.opt (by assumption) ?_)
    | dsimp only | intro _

theorem spdmError_keeps {z s : State} (p : Port) (code : Nat) (hz : Keeps afresh z s) :
    Keeps afresh z (spdmError s p code) := by
  unfold spdmError
  try dsimp only
  repeat' first
    | (with_reducible first | assumption | apply State.emit_keeps)
    | dsimp only | intro _

theorem noSession_keeps {z s : State} (p : Port) (hz : Keeps afresh z s) :
    Keeps afresh z (noSession s p) := by
  unfold noSession
  try dsimp only
  repeat' first
    | (with_reducible first | assumption | apply mgmtDrop_keeps | apply spdmError_keeps)
    | split
    | (with_reducible first | refine Keeps.snd (by assumption) ?_ | refine Keeps.fst (by assumption) ?_)
    | (with_reducible first | refine Keeps.opt (by assumption) ?_)
    | dsimp only | intro _

theorem inSession_keeps {z s : State} (p : Port) (id : Nat) (f : State → State) (hf : ∀ t : State, Keeps afresh z t → Keeps afresh z (f t)) (hz : Keeps afresh z s) :
    Keeps afresh z (inSession s p id f) := by
  unfold inSession
  try dsimp only
  repeat' first
    | (with_reducible first | assumption | apply spdmIn_keeps | apply touchSession_keeps | apply noSession_keeps)
    | (with_reducible first | apply hf)
    | split
    | simp only [id_eq] | dsimp only | intro _

theorem sendVersion_keeps {z s : State} (p : Port) (hz : Keeps afresh z s) :
    Keeps afresh z (sendVersion s p) := by
  unfold sendVersion
  try dsimp only
  repeat' first
    | (with_reducible first | assumption | apply State.emit_keeps)
    | dsimp only | intro _

theorem sendCapabilities_keeps {z s : State} (p : Port) (hz : Keeps afresh z s) :
    Keeps afresh z (sendCapabilities s p) := by
  unfold sendCapabilities
  try dsimp only
  repeat' first
    | (with_reducible first | assumption | apply State.emit_keeps)
    | dsimp only | intro _

theorem sendAlgorithms_keeps {z s : State} (p : Port) (hz : Keeps afresh z s) :
    Keeps afresh z (sendAlgorithms s p) := by
  unfold sendAlgorithms
  try dsimp only
  repeat' first
    | (with_reducible first | assumption | apply State.emit_keeps)
    | dsimp only | intro _

theorem sendDigests_keeps {z s : State} (p : Port) (hz : Keeps afresh z s) :
    Keeps afresh z (sendDigests s p) := by
  unfold sendDigests
  try dsimp only
  repeat' first
    | (with_reducible first | assumption | apply State.emit_keeps)
    | dsimp only | intro _

theorem sendCertificate_keeps {z s : State} (p : Port) (slot offset len : Nat) (hz : Keeps afresh z s) :
    Keeps afresh z (sendCertificate s p slot offset len) := by
  unfold sendCertificate
  try dsimp only
  repeat' first
    | (with_reducible first | assumption | apply spdmError_keeps | apply State.emit_keeps)
    | split
    | dsimp only | intro _

theorem sendChallenge_keeps {z s : State} (p : Port) (nonce : BitVec 256) (hz : Keeps afresh z s) :
    Keeps afresh z (sendChallenge s p nonce) := by
  unfold sendChallenge
  try dsimp only
  repeat' first
    | (with_reducible first | assumption | apply State.draw_keeps | apply State.emit_keeps)
    | dsimp only | intro _

theorem sendMeasurements_keeps {z s : State} (p : Port) (nonce : BitVec 256) (hz : Keeps afresh z s) :
    Keeps afresh z (sendMeasurements s p nonce) := by
  unfold sendMeasurements
  try dsimp only
  repeat' first
    | (with_reducible first | assumption | apply State.draw_keeps | apply State.emit_keeps)
    | dsimp only | intro _

theorem startSession_keeps {z s : State} (p : Port) (x : List Byte) (hz : Keeps afresh z s) :
    Keeps afresh z (startSession s p x) := by
  unfold startSession
  try dsimp only
  repeat' first
    | (with_reducible first | assumption | apply spdmError_keeps | apply State.draw_keeps | apply State.emit_keeps)
    | split
    | simp only [keeps_with] | simp only [id_eq] | dsimp only | intro _

theorem updSession_keeps {z s : State} (p : Port) (id : Nat) (f : Session → Session) (hz : Keeps afresh z s) :
    Keeps afresh z (updSession s p id f) := by
  unfold updSession
  try dsimp only
  repeat' first
    | (with_reducible first | assumption)
    | split
    | simp only [keeps_with] | simp only [id_eq] | dsimp only | intro _

theorem dropSession_keeps {z s : State} (p : Port) (id : Nat) (hz : Keeps afresh z s) :
    Keeps afresh z (dropSession s p id) := by
  unfold dropSession
  try dsimp only
  repeat' first
    | (with_reducible first | assumption)
    | simp only [keeps_with] | simp only [id_eq] | dsimp only | intro _

theorem finishSession_keeps {z s : State} (p : Port) (id : Nat) (valid : Bool) (hz : Keeps afresh z s) :
    Keeps afresh z (finishSession s p id valid) := by
  unfold finishSession
  try dsimp only
  repeat' first
    | (with_reducible first | assumption | apply spdmError_keeps | apply dropSession_keeps | apply updSession_keeps)
    | (with_reducible first | apply State.emit_keeps)
    | split
    | simp only [keeps_with] | simp only [id_eq] | dsimp only | intro _

theorem execGetVersion_keeps {z s : State} (port : Port) (hz : Keeps afresh z s) :
    KeepsOut afresh z (execGetVersion port s) := by
  unfold execGetVersion
  try dsimp only
  repeat' first
    | (with_reducible first | assumption | apply spdmIn_keeps | apply sendVersion_keeps | apply KeepsOut.next)
    | dsimp only | intro _

theorem execGetCapabilities_keeps {z s : State} (port : Port) (hz : Keeps afresh z s) :
    KeepsOut afresh z (execGetCapabilities port s) := by
  unfold execGetCapabilities
  try dsimp only
  repeat' first
    | (with_reducible first | assumption | apply spdmIn_keeps | apply sendCapabilities_keeps | apply KeepsOut.next)
    | dsimp only | intro _

theorem execNegotiateAlgorithms_keeps {z s : State} (port : Port) (hz : Keeps afresh z s) :
    KeepsOut afresh z (execNegotiateAlgorithms port s) := by
  unfold execNegotiateAlgorithms
  try dsimp only
  repeat' first
    | (with_reducible first | assumption | apply spdmIn_keeps | apply sendAlgorithms_keeps | apply KeepsOut.next)
    | dsimp only | intro _

theorem execGetDigests_keeps {z s : State} (port : Port) (hz : Keeps afresh z s) :
    KeepsOut afresh z (execGetDigests port s) := by
  unfold execGetDigests
  try dsimp only
  repeat' first
    | (with_reducible first | assumption | apply spdmIn_keeps | apply sendDigests_keeps | apply KeepsOut.next)
    | dsimp only | intro _

theorem execGetCertificate_keeps {z s : State} (port : Port) (slot offset len : Nat) (hz : Keeps afresh z s) :
    KeepsOut afresh z (execGetCertificate port slot offset len s) := by
  unfold execGetCertificate
  try dsimp only
  repeat' first
    | (with_reducible first | assumption | apply spdmIn_keeps | apply sendCertificate_keeps | apply KeepsOut.next)
    | dsimp only | intro _

theorem execChallenge_keeps {z s : State} (port : Port) (nonce : BitVec 256) (hz : Keeps afresh z s) :
    KeepsOut afresh z (execChallenge port nonce s) := by
  unfold execChallenge
  try dsimp only
  repeat' first
    | (with_reducible first | assumption | apply spdmIn_keeps | apply sendChallenge_keeps | apply KeepsOut.next)
    | dsimp only | intro _

theorem execGetMeasurements_keeps {z s : State} (port : Port) (nonce : BitVec 256) (hz : Keeps afresh z s) :
    KeepsOut afresh z (execGetMeasurements port nonce s) := by
  unfold execGetMeasurements
  try dsimp only
  repeat' first
    | (with_reducible first | assumption | apply spdmIn_keeps | apply sendMeasurements_keeps | apply KeepsOut.next)
    | dsimp only | intro _

theorem execKeyExchange_keeps {z s : State} (port : Port) (exchange : List Byte) (hz : Keeps afresh z s) :
    KeepsOut afresh z (execKeyExchange port exchange s) := by
  unfold execKeyExchange
  try dsimp only
  repeat' first
    | (with_reducible first | assumption | apply spdmIn_keeps | apply startSession_keeps | apply KeepsOut.next)
    | dsimp only | intro _

theorem execFinish_keeps {z s : State} (port : Port) (session : Nat) (valid : Bool) (hz : Keeps afresh z s) :
    KeepsOut afresh z (execFinish port session valid s) := by
  unfold execFinish
  try dsimp only
  repeat' first
    | (with_reducible first | assumption | apply spdmIn_keeps | apply finishSession_keeps | apply KeepsOut.next)
    | dsimp only | intro _

theorem execEndSession_keeps {z s : State} (port : Port) (session : Nat) (hz : Keeps afresh z s) :
    KeepsOut afresh z (execEndSession port session s) := by
  unfold execEndSession
  try dsimp only
  repeat' first
    | (with_reducible first | assumption | apply inSession_keeps | apply dropSession_keeps | apply State.emit_keeps)
    | (with_reducible first | apply KeepsOut.next)
    | dsimp only | intro _

theorem execHeartbeat_keeps {z s : State} (port : Port) (session : Nat) (hz : Keeps afresh z s) :
    KeepsOut afresh z (execHeartbeat port session s) := by
  unfold execHeartbeat
  try dsimp only
  repeat' first
    | (with_reducible first | assumption | apply inSession_keeps | apply State.emit_keeps | apply KeepsOut.next)
    | dsimp only | intro _

theorem execKeyUpdate_keeps {z s : State} (port : Port) (session : Nat) (hz : Keeps afresh z s) :
    KeepsOut afresh z (execKeyUpdate port session s) := by
  unfold execKeyUpdate
  try dsimp only
  repeat' first
    | (with_reducible first | assumption | apply inSession_keeps | apply updSession_keeps | apply State.emit_keeps)
    | (with_reducible first | apply KeepsOut.next)
    | simp only [keeps_with] | dsimp only | intro _

theorem execSessionTimeout_keeps {z s : State} (port : Port) (session : Nat) (hz : Keeps afresh z s) :
    KeepsOut afresh z (execSessionTimeout port session s) := by
  unfold execSessionTimeout
  try dsimp only
  repeat' first
    | (with_reducible first | assumption | apply dropSession_keeps | apply KeepsOut.next)
    | split
    | (with_reducible first | refine Keeps.snd (by assumption) ?_ | refine Keeps.fst (by assumption) ?_)
    | (with_reducible first | refine Keeps.opt (by assumption) ?_)
    | simp only [id_eq] | dsimp only | intro _

theorem discover_keeps {z s : State} (seq : Nat) (hz : Keeps afresh z s) :
    Keeps afresh z (discover s seq) := by
  unfold discover
  try dsimp only
  repeat' first
    | (with_reducible first | assumption | apply State.emit_keeps)
    | dsimp only | intro _

theorem plainSpdm_keeps {z s : State} (m : List Byte) (hz : Keeps afresh z s) :
    Keeps afresh z (plainSpdm s m) := by
  unfold plainSpdm
  try dsimp only
  repeat' first
    | (with_reducible first | assumption | apply sendVersion_keeps | apply sendCapabilities_keeps)
    | (with_reducible first | apply sendAlgorithms_keeps | apply sendDigests_keeps | apply sendCertificate_keeps)
    | (with_reducible first | apply sendChallenge_keeps | apply sendMeasurements_keeps | apply startSession_keeps)
    | (with_reducible first | apply mgmtDrop_keeps)
    | split
    | (with_reducible first | refine Keeps.snd (by assumption) ?_ | refine Keeps.fst (by assumption) ?_)
    | (with_reducible first | refine Keeps.opt (by assumption) ?_)
    | dsimp only | intro _

theorem dispatchDatagram_keeps {z s : State} (b : List Byte) (hz : Keeps afresh z s) :
    Keeps afresh z (dispatchDatagram s b) := by
  unfold dispatchDatagram
  try dsimp only
  repeat' first
    | (with_reducible first | assumption | apply mgmtDrop_keeps | apply plainSpdm_keeps | apply touchSession_keeps)
    | (with_reducible first | apply discover_keeps)
    | split
    | (with_reducible first | refine Keeps.snd (by assumption) ?_ | refine Keeps.fst (by assumption) ?_)
    | (with_reducible first | refine Keeps.opt (by assumption) ?_)
    | dsimp only | intro _

theorem execMgmtDatagram_keeps {z s : State} (bytes : List Byte) (hz : Keeps afresh z s) :
    KeepsOut afresh z (execMgmtDatagram bytes s) := by
  unfold execMgmtDatagram
  try dsimp only
  repeat' first
    | (with_reducible first | assumption | apply mgmtIn_keeps | apply dispatchDatagram_keeps | apply KeepsOut.next)
    | dsimp only | intro _

theorem execMgmtDiscovery_keeps {z s : State} (seq : Word) (hz : Keeps afresh z s) :
    KeepsOut afresh z (execMgmtDiscovery seq s) := by
  unfold execMgmtDiscovery
  try dsimp only
  repeat' first
    | (with_reducible first | assumption | apply mgmtIn_keeps | apply discover_keeps | apply KeepsOut.next)
    | dsimp only | intro _

theorem postMgmt_keeps {z s : State} (e : Nat) (bs : List Byte) (hz : Keeps afresh z s) :
    Keeps afresh z (postMgmt s e bs) := by
  unfold postMgmt
  try dsimp only
  repeat' first
    | (with_reducible first | assumption | apply State.setEntry_keeps)
    | split
    | dsimp only | intro _

theorem execMgmtCommand_keeps {z s : State} (session : Nat) (entry : Fin 16) (bytes : List Byte) (hz : Keeps afresh z s) :
    KeepsOut afresh z (execMgmtCommand session entry bytes s) := by
  unfold execMgmtCommand
  try dsimp only
  repeat' first
    | (with_reducible first | assumption | apply inSession_keeps | apply postMgmt_keeps | apply KeepsOut.next)
    | dsimp only | intro _

theorem execMgmtStatusQuery_keeps {z s : State} (session : Nat) (entry : Fin 16) (hz : Keeps afresh z s) :
    KeepsOut afresh z (execMgmtStatusQuery session entry s) := by
  unfold execMgmtStatusQuery
  try dsimp only
  repeat' first
    | (with_reducible first | assumption | apply inSession_keeps | apply State.emit_keeps | apply KeepsOut.next)
    | dsimp only | intro _

theorem execMgmtControlRead_keeps {z s : State} (session : Nat) (offset : BitVec 28) (count : Nat) (hz : Keeps afresh z s) :
    KeepsOut afresh z (execMgmtControlRead session offset count s) := by
  unfold execMgmtControlRead
  try dsimp only
  repeat' first
    | (with_reducible first | assumption | apply inSession_keeps | apply loadCtl_keeps | apply State.emit_keeps)
    | (with_reducible first | apply KeepsOut.next)
    | split
    | dsimp only | intro _

theorem execMgmtPortSyncGained_keeps {z s : State} (hz : Keeps afresh z s) :
    KeepsOut afresh z (execMgmtPortSyncGained s) := by
  unfold execMgmtPortSyncGained
  try dsimp only
  repeat' first
    | (with_reducible first | assumption | apply KeepsOut.next)
    | split
    | simp only [keeps_with] | dsimp only | intro _

theorem execMgmtPortSyncLost_keeps {z s : State} (hz : Keeps afresh z s) :
    KeepsOut afresh z (execMgmtPortSyncLost s) := by
  unfold execMgmtPortSyncLost
  try dsimp only
  repeat' first
    | (with_reducible first | assumption | apply KeepsOut.next)
    | simp only [keeps_with] | dsimp only | intro _

theorem execArpRequest_keeps {z s : State} (target : BitVec 32) (hz : Keeps afresh z s) :
    KeepsOut afresh z (execArpRequest target s) := by
  unfold execArpRequest
  try dsimp only
  repeat' first
    | (with_reducible first | assumption | apply State.emit_keeps | apply KeepsOut.next)
    | split
    | dsimp only | intro _

theorem execNeighbourSolicitation_keeps {z s : State} (target : BitVec 128) (hz : Keeps afresh z s) :
    KeepsOut afresh z (execNeighbourSolicitation target s) := by
  unfold execNeighbourSolicitation
  try dsimp only
  repeat' first
    | (with_reducible first | assumption | apply State.emit_keeps | apply KeepsOut.next)
    | split
    | dsimp only | intro _

theorem execIcmpEchoRequest_keeps {z s : State} (payload : List Byte) (hz : Keeps afresh z s) :
    KeepsOut afresh z (execIcmpEchoRequest payload s) := by
  unfold execIcmpEchoRequest
  try dsimp only
  repeat' first
    | (with_reducible first | assumption | apply State.emit_keeps | apply KeepsOut.next)
    | split
    | dsimp only | intro _

theorem execDoeDiscovery_keeps {z s : State} (index : Nat) (hz : Keeps afresh z s) :
    KeepsOut afresh z (execDoeDiscovery index s) := by
  unfold execDoeDiscovery
  try dsimp only
  repeat' first
    | (with_reducible first | assumption | apply doeIn_keeps | apply State.emit_keeps | apply KeepsOut.next)
    | split
    | (with_reducible first | refine Keeps.snd (by assumption) ?_ | refine Keeps.fst (by assumption) ?_)
    | (with_reducible first | refine Keeps.opt (by assumption) ?_)
    | dsimp only | intro _

theorem execCdatTableAccess_keeps {z s : State} (handle : Nat) (hz : Keeps afresh z s) :
    KeepsOut afresh z (execCdatTableAccess handle s) := by
  unfold execCdatTableAccess
  try dsimp only
  repeat' first
    | (with_reducible first | assumption | apply doeIn_keeps | apply State.emit_keeps | apply KeepsOut.next)
    | dsimp only | intro _

end Sys2Proof.Machine
end

