-- ==== Sys2Proof/Tests/Slice0.lean ====
section
/-! SUPPORT. Tests: what WellFormed refuses, for every statement with hypotheses a state that meets them
(`witness_`), and single steps with results taken from the spec (`test_`). -/

set_option linter.all false

open Sys2Proof Sys2Proof.Machine

namespace Sys2Proof.Tests

set_option Elab.async false

/-! ### Helpers -/

/-- A group about to issue the word `w`, its registers zero. -/
def tg (w : Nat) : Group :=
  { st := .running, size := 1, pc := 0xF0000, mask := 0xFFFFFFFF, live := 0xFFFFFFFF
    fetch := [(0xF0000 / 64, leBytes 8 w ++ List.replicate 56 0)] }

/-- The module after reset with that group in slot 0 of core 0. -/
def ts (g : Group) : State := State.reset.setGrp 0 0 g

/-- The state an outcome goes on with. -/
def after (o : Host.Outcome State Fault Refusal) : State :=
  match o with
  | .next t => t
  | _ => State.reset

/-- The group after one instruction. -/
def ran (i : Fin 272 → Fin 16 → Ecc → Instr) (g : Group) : Group := (after (exec (i 0 0 .ok) (ts g))).grp 0 0

/-- A word of the opcode `op` with values at bit positions (8.4 to 8.9). -/
def wd (op : Nat) (fs : List (Nat × Nat)) : Nat := fs.foldl (fun a f => a + f.2 * 2 ^ f.1) op

/-- What the outside delivers at an uneventful boot with a link partner. -/
def env : BootEnv :=
  ⟨0, true, [], (false, false), [], [], [], none, none, some (16, 6), false, false, false⟩

/-! ### WellFormed: an ill-formed command for each check -/

theorem test_wf_bonded_read : Instr.wf (.bondedRead 0 (.transfer [])) = false := by decide
theorem test_wf_bonded_write : Instr.wf (.bondedWrite 0 (.transfer [[(295, 1)]])) = false := by decide
theorem test_wf_weight : Instr.wf (.launchStart 0 (.bonded 0 (.transfer [[(0, 1), (0, 2)]]))) = false := by decide
theorem test_wf_lpddr_symbol :
    Instr.wf (.lpddr6Read 0 ⟨[(1494, 1)], 0⟩) = false ∧
    Instr.wf (.mergeDrainComplete 0 ⟨[(5, 1), (5, 2)], 0⟩) = false := by decide
theorem test_wf_level_peaks : Instr.wf (.levelCodePublish (.slice 0) [0]) = false := by decide
theorem test_wf_test5 : Instr.wf (.test5ReadComplete 0 (some [0])) = false := by decide
theorem test_wf_entry_write :
    Instr.wf (.hostCommandEntryWrite 0 255 [0, 0]) = false ∧ Instr.wf (.hostCommandEntryWrite 0 0 []) = false := by decide
theorem test_wf_mem :
    Instr.wf (.hostMemRead 0 0) = false ∧ Instr.wf (.hostMemRead 0xFFFFFFFFFF 2) = false ∧
    Instr.wf (.hostMemWrite 0 []) = false ∧ Instr.wf (.hostMemWrite 0xFFFFFFFFFF [0, 0]) = false := by decide
theorem test_wf_aligned :
    Instr.wf (.configWrite 2 0) = false ∧ Instr.wf (.registerWrite 2 0) = false ∧
    Instr.wf (.w1cClearWrite 1 0 0) = false := by decide
theorem test_wf_bi : Instr.wf (.biResponse 0 (some [])) = false := by decide
theorem test_wf_link : Instr.wf (.linkUp 2 6) = false ∧ Instr.wf (.linkUp 16 7) = false := by decide
theorem test_wf_mgmt :
    Instr.wf (.mgmtCommand 0 0 (List.replicate 249 0)) = false ∧
    Instr.wf (.mgmtControlRead 0 1 1) = false ∧ Instr.wf (.mgmtControlRead 0 0 0) = false ∧
    Instr.wf (.mgmtControlRead 0 0 65) = false := by decide +kernel
theorem test_wf_datagram : Instr.wf (.mgmtDatagram (List.replicate 1473 0)) = false := by decide +kernel
theorem test_wf_key_exchange : Instr.wf (.keyExchange .doe []) = false := by decide
theorem test_wf_row :
    Instr.wf (.descriptorComplete 0 (some 4096)) = false ∧ Instr.wf (.dmaComplete 0 (some 4096)) = false := by decide
theorem test_wf_env :
    (∀ e ∈ [{ env with fails := [(5, .core 0)] }, { env with hang := some (0, []) }, { env with hang := some (15, []) },
            { env with link := some (3, 6) }],
      Instr.wf (.powerOnReset e) = false ∧ Instr.wf (.hotReset .hot e) = false ∧ Instr.wf (.moduleReset 0 e) = false ∧
      Instr.wf (.bootWatchdogExpiry e) = false ∧ Instr.wf (.resetNAssert 0 false e) = false ∧
      Instr.wf (.resetNRelease e) = false ∧ Instr.wf (.warmResetCrownTimeout e) = false ∧
      Instr.wf (.flashPulseEnd e) = false ∧ Instr.wf (.fatalResetTimer e) = false) ∧ env.wf = true := by decide

/-! ### Witnesses: the whole machine -/

theorem witness_StepRunsTheFrontCommand : State.reset.pending = [] ∧ ∃ t, exec .fitCountLoRead State.reset = .next t := ⟨rfl, _, rfl⟩

/-- Every unit of the module after reset has a code of Table 1-8. -/
theorem reset_codes : codesOk State.reset.flp.cur := fun ut id => .inl (by
  unfold FloorPlan.get; split <;> simp [State.reset, tget])

theorem witness_EveryStepKeepsTheInvariant : Inv State.reset ∧ ∃ t, step State.reset = .next t :=
  ⟨⟨by decide, reset_codes, reset_codes, by simp [State.reset]⟩, _, rfl⟩

/-! ### Witnesses: instructions -/

theorem witness_IntegerAndFloat :
    (∀ op ∈ [1, 2, 3, 4, 5, 6, 7, 8, 9, 10, 11, 12, 13, 14, 15, 16, 17], let w := wd op [(8, 3), (16, 1), (24, 2)]
      Issues (ts (tg w)) 0 0 w ∧ major w = op) ∧
    let w := wd 0x12 [(8, 3), (16, 1)]
    Issues (ts (tg w)) 0 0 w ∧ major w = 0x12 := by unfold Issues Reaches Comes; decide +kernel

theorem witness_IntegerAndFloat_wide :
    ∀ op ∈ [1, 2, 6, 7, 8, 9, 10, 11, 17], let w := wd op [(8, 4), (16, 2), (24, 6), (43, 1)]
      Issues (ts (tg w)) 0 0 w ∧ major w = op ∧ fWide w = true := by unfold Issues Reaches Comes; decide +kernel

theorem witness_IntegerAndFloat_float :
    ∀ op ∈ [0x20, 0x21, 0x22, 0x23, 0x24, 0x25, 0x26], let w := wd op [(8, 3), (16, 1), (24, 2)]
      Issues (ts (tg w)) 0 0 w ∧ major w = op := by unfold Issues Reaches Comes; decide +kernel

theorem witness_Conversions :
    (let w := wd 0x28 [(8, 3), (16, 1), (48, 1)]
     Issues (ts (tg w)) 0 0 w ∧ major w = 0x28) ∧
    let w := wd 0x29 [(8, 3), (16, 1)]
    Issues (ts (tg w)) 0 0 w ∧ major w = 0x29 := by unfold Issues Reaches Comes; decide +kernel

theorem witness_LocalAccesses :
    (let w := wd 0x40 [(8, 3), (16, 1), (40, 2)]
     Issues (ts (tg w)) 0 0 w ∧ major w = 0x40 ∧ LocalOk (ts (tg w)) 0 0 w false) ∧
    let w := wd 0x41 [(16, 1), (24, 3), (40, 2)]
    Issues (ts (tg w)) 0 0 w ∧ major w = 0x41 ∧ LocalOk (ts (tg w)) 0 0 w true := by unfold Issues Reaches Comes LocalOk; decide +kernel

/-- A word of each atomic, on local or device memory. -/
def atomWord (op : AtomOp) (device : Nat) : Nat := wd (atomCode op) [(8, 8), (16, 2), (24, 4), (40, 2), (43, device)]

theorem witness_LocalAccesses_atomic : ∀ op ∈ [AtomOp.add, .minS, .maxS, .minU, .maxU, .and, .or, .xor, .xchg, .cas, .fadd],
    let w := atomWord op 0
    Issues (ts (tg w)) 0 0 w ∧ major w = atomCode op ∧ LocalOk (ts (tg w)) 0 0 w true := by
  unfold Issues Reaches Comes LocalOk; decide +kernel

theorem witness_LocalFaultsAndFences :
    (let w := wd 0x40 [(8, 3), (16, 1), (40, 2), (48, 2)]
     let x := ts (tg w)
     Issues x 0 0 w ∧ fWide w = false ∧ 0 ∈ accLanes (x.grp 0 0) w ∧ localFault (x.core 0) (x.grp 0 0) w false 0 = some 6) ∧
    (let w := wd 0x41 [(16, 0x81), (24, 3), (40, 2)]
     let x := ts ((tg w).setU 1 0xF0000)
     Issues x 0 0 w ∧ fWide w = false ∧ 0 ∈ accLanes (x.grp 0 0) w ∧ localFault (x.core 0) (x.grp 0 0) w true 0 = some 7) ∧
    ∀ op ∈ [AtomOp.add, .minS, .maxS, .minU, .maxU, .and, .or, .xor, .xchg, .cas, .fadd],
      let w := atomWord op 0 + 2 ^ 48
      let x := ts (tg w)
      Issues x 0 0 w ∧ fWide w = false ∧ 0 ∈ accLanes (x.grp 0 0) w ∧
        localFault (x.core 0) (x.grp 0 0) w true 0 = some 6 := by unfold Issues Reaches Comes; decide +kernel

theorem witness_LocalFaultsAndFences_fence :
    let x := { tg 0x4E with outst := [⟨0, 0, 0, 0, 4, false, false, 1, [], [], none⟩] }
    Issues (ts (tg 0x4E)) 0 0 0x4E ∧ (∀ a ∈ (tg 0x4E).outst, a.load = true ∨ a.left = 0) ∧
    Issues (ts x) 0 0 0x4E ∧ ∃ a ∈ x.outst, a.load = false ∧ a.left ≠ 0 := by unfold Issues Reaches Comes; decide +kernel

theorem witness_DeviceAccesses_load :
    let w := wd 0x40 [(8, 4), (16, 2), (40, 2), (43, 1)]
    let s := ts (tg w)
    let x := s.grp 0 0
    Issues s 0 0 w ∧ fWide w = true ∧ accLanes x w ≠ [] ∧ major w = 0x40 ∧
      SendsNow s 0 0 w false ((accLanes x w).map fun l => (l, eaDevice x w l, ReqKind.read)) := by
  unfold Issues Reaches Comes SendsNow; decide +kernel

theorem witness_DeviceAccesses_store :
    let w := wd 0x41 [(16, 2), (24, 4), (40, 2), (43, 1)]
    let s := ts (tg w)
    let x := s.grp 0 0
    Issues s 0 0 w ∧ fWide w = true ∧ accLanes x w ≠ [] ∧ major w = 0x41 ∧
      SendsNow s 0 0 w false ((accLanes x w).map fun l => (l, eaDevice x w l, ReqKind.write (storeBytes x w l))) := by
  unfold Issues Reaches Comes SendsNow; decide +kernel

theorem witness_DeviceAccesses_atomic :
    ∀ op ∈ [AtomOp.add, .minS, .maxS, .minU, .maxU, .and, .or, .xor, .xchg, .cas, .fadd],
      let w := atomWord op 1
      let s := ts (tg w)
      let x := s.grp 0 0
      let ls := accLanes x w
      Issues s 0 0 w ∧ fWide w = true ∧ ls ≠ [] ∧ major w = atomCode op ∧
        SendsNow s 0 0 w false ((atomGroups (eaDevice x w) (atomArgs x w ls)).map fun a =>
          ((a.2.head?.map (·.1)).getD 0, a.1, ReqKind.atomic op a.2)) := by
  unfold Issues Reaches Comes SendsNow; decide +kernel

theorem witness_DeviceAccesses_retire :
    let w := wd 0x4F [(16, 2), (43, 1)]
    let s := ts (tg w)
    let x := s.grp 0 0
    let ls := accLanes x w
    Issues s 0 0 w ∧ fWide w = true ∧ ls ≠ [] ∧ major w = 0x4F ∧
      SendsNow s 0 0 w true (((ls.map fun l => eaDevice x w l / 256).eraseDups).map fun L =>
        ((ls.find? fun l => eaDevice x w l / 256 == L).getD 0, 256 * L, ReqKind.retire)) := by
  unfold Issues Reaches Comes SendsNow; decide +kernel

/-- A load of one lane whose cluster may have nothing outstanding. -/
theorem witness_DeviceAccesses_limit :
    let w := wd 0x40 [(8, 4), (16, 2), (40, 2), (43, 1)]
    let s := { ts { tg w with mask := 1, live := 1 } with reg := { limits := [(7, [0, 0, 0, 0])] } }
    let x := s.grp 0 0
    Issues s 0 0 w ∧ fWide w = true ∧ accLanes x w = [0] ∧ x.sending = none ∧ x.outst = [] ∧
      deviceFault s x w false 0 = none ∧ isControl (eaDevice x w 0) = false ∧
      sliceLimit s 0 (homeOf s (eaDevice x w 0)).slice (s.coreClass 0) ≤ outstanding s (clusterOf 0) (s.coreClass 0) := by
  unfold Issues Reaches Comes; decide +kernel

/-- The same group with that request still to be sent. -/
theorem witness_DeviceAccesses_sending :
    let w := wd 0x40 [(8, 4), (16, 2), (40, 2), (43, 1)]
    let r : Req := ⟨.group 0 0 0 0, .read, 0, 4, 7⟩
    let a := accOf (tg w) w true 1 1 [(0, r)]
    let s := ts { tg w with mask := 1, live := 1, stall := .retry, outst := [a] }
    Issues s 0 0 w ∧ (s.grp 0 0).sending = some a ∧ withinLimit s (clusterOf 0) (s.coreClass 0) 0 = true ∧
      sliceHeld s 0 = false ∧ sliceRoom s 0 (s.coreClass 0) 1 = true ∧ r.cls = s.coreClass 0 ∧ (s.slice 0).held = [] ∧
      awaitsHost s r = false ∧ limitHolds s 0 r = false := by unfold Issues Reaches Comes; decide +kernel

theorem witness_DeviceAccesses_trap :
    let w := wd 0x40 [(8, 4), (16, 2), (40, 2), (43, 1), (48, 2)]
    let x := (ts (tg w)).grp 0 0
    Issues (ts (tg w)) 0 0 w ∧ fWide w = true ∧ x.sending = none ∧ 0 ∈ accLanes x w ∧
      deviceFault (ts (tg w)) x w false 0 = some (6, 0) := by unfold Issues Reaches Comes; decide +kernel

/-- An access of one lane at 0xF0_0000_0000. -/
theorem witness_DeviceAccesses_control : ∀ op ∈ [0x40, 0x41],
    let w := wd op [(16, 2), (40, 2), (43, 1), if op = 0x40 then (8, 4) else (24, 4)]
    let s := ts (({ tg w with mask := 1, live := 1 } : Group).setV 3 0 0xF0)
    let x := s.grp 0 0
    Issues s 0 0 w ∧ major w = op ∧ fWide w = true ∧ accLanes x w = [0] ∧ x.sending = none ∧ x.outst = [] ∧
      isControl (eaDevice x w 0) = true ∧ deviceFault s x w false 0 = none ∧ kvCmdStream (eaDevice x w 0) = none := by
  unfold Issues Reaches Comes; decide +kernel

/-- An illegal word, and an operand that waits for a load. -/
theorem witness_ErrorsAndHazards :
    (let w := wd 0x01 [(8, 3), (16, 1), (24, 2), (63, 1)]
     Reaches (ts (tg w)) 0 0 w ∧ legal w = false) ∧
    let w := wd 0x01 [(8, 3), (16, 1), (24, 2)]
    let x := { tg w with outst := [⟨0, 0xF0000, 2, 1, 4, false, true, 1, [], [], none⟩] }
    Reaches (ts x) 0 0 w ∧ legal w = true ∧ x.hazard (operandsOf ((ts x).core 0) 0 w) = true := by
  unfold Reaches Comes; decide +kernel

/-- Words that read register 2, local memory in lane 5, and a loaded table. -/
theorem witness_ErrorsAndHazards_errors :
    (let w := wd 0x01 [(8, 3), (16, 1), (24, 2)]
     Issues (ts (tg w)) 0 0 w ∧ (operandsOf ((ts (tg w)).core 0) 0 w).any (fun p =>
       !p.dst && !selU p.sel && decide (selReg p.sel ≤ 2) && decide (2 < selReg p.sel + p.n)) = true) ∧
    (∀ p ∈ [(0x40, wd 0x40 [(8, 3), (16, 1), (40, 2)]), (0x41, wd 0x41 [(16, 1), (24, 3), (40, 2)]),
        (0x42, atomWord .add 0)],
      Issues (ts (tg p.2)) 0 0 p.2 ∧ 5 ∈ accLanes ((ts (tg p.2)).grp 0 0) p.2 ∧ major p.2 = p.1 ∧
        LocalOk (ts (tg p.2)) 0 0 p.2 (p.1 != 0x40)) ∧
    let w := wd 0xA0 [(8, 3), (16, 1), (32, 0x20)]
    Issues (ts (tg w)) 0 0 w ∧ major w = 0xA0 ∧ 0x20 ≤ fRc w := by
  unfold LocalOk Issues Reaches Comes; decide +kernel

/-! ### Witnesses: control flow, barriers, waits -/

theorem witness_JumpsAndExit : ∀ p ∈ [(0x81, wd 0x81 [(24, 0x1E010)]), (0x82, wd 0x82 [(8, 0x81), (24, 0x1E010)]),
      (0x83, wd 0x83 [(8, 0x81)]), (0x86, 0x86), (0x8A, wd 0x8A [(8, 0x81)]), (0x85, wd 0x85 [(8, 5)])],
    Issues (ts (tg p.2)) 0 0 p.2 ∧ major p.2 = p.1 := by unfold Issues Reaches Comes; decide +kernel

/-- BRA v9, 0xF_0180, rpc 0xF_01C0 of 8.11, and the same with neg. -/
def bra : Nat := 0x03C071E030000980
def braNeg : Nat := bra + 2 ^ 16

/-- Does the branch take a lane? -/
def takes (x : Group) (w l : Nat) : Bool := decide (¬((x.reg (fRd w) l = 0) ↔ bit w 16 = false))

theorem witness_DivergentBranch_all :
    Issues (ts (tg braNeg)) 0 0 braNeg ∧ major braNeg = 0x80 ∧ ∀ l < 32, takes (tg braNeg) braNeg l = true := by
  unfold Issues Reaches Comes; decide +kernel

theorem witness_DivergentBranch_none :
    Issues (ts (tg bra)) 0 0 bra ∧ major bra = 0x80 ∧ (tg bra).mask.getLsbD 0 = true ∧
    ∀ l < 32, takes (tg bra) bra l = false := by unfold Issues Reaches Comes; decide +kernel

theorem witness_DivergentBranch_split :
    let x := (tg bra).setV 9 3 7
    let full := { x with stack := List.replicate 31 ⟨0, 1, none⟩ }
    Issues (ts x) 0 0 bra ∧ takes x bra 3 = true ∧ takes x bra 0 = false ∧ x.stack.length ≤ 30 ∧
    Issues (ts full) 0 0 bra ∧ takes full bra 3 = true ∧ takes full bra 0 = false ∧ 30 < full.stack.length := by
  unfold Issues Reaches Comes; decide +kernel

theorem witness_DivergentBranch_pop :
    let e : StackEnt := ⟨0xF0000, 3, none⟩
    let a : StackEnt := ⟨0xF0040, 1, some 0xF0040⟩
    let x := { tg 0x86 with pc := 0xF0040, stop := some 0xF0040, stack := [a] ++ e :: [] }
    let u := (ts x).setGrp 0 0 { x with pc := e.pc, mask := e.mask, stop := e.stop, stack := [] }
    x.stack.length ≤ 32 ∧ x.stop = some x.pc ∧ (∀ b ∈ [a], b.stop = some b.pc) ∧ Issues u 0 0 0x86 := by
  unfold Issues Reaches Comes; decide +kernel

theorem witness_JumpsAndExit_exit :
    let e : StackEnt := ⟨0xF0040, 7, none⟩
    let a : StackEnt := ⟨0xF0080, 1, none⟩
    let x := { tg 0x84 with mask := 1, stack := [a] ++ e :: [] }
    Issues (ts x) 0 0 0x84 ∧ major 0x84 = 0x84 ∧ (∀ b ∈ [a], b.mask &&& ~~~x.mask = 0) ∧ e.mask &&& ~~~x.mask ≠ 0 ∧
    Issues (ts (tg 0x84)) 0 0 0x84 ∧ ∀ b ∈ (tg 0x84).stack, b.mask &&& ~~~(tg 0x84).mask = 0 := by
  unfold Issues Reaches Comes; decide +kernel

/-- A block of two groups that owns barrier 1, the first about to issue `w`. -/
def barState (w : Nat) : State :=
  ((ts { tg w with size := 2 }).setGrp 0 1 { tg w with size := 2 }).updCore 0 fun c => c.setBar 1 { owned := true }

theorem witness_BarriersAndTokens :
    ∀ p ∈ [(0x88, Stall.barrier 1, (0 : Word)), (0x89, Stall.none, 8)],
    let w := wd p.1 [(8, 1)]
    let s := barState w
    let x := s.grp 0 0
    let br := (s.core 0).bar 1
    let y := { x with stall := p.2.1, arrived := setBit x.arrived 1, skipBp := false, pc := x.pc + p.2.2 }
    let core := ((s.core 0).setGrp 0 y).setBar 1 { br with arrived := setBit br.arrived 0 }
    Issues s 0 0 w ∧ x.mask = x.live ∧ fld w 10 8 = 1 ∧ br.owned = true ∧ br.base = x.base ∧ bit x.arrived 1 = false ∧
      major w = p.1 ∧
      barCount core { br with arrived := setBit br.arrived 0 } x.size ≠ x.size := by
  unfold Issues Reaches Comes; decide +kernel

/-- The last group to arrive, with the other of the block waiting; part of the lanes; no barrier of the block, and a second
arrival. -/
theorem witness_BarriersAndTokens_last :
    ∀ p ∈ [(0x88, Stall.barrier 1), (0x89, Stall.none)],
    let w := wd p.1 [(8, 1)]
    let s0 := (barState w).updCore 0 fun c => c.setBar 1 { owned := true, arrived := 2 }
    let s := s0.setGrp 0 1 { s0.grp 0 1 with stall := .barrier 1, arrived := 2 }
    let x := s.grp 0 0
    let br := (s.core 0).bar 1
    let y := { x with stall := p.2, arrived := setBit x.arrived 1, skipBp := false, pc := x.pc + if p.1 = 0x88 then 0 else 8 }
    let core := ((s.core 0).setGrp 0 y).setBar 1 { br with arrived := setBit br.arrived 0 }
    Issues s 0 0 w ∧ x.mask = x.live ∧ br.owned = true ∧ br.base = x.base ∧ bit x.arrived 1 = false ∧ 0 ∈ x.slots ∧
      1 ∈ x.slots ∧ barCount core { br with arrived := setBit br.arrived 0 } x.size = x.size := by
  unfold Issues Reaches Comes; decide +kernel

theorem witness_BarriersAndTokens_traps : ∀ op ∈ [0x88, 0x89],
    let w := wd op [(8, 1)]
    let part := (barState w).setGrp 0 0 { tg w with size := 2, mask := 1 }
    let again := (barState w).setGrp 0 0 { tg w with size := 2, arrived := 2 }
    Issues part 0 0 w ∧ (part.grp 0 0).mask ≠ (part.grp 0 0).live ∧
    Issues (ts (tg w)) 0 0 w ∧ (tg w).mask = (tg w).live ∧ (((ts (tg w)).core 0).bar 1).owned = false ∧
    Issues again 0 0 w ∧ bit (again.grp 0 0).arrived 1 = true := by unfold Issues Reaches Comes; decide +kernel

/-- WAIT u6, {token 0} of 8.11. -/
def waitW : Nat := 0x18663

theorem witness_BarriersAndTokens_wait :
    Issues (ts (tg (waitW + 2 ^ 24))) 0 0 (waitW + 2 ^ 24) ∧ bit (waitW + 2 ^ 24) 24 = true ∧
    Issues (ts (tg waitW)) 0 0 waitW ∧ major waitW = 0x63 ∧ bit waitW 24 = false ∧
    countsZero (tg waitW) (fld waitW 23 16) = true ∧
    (let x := (tg waitW).setToken 0 { count := 1 }
     Issues (ts x) 0 0 waitW ∧ countsZero x (fld waitW 23 16) = false) ∧
    let x := { tg waitW with stall := .tokens 0x86 1 }
    x.st = .running ∧ x.stall = .tokens 0x86 1 ∧ selU 0x86 = true ∧ selOk 0x86 1 1 = true ∧ countsZero x 1 = true := by
  unfold Issues Reaches Comes; decide +kernel

/-! ### Witnesses: descriptors, fragments, special functions -/

/-- An element-wise add of one row of four BF16 elements, at 0x1000 and 0x1100, to FP32 at 0x1200. -/
def ewDesc : List Byte :=
  [0x11, 0x10, 0x11, 0, 1, 0, 4, 0] ++ List.replicate 8 0 ++ [0, 0x10, 0, 0, 0, 0, 0, 0, 0, 0x11, 0, 0, 0, 0, 0, 0] ++
  [0, 0x12, 0, 0] ++ List.replicate 16 0 ++ [8, 0, 8, 0, 16, 0, 0, 0, 0, 0, 0, 0]

/-- A DMA of one row of 8 bytes from device address 0 to local 0x1000. -/
def dmaDesc : List Byte :=
  [0x18, 0, 1, 0, 8, 0, 0, 0] ++ List.replicate 8 0 ++ [0, 0x10, 0, 0, 0, 0, 0, 0, 8, 0, 0, 0, 0, 0, 0, 0] ++
  [8, 0, 0, 0] ++ List.replicate 28 0

/-- The same row from local 0x1000 to device address 0. -/
def dmaOut : List Byte := dmaDesc.set 1 1

/-- A launch in window 0 of matrix 0. -/
def palmDesc : List Byte := [0x20, 1, 1, 0] ++ List.replicate 60 0

/-- A group about to issue `w` with a descriptor at local address 0. -/
def descState (w : Nat) (d : List Byte) : State := (ts (tg w)).updCore 0 fun c => { c with lm := mwrite [] 0 d }

theorem witness_DescriptorIssueAndErrors : ∀ p ∈ [(0x60, ewDesc), (0x61, dmaDesc), (0x62, palmDesc)],
    let w := wd p.1 [(8, 0x82)]
    let s := descState w p.2
    let bytes := mread (s.core 0).lm (descAddr (s.grp 0 0) w) 64
    Issues s 0 0 w ∧ major w = p.1 ∧ descPlaceOk (descAddr (s.grp 0 0) w) = true ∧ (s.core 0).mq.length < 16 ∧
      (s.core 0).dq.length < 16 ∧ ((s.grp 0 0).token 0).count < 15 ∧
      (p.1 = 0x60 → checkMx bytes (4096 * (s.core 0).codeBase) = none) ∧
      (p.1 = 0x61 → checkDma bytes (4096 * (s.core 0).codeBase) = none) := by unfold Issues Reaches Comes; decide +kernel

theorem witness_DescriptorIssueAndErrors_full : ∀ p ∈ [(0x60, 3, ewDesc), (0x61, 1, dmaDesc), (0x62, 1, palmDesc)],
    let w := wd p.1 [(8, 0x82)]
    let s := (descState w p.2.2).setGrp 0 0 ((tg w).setToken 0 { count := 15 })
    let bytes := mread (s.core 0).lm (descAddr (s.grp 0 0) w) 64
    Issues s 0 0 w ∧ descPlaceOk (descAddr (s.grp 0 0) w) = true ∧
      15 ≤ ((s.grp 0 0).token (fld (rd bytes p.2.1 1) 6 4)).count := by unfold Issues Reaches Comes; decide +kernel

theorem witness_DescriptorIssueAndErrors_errors : ∀ op ∈ [0x60, 0x61, 0x62],
    let w := wd op [(8, 0x82)]
    let v := wd op [(8, 0x82), (16, 4)]
    let s := ts (tg w)
    let u := ts (tg v)
    Issues s 0 0 w ∧ descPlaceOk (descAddr (s.grp 0 0) w) = true ∧
      checkMx (mread (s.core 0).lm 0 64) (4096 * (s.core 0).codeBase) = some 1 ∧
      checkDma (mread (s.core 0).lm 0 64) (4096 * (s.core 0).codeBase) = some 1 ∧
      Issues u 0 0 v ∧ descPlaceOk (descAddr (u.grp 0 0) v) = false := by unfold Issues Reaches Comes; decide +kernel

/-- Core 0 with these fields. -/
def tcore (c : Core) : State := State.reset.setCore 0 c

theorem witness_DescriptorsStart :
    let s := tcore { mq := [⟨0, ewDesc, false, false⟩], dq := [⟨0, dmaDesc, false, false⟩] }
    s.coreRuns 0 = true ∧ (s.core 0).mq = ⟨0, ewDesc, false, false⟩ :: [] ∧ (s.core 0).lastKind = none ∧
    a0Busy s 0 = false ∧ (s.core 0).dq = ⟨0, dmaDesc, false, false⟩ :: [] ∧ (s.core 0).dmaRun = [] := by
  decide +kernel

/-- A group about to issue a fragment instruction, with this bank 0. -/
def fragState (w : Nat) (b : Bank) : State := (ts (tg w)).updCore 0 fun c => c.setBank 0 b

theorem witness_FragmentsToTheBank :
    let o := wd 0x70 [(8, 7), (16, 7), (24, 1), (28, 1)]
    let l := wd 0x71 [(8, 4), (16, 7)]
    let m := wd 0x72 [(8, 4)]
    let held : Bank := { owner := some 0, m := 8, n := 8, k := 8, fmtA := 1, fmtB := 1, tile := some [] }
    (let s := ts (tg o)
     Issues s 0 0 o ∧ (s.grp 0 0).mask = 0xFFFFFFFF ∧ a0Desc s 0 = false ∧ heldBank (s.core 0) 0 = none ∧
       (List.range 2).find? (fun k => ((s.core 0).bankAt k).owner.isNone) = some 0) ∧
    (let s := fragState l held
     Issues s 0 0 l ∧ a0Desc s 0 = false ∧ heldBank (s.core 0) 0 = some 0 ∧
       selReg (fRd l) + fragRegs ((s.core 0).bankAt 0).fmtA (fld l 20 16 + 1) ≤ 128) ∧
    let s := fragState m held
    Issues s 0 0 m ∧ a0Desc s 0 = false ∧ heldBank (s.core 0) 0 = some 0 ∧
      ((s.core 0).bankAt 0).tile.isSome = true ∧
      selReg (fRd m) + fragRegs ((s.core 0).bankAt 0).fmtB ((s.core 0).bankAt 0).k ≤ 128 := by
  unfold Issues Reaches Comes; decide +kernel

theorem witness_FragmentsFromTheBank :
    let r := wd 0x73 [(8, 4), (16, 0x81)]
    let held : Bank := { owner := some 0, m := 8, n := 8, k := 8, fmtA := 1, fmtB := 1 }
    (let s := (fragState r { held with flight := [(4, [])] }).updCore 0 fun c => c.setBank 1 { flight := [(3, []), (5, [])] }
     1 < 2 ∧ ((s.core 0).bankAt 1).flight = (3, []) :: [(5, [])] ∧
       ∀ i < 2, i = 1 ∨ ((s.core 0).bankAt i).flight.head? = some (4, [])) ∧
    let s := fragState r held
    let b := (s.core 0).bankAt 0
    Issues s 0 0 r ∧ major r = 0x73 ∧ a0Desc s 0 = false ∧ heldBank (s.core 0) 0 = some 0 ∧ b.flight = [] ∧
      selReg (fRd r) + roundRegs (fld r 27 24) b.n ≤ 128 ∧ b.m ≤ 32 := by unfold Issues Reaches Comes; decide +kernel

theorem witness_SpecialFunctions :
    let e := wd 0xA0 [(8, 3), (16, 1)]
    let r := wd 0xA8 [(8, 0x82), (16, 0x84), (24, 0x85)]
    let x := (tg r).setU 5 65536
    Issues (ts (tg e)) 0 0 e ∧ major e = 0xA0 ∧ Issues (ts x) 0 0 r ∧ major r = 0xA8 ∧
      0 < (x.reg (fRb r) 0).toNat ∧ (x.reg (fRb r) 0).toNat ≤ 65536 ∧
      (x.reg (fRa r) 0).toNat + (x.reg (fRb r) 0).toNat * 4 ≤ 0x100000 ∧ (x.reg (fRa r) 0).toNat % 4 = 0 := by
  unfold Issues Reaches Comes; decide +kernel

/-! ### Witnesses: groups, blocks, completions -/

theorem witness_FetchAndDrain :
    mayIssue State.reset 0 0 = false ∧
    (let s := ts (tg 0)
     mayIssue s 0 0 = true ∧ (s.grp 0 0).pend = none ∧ (s.grp 0 0).stop ≠ some (s.grp 0 0).pc ∧
       pcOk (s.core 0) (popStops 33 (s.grp 0 0)).pc.toNat = true) ∧
    (let s := ts { tg 0 with pc := 4 }
     mayIssue s 0 0 = true ∧ (s.grp 0 0).pend = none ∧ pcOk (s.core 0) (popStops 33 (s.grp 0 0)).pc.toNat = false) ∧
    (let s := ts { tg 0 with stop := some 0xF0000, stack := [⟨0xF0008, 1, none⟩] }
     mayIssue s 0 0 = true ∧ (s.grp 0 0).pend = none ∧ (popStops 33 (s.grp 0 0)).pc = 0xF0008 ∧
       pcOk (s.core 0) (popStops 33 (s.grp 0 0)).pc.toNat = true) ∧
    (let s := ts { tg 0 with st := .draining }
     (s.grp 0 0).st = .draining ∧ (s.grp 0 0).quiet = true) ∧
    let s := ts (({ tg 0 with st := .draining } : Group).setToken 0 { count := 1 })
    (s.grp 0 0).quiet = false := by decide +kernel

/-- An access of two lanes that has come back. -/
def backAcc (err : Option (Nat × Nat)) : DevAcc := ⟨0, 0xF0000, 4, 1, 4, false, true, 0, [], [(0, 5), (31, 7)], err⟩

theorem witness_DeviceReplies : ∀ err ∈ [none, some (3, 2)],
    let a := backAcc err
    let x := { tg 0 with outst := [a] }
    x.st = .running ∧ x.outst.find? (fun b => b.left == 0) = some a ∧ a.err = err ∧ a.got.length ≤ 32 ∧
      (a.got.map (·.1)).Nodup ∧ selOk a.rd a.regs a.regs = true ∧ ∀ v ∈ a.got, v.1 < 32 ∧ (selU a.rd = true → v.1 = 0) := by
  decide +kernel

/-! ### Witnesses: blocks, descriptors, launches -/

/-- An image of one class-7 stream, 0, with one block of two groups on logical cluster 0. -/
def blockImage : Image :=
  { structs := [⟨0, 0, 0, 0, 0, 0⟩]
    streams := [⟨0, 7, 0, 100000, 1, 1000, 0, 16, 0, 0x10000, 256, 1, 1, 0, 0⟩]
    graphs := [{ steps := [⟨0, false, [⟨0, 0, 0, 2, 0, 0, 5⟩], {}, []⟩], code := [], kv := none, maxInput := 64, power := [] }] }

/-- A request that waits to start. -/
def waits : ReqSt := ⟨3, 0, 0, 0, false, none, none, 0, none⟩

/-- That image running on physical cluster 1, with a request waiting. -/
def blockState : State :=
  ({ State.reset with img := { State.reset.img with running := some blockImage, bind := [(0, 1)] } }.setStream 0
    { state := 1, cls := 7, reqs := [waits] }).setRegion 1 { gated := false }

/-- A step of two blocks on one core: groups 0 and 1 with barriers 0 and 2, groups 4 and 5 with barrier 1. -/
def twoBlocks : StepRec := ⟨0, false, [⟨0, 0, 0, 2, 5, 0, 5⟩, ⟨0, 0, 4, 2, 2, 0x40, 6⟩], {}, []⟩

theorem witness_BlocksStart_two :
    let im := { blockImage with graphs := [{ steps := [twoBlocks], code := [], kv := none, maxInput := 64, power := [] }] }
    let s := { blockState with img := { blockState.img with running := some im } }
    stopped s = false ∧ (s.stream 0).state = 1 ∧ streamDrained s 0 = true ∧ barriersFree s twoBlocks = true ∧
    nextReq (s.stream 0) = some waits ∧ ((s.graphOf 0).bind fun g => g.steps[0]?) = some twoBlocks ∧
    placesFree s twoBlocks = true ∧ twoBlocks.blocks ≠ [] ∧ ∀ b ∈ twoBlocks.blocks, blockCore s b = some 4 ∧
      ∀ b' ∈ twoBlocks.blocks, b' = b ∨ b.barriers &&& b'.barriers = 0 ∧
        ∀ k < b.n, ∀ k' < b'.n, b.base + k ≠ b'.base + k' := by decide +kernel

theorem witness_BlocksStart : ∃ sp b,
    stopped blockState = false ∧ (blockState.stream 0).state ≠ 2 ∧ (blockState.stream 0).state ≠ 3 ∧
    streamDrained blockState 0 = true ∧ barriersFree blockState sp = true ∧ nextReq (blockState.stream 0) = some waits ∧
    ((blockState.graphOf 0).bind fun g => g.steps[0]?) = some sp ∧ placesFree blockState sp = true ∧
    sp.blocks = [b] ∧ blockCore blockState b = some 4 ∧ 1 < b.n :=
  ⟨⟨0, false, [⟨0, 0, 0, 2, 0, 0, 5⟩], {}, []⟩, ⟨0, 0, 0, 2, 0, 0, 5⟩, by decide +kernel⟩

/-- A matrix descriptor that completes, and one with a byte of its first row changed since its start. -/
theorem witness_DescriptorsComplete : ∀ seen ∈ [[], [(0x1000, (3 : Byte))]],
    let g : Group := { st := .running, size := 1, tokens := [(0, { count := 1 })] }
    let r : RunDesc := { ent := ⟨0, ewDesc, false, false⟩, seen := seen }
    let s := (ts g).updCore 0 fun c => { c with mxRun := [r] }
    (s.core 0).mxRun = r :: [] ∧ s.coreHeld 0 = false ∧ (s.grp 0 0).st ≠ .draining ∧ r.seen = seen := by decide +kernel

/-- A DMA transfer that completes: into local memory or out of it, one of them cut before its first row. -/
theorem witness_DescriptorsComplete_dma : ∀ p ∈ [(dmaDesc, none), (dmaOut, none), (dmaOut, some 0)],
    let g : Group := { st := .running, size := 1, tokens := [(0, { count := 1 })] }
    let q : RunDesc := { ent := ⟨0, p.1, false, false⟩, cut := p.2 }
    let s := (ts g).updCore 0 fun c => { c with dmaRun := [q] }
    let d := parseDma p.1
    let al := dmaAllowed d (s.coreClass 0) s
    let sn := if d.out then (true, al.2) else dmaSnoop d (s.coreClass 0) al.2
    let mx := mixMem (q.seen ++ if d.out then comingMx s 0 ++ comingLaunches s 0 none else []) (s.core 0).lm s.freeCtr
    let lost := if d.out then (some 0).filter fun k => decide (k < q.cut.getD d.rows) else none
    let moved := dmaRows 0 (s.coreClass 0) d mx.1 q.seen (((lost.orElse fun _ => q.cut)).getD d.rows) 0
      ({ sn.2 with freeCtr := mx.2 }.updCore 0 fun co => { co with dmaRun := [], perfDesc := 1 })
    d.out = (p.1 != dmaDesc) ∧ (s.core 0).dmaRun = q :: [] ∧ al.1 = true ∧ sn.1 = true ∧ (moved.2.grp 0 0).st ≠ .draining ∧
      moved.1 = none ∧ lost.isSome = (p == (dmaOut, none)) := by decide +kernel

/-- A share of four rows of eight BF16 columns in window 0. -/
def share : Share :=
  { ref := 0, base := 0, mat := ⟨0, 1, false, false, 4, 32, 64, 0, 0, 0⟩, matrixId := 0, window := 0, fmtW := 1
    split := false, source := false, extra := false, rows := 4, outFirst := 0, outStride := 1, kTotal := 32, nTotal := 4
    wAddr := 0, wStride := 64, scaleOff := 0, rmaxOff := 0, kFirst := 0, kBlocks := 1, home := 0 }

/-- A Palm descriptor of one vector at 0x1000, output at 0x2000, in BF16. -/
def launchDesc : List Byte :=
  [0x20, 1, 0x11, 0, 0, 0, 0, 0] ++ [0, 0x10, 0, 0] ++ List.replicate 8 0 ++ [0, 0x20, 0, 0] ++ List.replicate 4 0 ++
  [64, 0, 8, 0] ++ List.replicate 32 0

/-- An image with a slice-local window 0 on slice 0. -/
def slocalImage : Image := { windows := [⟨0, 0, true, false, 1, 0, 0, 0, 1, 0, 0x100000⟩] }

/-- That image running. -/
def palmState : State := { State.reset with img := { State.reset.img with running := some slocalImage } }

theorem witness_PalmLaunches_dispatch :
    let s := palmState.setCore 0 { dq := [⟨0, launchDesc, true, false⟩] }
    (s.core 0).dq = ⟨0, launchDesc, true, false⟩ :: [] ∧ s.coreRuns 0 = true ∧
    engineList s (parsePalm launchDesc).window = [0] ∧
    ∀ n ∈ engineList s (parsePalm launchDesc).window, palmResetting s n = false ∧
      (if s.coreClass 0 = 0 then (s.engine n).q0 else (s.engine n).q1).length < 8 := by decide +kernel

/-- A launch of that descriptor started by these engines, with this cause. -/
def tlaunch (started : List Nat) (cause : Nat) : Launch :=
  { core := 0, grp := 0, cls := 7, bytes := launchDesc, engines := [0], started := started, cause := cause }

/-- With shares without a source, and with one whose source-1 line lies in bonded channel 0. -/
theorem witness_PalmLaunches_start : ∀ sh ∈ [share, { share with source := true }],
    let L := tlaunch [] 0
    let s := { palmState with launches := [(5, L)] }.setEngine 0 { q1 := [5], shares := [sh] }
    let e := s.engine 0
    let d := parsePalm L.bytes
    let shs := e.sharesOf d.window d.id
    let ls := sourceLines shs (if d.op = 2 then some d.row else none)
    s.engineOn 0 = true ∧ palmResetting s 0 = false ∧ e.pick s = some (5, false) ∧ s.launch 5 = some L ∧
    palmCheck s L.bytes L.moved (4096 * (s.core L.core).codeBase) = none ∧ L.cause = 0 ∧ poisonedShares s 0 shs = [] ∧
    ls.any (lineHeld s) = false ∧ sourcesAllowed s L.cls ls = true ∧
    (snoopRanges s L.cls (ls.map fun l => (256 * l, 256))).1 = true ∧ (ls = []) = (sh.source = false) := by decide +kernel

/-- A launch that ends well, and one that met a cause. -/
theorem witness_PalmLaunches_complete : ∀ cause ∈ [0, 0x21],
    let L := tlaunch [0] cause
    let s := { (palmState.setGrp 0 0 { st := .running, size := 1, tokens := [(0, { count := 1 })] }) with launches := [(5, L)] }.setEngine 0
      { run1 := some 5, shares := [share] }
    let w := if L.cause = 0 then readWeights s 5 L else (true, s)
    (s.launches.find? fun e => launchReady s 0 e.1 e.2) = some (5, L) ∧ w.1 = true ∧ L.engines ≠ [] ∧ L.grp ≠ 16 ∧
    w.2.coreHeld 0 = false ∧ (w.2.grp 0 L.grp).st ≠ .draining ∧ L.seen = [] := by decide +kernel

/-- That image with a staging of window 0, or an eviction from it, waiting. -/
def stagingState (evicts : Bool) : State :=
  { palmState with img := { palmState.img with stagings := [(0, 0, evicts, none, 0)] } }

theorem witness_PalmLaunches_staging (e : Bool) :
    (stagingState e).img.stagings = (0, 0, e, none, 0) :: [] ∧ (stagingMay (stagingState e) 0 0 e 0).1 = true ∧
      windowLaunches (stagingState e) 0 0 = false := ⟨rfl, by cases e <;> decide +kernel⟩

theorem witness_PalmLaunches_engines :
    let r := State.reset.setEngine 0 { suspended := true, run1 := some 5 }
    let d := { State.reset with flp := { State.reset.flp with cur := { slice := [(0, 2)] } } }.setEngine 0 { shares := [share] }
    (r.engine 0).suspended = true ∧ (r.engine 0).q0 = [] ∧
    d.engineOn 0 = false ∧ (d.engine 0).shares ≠ [] ∧ restageHeld d 0 = false := by decide +kernel

/-! ### Witnesses: the KV agent -/

/-- An image of one class-7 stream with one pool of one column of four 16-KiB pages and one causal layer. -/
def kvImage : Image :=
  { structs := [⟨0, 0, 0, 0, 0, 0⟩]
    streams := [⟨0, 7, 0, 100000, 1, 1000, 0, 16, 0, 0x10000, 256, 8, 1, 0, 0⟩]
    graphs := [{ steps := [], code := [], maxInput := 64, power := []
                 kv := some ⟨4, 64, 0x20000, 0x30000, [⟨0x100000, 0x10000, 1, 0, 4, 0, 0⟩],
                   [⟨0, 0, 1, true, true, false, 1, 64, 0⟩]⟩ }] }

/-- That image running with a KV command waiting and sequence 1 as given. -/
def kvState (b : List Byte) (x : Seq) : State :=
  { State.reset with img := { State.reset.img with running := some kvImage } }.setKv 0
    { queue := [(.none, none, b)], seqs := [(1, x)], cols := [(0, { enabled := true })] }

theorem kvState_queue (b : List Byte) (x : Seq) : ((kvState b x).kv 0).queue = (.none, none, b) :: [] := by
  unfold kvState; simp

/-- A KV command of sequence 1 (Table 10-6). -/
def kvCmd (op arg0 arg1 : Nat) : List Byte := leBytes 1 op ++ leBytes 1 0 ++ leBytes 2 1 ++ leBytes 4 arg0 ++ leBytes 8 arg1

/-- An open sequence holding page 0 for positions 0 to 9, four of them committed. -/
def openSeq : Seq :=
  { state := 1, c := 4, f := 10, reserve := 64, pages := [(0, { held := true, tentative := true, addr := 0x100000 })] }

theorem witness_KvCommandsTakeEffect : ∃ k,
    (∀ p ∈ [(kvCmd 1 2 64, ({} : Seq)), (kvCmd 2 54 0, openSeq), (kvCmd 3 (6 + 8 * 65536) 0, openSeq), (kvCmd 4 0 0, openSeq)],
      let s := kvState p.1 p.2
      s.kvLayout 0 = some k ∧ (kvMay s 0 k (parseKv p.1)).1 = true ∧
        kvArgsOk k (((s.streamRec 0).map (·.ringSlots)).getD 0) (parseKv p.1) = true) ∧
    (∀ p < k.pools.length, pagesNeeded k 64 p ≤
      ((kvState (kvCmd 1 2 64) {}).kv 0).unreserved (k.pools.getD p ⟨0, 0, 0, 0, 0, 0, 0⟩) p) ∧
    (10 + 54 ≤ 64 ∧ 64 ≤ k.maxPositions ∧ (allocPages k ((kvState (kvCmd 2 54 0) openSeq).kv 0) openSeq
      ((pagesBelow k 64).filter fun e => !(tget {} openSeq.pages e.1).held)).isSome = true) ∧
    (6 ≤ openSeq.f - openSeq.c ∧ openSeq.items + 8 ≤ (((kvState [] {}).streamRec 0).map (·.maxItems)).getD 0) ∧
    ((pagesBelow k k.maxPositions).map (·.1)).Nodup :=
  ⟨⟨4, 64, 0x20000, 0x30000, [⟨0x100000, 0x10000, 1, 0, 4, 0, 0⟩], [⟨0, 0, 1, true, true, false, 1, 64, 0⟩]⟩,
    by decide +kernel⟩

theorem witness_KvCommandsTakeEffect_lengths : ∃ k,
    let b := leBytes 1 5 ++ leBytes 3 0 ++ leBytes 4 1 ++ leBytes 8 0x4000
    let s := (kvState b openSeq).setSlice (homeOf (kvState b openSeq) 0x4000).slice
      (({} : Slice).setLine (homeOf (kvState b openSeq) 0x4000).set 0
        { present := true, no := 0x40, valid := 2 ^ 256 - 1, data := [(0, 1)] })
    let c := parseKv b
    let u := (kvMay s 0 k c).2.setKv 0 { s.kv 0 with queue := [] }
    s.kvLayout 0 = some k ∧ (kvMay s 0 k c).1 = true ∧
    kvArgsOk k (((s.streamRec 0).map (·.ringSlots)).getD 0) c = true ∧ c.op = 5 ∧ (lengthsList u 0 c).1 = some [1] ∧
    ((s.kv 0).seq 1).state = 1 :=
  ⟨⟨4, 64, 0x20000, 0x30000, [⟨0x100000, 0x10000, 1, 0, 4, 0, 0⟩], [⟨0, 0, 1, true, true, false, 1, 64, 0⟩]⟩,
    by decide +kernel⟩

/-! ### Witnesses: slices -/

/-- Slice 0 of the module after reset with these fields. -/
def sliceState (sl : Slice) : State := State.reset.setSlice 0 sl

/-- A request of four bytes of line 0, by group 0 of core 0. -/
def req (k : ReqKind) : Req := ⟨.group 0 0 0 0, k, 8, 4, 7⟩

theorem ok_of {e : Except Nat Home} {h : Home} (k : e.toOption = some h) : e = .ok h := by
  cases e <;> simp_all [Except.toOption]

theorem sliceState_resolves (sl : Slice) : resolve (sliceState sl) true 8 = .ok ⟨8, 0, 0, none⟩ := ok_of (by
  show (resolve State.reset true 8).toOption = _; decide +kernel)

/-- The home of that request. -/
def home8 : Home := ⟨8, 0, 0, none⟩

/-- Slice 0 with that request at the head of its queue is about to serve it, when its queue and miss registers say so. -/
theorem sliceState_next {sl : Slice} {r : Req} (h : nextReqAt (sliceState sl) 0 (fun _ => true) = some (0, r))
    (m : ((sliceState sl).slice 0).missing (r.addr / 256) = false) (a : r.addr = 8) (n : NotListed (sliceState sl) r.addr r.len) :
    NextAt (sliceState sl) 0 0 r home8 := by
  refine ⟨h, m, ?_, rfl, n⟩
  rw [a]; exact sliceState_resolves sl

/-- The line is there: whole, poisoned, or dirty. -/
theorem witness_SliceRequests : ∀ k ∈ [ReqKind.read, .write [1, 2, 3, 4], .retire, .atomic .add [(0, 5, 0)]],
    ∀ p ∈ [(false, false), (true, false), (false, true)],
    let l : Line := { present := true, no := 0, valid := 2 ^ 256 - 1, data := [(8, 7)], poison := p.1, dirty := p.2 }
    let s := sliceState (({ inq := [req k] } : Slice).setLine 0 3 l)
    NextAt s 0 0 (req k) home8 ∧ findWay (s.slice 0) home8 = some 3 ∧ NotListed s 0 256 ∧ poisoned (s.slice 0) < 255 ∧
      ((s.slice 0).line 0 3).poison = p.1 ∧ ((s.slice 0).line 0 3).dirty = p.2 ∧ deadEntry (s.slice 0) 0 = false ∧
      covers ((s.slice 0).line 0 3).valid (maskOf 8 4) = true := by
  intro k hk p hp
  simp only [List.mem_cons, List.not_mem_nil, or_false] at hk hp
  rcases hk with rfl | rfl | rfl | rfl <;> rcases hp with rfl | rfl | rfl <;>
    exact ⟨sliceState_next (by decide +kernel) (by decide +kernel) rfl (by unfold NotListed; decide +kernel),
      by unfold NotListed; decide +kernel⟩

/-- The line is not there: a read and a write with a free way, a read of a dead line, and a request that joins a fill. -/
theorem witness_SliceRequests_absent : ∀ k ∈ [ReqKind.read, .write [1, 2, 3, 4]], ∀ f ∈ [[], [(0, 0xFF)]],
    let s := sliceState { inq := [req k], filter := f }
    let j := sliceState { inq := [req k], miss := [⟨0, [req .read]⟩] }
    NextAt s 0 0 (req k) home8 ∧ findWay (s.slice 0) home8 = none ∧ deadEntry (s.slice 0) 0 = !f.isEmpty ∧
      (windowAt s home8.backing).any (·.deadFault) = false ∧
      (∃ way, chooseWay s 0 home8 (windowAt s home8.backing) = .at_ way ∧ ((s.slice 0).line 0 way).dirty = false) ∧
      nextReqAt j 0 (fun _ => true) = some (0, req k) ∧ (j.slice 0).missing 0 = true ∧ NotListed j 8 4 := by
  intro k hk f hf
  simp only [List.mem_cons, List.not_mem_nil, or_false] at hk hf
  rcases hk with rfl | rfl <;> rcases hf with rfl | rfl <;>
    exact ⟨sliceState_next (by decide +kernel) (by decide +kernel) rfl (by unfold NotListed; decide +kernel),
      by decide +kernel, by decide +kernel, by decide +kernel, ⟨0, by decide +kernel⟩, by unfold NotListed; decide +kernel⟩

/-- Every way of the set fills, so a request has no place; and a window at address 0 that faults dead reads. -/
theorem witness_SliceRequests_bypass :
    (∀ k ∈ [ReqKind.read, .write [1, 2, 3, 4]],
      let s := sliceState { inq := [req k], miss := (List.range 16).map (fun i => ⟨32768 * (i + 1), []⟩),
                             lines := (List.range 16).map (fun i => (i, { present := true, no := 32768 * (i + 1) })) }
      nextReqAt s 0 (fun _ => true) = some (0, req k) ∧ findWay (s.slice 0) home8 = none ∧
        chooseWay s 0 home8 (windowAt s home8.backing) = .bypass ∧ deadEntry (s.slice 0) 0 = false) ∧
    let im : Image := { windows := [⟨3, 0, false, true, 1, 0, 0, 0, 1, 0, 0x100000⟩] }
    let s := { sliceState { inq := [req .read], filter := [(0, 3)] } with img := { State.reset.img with running := some im } }
    nextReqAt s 0 (fun _ => true) = some (0, req .read) ∧ deadEntry (s.slice 0) 0 = true ∧
      (windowAt s home8.backing).any (·.deadFault) = true := by decide +kernel

/-- Fills with a place for their line or none, arrived or failed, and their waiters: a read, reads of three clusters, and a read
on either side of a write. -/
theorem witness_FillsAndFences_fill : ∀ p ∈ [(true, true), (true, false), (false, true)],
    ∀ ws ∈ [[req .read], [req .read, { req .read with src := .group 4 0 0 0 }, { req .read with src := .group 8 0 0 0 }],
            [req .read, req (.write [1, 2, 3, 4]), req .read]],
    let h : Home := ⟨0, 0, 0, none⟩
    let b := List.replicate 256 (9 : Byte)
    let fill := if p.2 then some b else none
    let sl : Slice := { rets := [(0, fill)], miss := [⟨0, ws⟩] }
    let s := sliceState (if p.1 then sl.setLine 0 3 { present := true, no := 0, valid := 1, data := [(0, 7)] } else sl)
    resolve s true (256 * 0) = .ok h ∧ b.length = 256 ∧ NotListed s 8 4 ∧
    (s.slice 0).rets = (0, fill) :: [] ∧ sliceStopped s 0 = false ∧ (s.slice 0).miss.filter (fun m => m.line == 0) = [⟨0, ws⟩] ∧
      (∀ r ∈ ws, r.addr / 256 = 0 ∧ r.addr % 256 + r.len ≤ 256) ∧ findWay (s.slice 0) h = if p.1 then some 3 else none := by
  intro p hp ws hw
  simp only [List.mem_cons, List.not_mem_nil, or_false] at hp hw
  rcases hp with rfl | rfl | rfl <;> rcases hw with rfl | rfl | rfl <;>
    exact ⟨ok_of (by decide +kernel), by unfold NotListed; decide +kernel⟩

/-- Reads of three clusters are more than two. -/
theorem witness_FillsAndFences_multicast :
    2 < (waitClusters [req .read, { req .read with src := .group 4 0 0 0 }, { req .read with src := .group 8 0 0 0 }]).length := by
  decide +kernel

theorem witness_FillsAndFences_fence :
    let s := sliceState { fencing := some (7, 0) }
    codesOk s.flp.cur ∧ (s.slice 0).fencing = some (7, 0) ∧ putOff s = false ∧ s.inService 3 0 = true ∧ halfOfSlice 1 = halfOfSlice 0 ∧
      s.inService 3 1 = true := ⟨reset_codes, by decide +kernel⟩

/-! ### Witnesses: memory controllers, traffic -/

/-- A memory request for line 3 by slice 2. -/
def memReq (w : Option (List (Nat × Byte))) : MemReq := ⟨3, 2, 7, w⟩

theorem witness_BondedTransfers :
    (∀ m ∈ [({ q := [memReq none] } : Ctlr), { q := [memReq none], lost := [3] }],
      nextAtCtl (State.reset.setBc 0 m) false 0 false = some (0, memReq none)) ∧
    plainLine 3 = true ∧ isCtrLine 0x3F00000 = true ∧ isRingLine 0x7FE0003 = true ∧
    (let ws := (List.range 256).map fun i => (i, (1 : Byte))
     nextAtCtl (State.reset.setBc 0 { q := [memReq (some ws)] }) false 0 true = some (0, memReq (some ws)) ∧
       (memReq (some ws)).write = some ws ∧ ws.map (·.1) = List.range 256) := by decide +kernel

theorem crc_zeros (n : Nat) : (List.replicate n (0 : Byte)).foldl crcByte 0 = 0 := by
  induction n with
  | zero => rfl
  | succ n ih => rw [List.replicate_succ, List.foldl_cons, show crcByte 0 0 = 0 by decide +kernel]; exact ih

/-- A flip of the last bit of a transfer is seen. -/
theorem flip_seen : seamMatch [(294, 1#8)] = false := by
  unfold seamMatch crc16
  rw [show overlay (List.replicate seamBytes 0#8) [(294, 1#8)] = List.replicate 294 (0 : Byte) ++ [1] by decide +kernel,
    List.foldl_append, crc_zeros]
  decide +kernel

theorem witness_BondedTransfers_repeats :
    seamTransfer 4 0 [[(294, 1#8)]] = some (1, []) ∧ seamTransfer 4 0 (List.replicate 4 [(294, 1#8)]) = none := by
  simp [seamTransfer, flip_seen, List.replicate]

/-- A line of the first code page of channel 0. -/
def pageLine : Nat := 0x10000000

/-- Channel 0 with a read of that line waiting. -/
def pageState (es : List MergeEnt) (held : List (Nat × List Byte)) : State :=
  State.reset.setLp 0 { q := [⟨pageLine, 2, 7, none⟩], merge := es, heldPages := held }

theorem witness_Lpddr6Transfers_reads :
    ∀ p ∈ [([(⟨0, 0, false, [], 2 ^ 2048 - 1, 7⟩ : MergeEnt)], ([] : List (Nat × List Byte)), true),
           ([], [(0, [1])], false), ([], [], false)],
      let s := pageState p.1 p.2.1
      nextAtCtl s true 0 false = some (0, ⟨pageLine, 2, 7, none⟩) ∧ (pageOf (256 * pageLine)).2.1 = 0 ∧
        mergeCovers (s.lp 0).merge 0 0 256 = p.2.2 ∧
        ((s.lp 0).heldPages.find? fun h => h.1 == 0) = p.2.1.head? := by decide +kernel

theorem witness_Lpddr6Transfers_page : (readPage (pageState [] []) 0 0 ⟨[], 0⟩).res.toOption.isSome = true := by
  decide +kernel

theorem witness_Lpddr6Transfers_errors :
    (let s := { pageState [] [] with ctrs := [(0, { poison := 1 })] }
     nextAtCtl s true 0 false = some (0, ⟨pageLine, 2, 7, none⟩) ∧
       (match (readPage s 0 0 ⟨[], 0⟩).res with | .error e => e | .ok _ => 0) = 7) ∧
    let s := (pageState [] []).setBc (ctrCh (ctrLine 0 0)) { lost := [ctrLine 0 0] }
    0x100 ≤ (match (readPage s 0 0 ⟨[], 0⟩).res with | .error e => e | .ok _ => 0) := by decide +kernel

/-- A draining entry whose version counter's line is lost. -/
theorem witness_Lpddr6Transfers_counter :
    let e : MergeEnt := ⟨0, 0, true, [], 2 ^ 2048 - 1, 7⟩
    let s := (State.reset.setLp 0 { merge := [e] }).setBc (ctrCh (ctrLine 0 0)) { lost := [ctrLine 0 0] }
    findIdx? (·.draining) (s.lp 0).merge = some 0 ∧ ctrMayAsk s 0 e.page e.cls = true ∧
      (match bondedLine s (ctrCh (ctrLine 0 0)) (ctrLine 0 0) with | .error _ => true | .ok _ => false) = true ∧
      ctrMayAsk { s with reg := { limits := [(8 * 5 + 7, [0, 0, 0, 0]), (8 * 6 + 7, [0, 0, 0, 0])] } } 0 e.page e.cls = false := by
  decide +kernel

theorem witness_Lpddr6Transfers_writes :
    (∀ es ∈ [[], [(⟨0, 0, false, [], 1, 7⟩ : MergeEnt)], List.replicate 32 ⟨1, 0, false, [], 1, 7⟩],
      nextAtCtl (State.reset.setLp 0 { q := [⟨pageLine, 2, 7, some [(0, 1)]⟩], merge := es }) true 0 true =
        some (0, ⟨pageLine, 2, 7, some [(0, 1)]⟩)) ∧
    mergeRoom { merge := [] } 7 = true ∧ mergeRoom { merge := List.replicate 32 ⟨1, 0, false, [], 1, 7⟩ } 7 = false ∧
    let e : MergeEnt := ⟨0, 0, true, [], 2 ^ 2048 - 1, 7⟩
    let s := State.reset.setLp 0 { merge := [e] }
    findIdx? (·.draining) (s.lp 0).merge = some 0 ∧ e.full = true ∧ tget 0 (s.ctr 0 e.page).minor (e.page % 32) + 1 ≤ 0xFFF := by
  decide +kernel

theorem witness_TrafficRegulation :
    let c : Ctl := .slice 0
    let s := { State.reset with now := 1 + fourPeriods c }
    s.now < tget 0 ({ s.reg with codeAt := [(ctlNo c, 2)] } : Reg).codeAt (ctlNo c) + fourPeriods c ∧
    tget 0 s.reg.codeAt (ctlNo c) + fourPeriods c ≤ s.now := by decide +kernel

/-! ### Witnesses: intake and the contract -/

/-- Stream 0 of these images. -/
def str (cls : Nat) : StreamRec := ⟨0, cls, 0, 100000, 1, 1000, 200000, 16, 0, 0x10000, 256, 8, 1, 0, 0⟩

/-- An image of that stream on logical cluster 0, with host-memory window 2. -/
def streamImage (cls : Nat) : Image :=
  { structs := [⟨0, 0, 0, 0, 0, 0⟩], streams := [str cls], shed := [0]
    graphs := [{ steps := [⟨0, false, [], {}, []⟩], code := [], kv := none, maxInput := 64, power := [0] }]
    hostWins := [⟨2, 2, true, false, 7, 0, 0x1000, 0⟩]
    envelope := ⟨40, 800, 400, 600⟩ }

/-- A request slot (Table 13-4). -/
def slot (items flags body bytes : Nat) : List Byte :=
  leBytes 8 1 ++ leBytes 2 items ++ leBytes 2 flags ++ leBytes 4 5 ++ leBytes 8 body ++ leBytes 4 bytes ++ List.replicate 36 0

/-- That image running on cluster 1, a slot in bonded DRAM at the head of the ring, the link up and window 2 bound. -/
def ringState (cls : Nat) (b : List Byte) (st : Stream) : State :=
  { State.reset with
    img := { State.reset.img with running := some (streamImage cls), bind := [(0, 1)] }
    mem := mwrite [] 0 b, hlk := { up := true, binds := [(2, some (0, 0x1000))] }, now := 100000 }.setStream 0 st

theorem witness_IntakePolls :
    ∀ p ∈ [(slot 1 1 0 8, SlotWord.accept), (slot 9 1 0 8, .refuse 4), (slot 1 0 (2 ^ 63 + 2 * 2 ^ 56) 8, .ask)],
      let s := ringState 7 p.1 { state := 1, cls := 7 }
      let u := readSlot (s.setStream 0 { s.stream 0 with polls := 1 }) (str 7) 0
      polled s 0 = true ∧ s.streamRec 0 = some (str 7) ∧ u.1 = .bytes p.1 ∧ rd p.1 0 8 = 1 ∧
        judgeSlot u.2 (str 7) (parseSlot p.1) s.now = p.2 := by decide +kernel

/-- Its slot has been cached by the host, or its bonded channel is out of service. -/
theorem witness_IntakePolls_unread :
    (let s := ringState 7 (slot 1 1 0 8) { state := 1, cls := 7 }
     let h := { s with hlk := { s.hlk with dir := [0] } }
     polled h 0 = true ∧ (readSlot (h.setStream 0 { h.stream 0 with polls := 1 }) (str 7) 0).1 = .waits) ∧
    let s := ringState 7 (slot 1 1 0 8) { state := 1, cls := 7 }
    let d := s.setBc (channelOf 0).2 { lost := [0] }
    polled d 0 = true ∧ (readSlot (d.setStream 0 { d.stream 0 with polls := 1 }) (str 7) 0).1 = .lost := by decide +kernel

/-- A slot whose body lies in host-memory window 2. -/
def hostSlot : List Byte := slot 1 0 (2 ^ 63 + 2 * 2 ^ 56) 8

/-- Stream 0 waiting on test 5 for a slot it read as `b`, with `held` in the slot now, in the state `st`. -/
def test5State (b held : List Byte) (st now : Nat) : State :=
  { ringState 7 held { state := st, cls := 7, test5 := some { slot := 0, bytes := b, since := 100000, left := 63 } } with now := now }

/-- The slot as it was, one that the tests now refuse, and one that no longer holds what was read. -/
theorem witness_RequestsEnd_test5 :
    ∀ p ∈ [(hostSlot, hostSlot, 1, SlotWord.ask), (hostSlot, hostSlot, 3, .refuse 3), (hostSlot, slot 2 1 0 8, 1, .ask)],
      let s := test5State p.1 p.2.1 p.2.2.1 101500
      let t5 : Test5 := { slot := 0, bytes := p.1, since := 100000, left := 63 }
      let u := readSlot (s.setStream 0 { s.stream 0 with test5 := none }) (str 7) 0
      (s.stream 0).test5 = some t5 ∧ t5.ended = none ∧ s.streamRec 0 = some (str 7) ∧ s.img.switch = none ∧ stopped s = false ∧
        u.1 = .bytes p.2.1 ∧ judgeSlot u.2 (str 7) (parseSlot t5.bytes) 100000 = p.2.2.2 ∧
        s.now ≤ 100000 + 1500 ∧ 100000 + 1500 ≤ s.now ∧ rateFull (s.stream 0) (str 7) 100000 = false := by decide +kernel

/-- A slot that cannot be read, one that the host has cached, and intake stopped by a fatal error. -/
theorem witness_RequestsEnd_unread :
    let s := test5State hostSlot hostSlot 1 101500
    let lost := s.setBc (channelOf 0).2 { lost := [0] }
    let cached := { s with hlk := { s.hlk with dir := [0] } }
    let dead := { s with evt := { s.evt with fatalAt := some 0 } }
    let read := fun (x : State) => (readSlot (x.setStream 0 { x.stream 0 with test5 := none }) (str 7) 0).1
    (read lost = .lost ∧ stopped lost = false) ∧ (read cached = .waits ∧ stopped cached = false) ∧ stopped dead = true := by
  decide +kernel

theorem witness_RequestsEnd_copy :
    let c : BodyCopy := ⟨50000, 2, 8⟩
    let q : ReqSt := ⟨0, 0, 10, 0, false, some c, none, 0, none⟩
    let s := ringState 7 hostSlot { state := 1, cls := 7, reqs := [q] }
    let d := { s with hlk := { s.hlk with binds := [] } }
    copyingReq s 0 = some (q, c) ∧ copyReached s c = true ∧ c.since + 50000 ≤ s.now ∧
      copyingReq d 0 = some (q, c) ∧ copyReached d c = false := by decide +kernel

theorem witness_RequestsEnd_completion : ∀ promise ∈ [99999, 100000],
    let q : ReqSt := ⟨0, 0, promise, 0, true, none, none, 0, none⟩
    let s := ringState 0 (slot 1 1 0 8) { state := 1, reqs := [q] }
    (s.stream 0).reqs = q :: [] ∧ q.started = true ∧ q.step = none ∧ q.failing = none ∧ s.img.switch = none ∧
      (s.isClass0 0 && decide (q.promise < s.now - q.commit)) = (promise == 99999) := by decide +kernel

theorem witness_FittingAtRunTime :
    (∀ p ∈ [(600, true), (0, false)],
      let im := { streamImage 0 with envelope := ⟨40, 800, 400, p.1⟩ }
      let s := { ringState 0 [] { state := 1 } with img := { State.reset.img with running := some im, bind := [(0, 1)] } }
      let a := { s with fit := { s.fit with recheckDue := some 5 } }
      let b := { s with fit := { s.fit with refitDue := true } }
      a.img.running = some im ∧ a.fit.recheckDue = some 5 ∧
        (fit (recheckInput (endLostRequests a) false) im).toOption.isSome = p.2 ∧
        b.fit.refitDue = true ∧ b.fit.recheckDue = none ∧ (fit (recheckInput b true) im).toOption.isSome = p.2 ∧
        (p.2 = false → class0Left (endLostRequests a) = true ∧
          im.shed.find? (fun k => ((endLostRequests a).stream k).state != 3) = some 0)) ∧
    let s := { State.reset with fit := { State.reset.fit with faultActive := true } }
    s.fit.faultActive = true ∧ recovering s = false := by decide +kernel

theorem witness_FieldSelfTest_turn :
    let s := { State.reset with boot := { ready := true, ftsNext := 143, passAt := 8 }, now := 572000000008 }
    s.boot.ready = true ∧ s.boot.ftsNext = 143 ∧ s.boot.passAt + 4000000000 * 143 ≤ s.now := by decide +kernel

/-- A bond of set A of slice 0, or of bonded channel 2, that mismatches again in slot 3: its lane group free of failed bonds, the
same bond failed before, another failed, and that with set B gone; and one of set B in slot 4. -/
theorem witness_FieldSelfTest_bonds : ∀ sp ∈ [[], [(99, 31)], [(99, 5)]], ∀ down ∈ [0, 2],
    let x : FieldTest := ⟨0, 3, [(99, 31)], true⟩
    let b : Bond := ⟨false, 0, 99, 31⟩
    let s := { sliceState { spared := sp, setsDown := down } with boot := { ready := true, tests := [x] } }
    let y : FieldTest := ⟨130, 4, [(68, 0)], true⟩
    badBonds x.unit [b] = [(99, 31)] ∧ setOf (testUnit x.unit).1 99 = (x.slot + 1) % 2 ∧
      bit (setsOut s 3 0) 0 = false ∧ setsOut s 3 0 = down ∧ (99, 31) ∈ x.bonds ∧ testUnit x.unit = (3, 0) ∧
      ((sparedGroups s 3 0).find? fun e => e.1 == 99) = sp.head? ∧ putOff s = false ∧ s.unitState 3 0 < 3 ∧
      badBonds y.unit [⟨true, 2, 68, 0⟩] = [(68, 0)] ∧ setOf (testUnit y.unit).1 68 = (y.slot + 1) % 2 ∧ testUnit y.unit = (4, 2) := by
  decide +kernel

theorem witness_FieldSelfTest :
    (∀ x ∈ [(⟨130, 1, [], true⟩ : FieldTest), ⟨0, 2, [], true⟩, ⟨0, 1, [], false⟩, ⟨0, 1, [], true⟩, ⟨0, 3, [(0, 1)], true⟩,
            ⟨130, 4, [(0, 1)], true⟩],
      let s := { State.reset with boot := { ready := true, tests := [x] } }
      s.boot.tests.all (fun e => testable s e.unit) = true ∧
        s.boot.tests.find? (fun e => testPart e.unit == 0) = some x ∧ (recentTests s).length < 8 ∧
        (s.slice x.unit).rowsUsed + (s.slice x.unit).rowsDue.length ≤ 256) ∧
    let s := { State.reset with boot := { ready := true, tests := [⟨0, 2, [], true⟩], testTicks := List.replicate 8 0 } }
    s.boot.tests.all (fun e => testable s e.unit) = true ∧
      s.boot.tests.find? (fun e => testPart e.unit == 0) = some ⟨0, 2, [], true⟩ ∧ 8 ≤ (recentTests s).length := by
  decide +kernel

/-! ### Witnesses: profiles, flash, bundles, tables -/

theorem bytes_of {f : Fetched × State} {b : List Byte} (k : (match f.1 with | .bytes c => some c | _ => none) = some b) :
    ∃ u, f = (.bytes b, u) := by
  obtain ⟨r, u⟩ := f
  cases r <;> simp_all

/-- A taken command with its arguments (Table 13-8). -/
def job (e op : Nat) (as : List Nat) : Job :=
  ⟨e, op, leBytes 2 op ++ List.replicate 6 0 ++ as.flatMap (leBytes 8) ++ List.replicate (240 - 8 * as.length) 0, false⟩

/-- The module ready, with a taken command. -/
def cmdState (j : Job) : State :=
  { State.reset with boot := { ready := true }, jobs := [j], hlk := { up := true, binds := [(2, some (0, 0x10000))] } }

/-- A link address in host-memory window 2. -/
def hostAddr : Nat := 2 ^ 63 + 2 * 2 ^ 56

theorem witness_ProfileSwitches :
    (∀ mode ∈ [0, 1], ∀ running ∈ [none, some (streamImage 7)],
      let j := job 3 0x0201 [7, mode]
      let s := { cmdState j with img := { running := running, cmdEn := true, slots := [(7, { state := 2 })] } }
      newJob s 3 0x0201 = some j ∧ j.malformed 2 = false ∧ j.arg 0 = 7 ∧ j.arg 1 = mode ∧ switchBusy s = false ∧
        (s.fslot 7).state = 2 ∧ bit s.boot.slotSkip 7 = false ∧ belowFloor s 7 = false) ∧
    let w : Switch := ⟨3, 7, some 0, false, false, .drain, none⟩
    let s := { State.reset with img := { running := some (streamImage 7), switch := some w } }
    s.img.switch = some w ∧ w.phase = .drain ∧ w.abort = false ∧ busyStreams s = false := by decide +kernel

/-- An image of one class-7 stream (Table 2-1), signed by the key whose public key is the base point. -/
def signedImage : List Byte :=
  [65, 75, 86, 75, 1, 0, 64, 0, 64, 5, 0, 0, 8, 0, 0, 0, 96, 7, 176] ++ List.replicate 29 0 ++ [64, 0, 0, 0, 0, 5,
  0, 0, 105, 139, 234, 99, 220, 68, 163, 68, 1, 0, 1, 0, 192, 0, 0, 0, 32, 0, 0, 0, 0, 178, 165, 237, 2, 0, 1, 0, 0,
  1, 0, 0, 80, 0, 0, 0, 226, 45, 63, 81, 3, 0, 1, 0, 128, 1, 0, 0, 224, 1, 0, 0, 201, 213, 5, 246, 5, 0, 1, 0, 128,
  3, 0, 0, 16, 0, 0, 0, 148, 203, 60, 110, 6, 0, 1, 0, 192, 3, 0, 0, 16, 0, 0, 0, 148, 203, 60, 110, 7, 0, 1, 0, 0,
  4, 0, 0, 80, 0, 0, 0, 85, 57, 7, 200, 8, 0, 1, 0, 128, 4, 0, 0, 48, 0, 0, 0, 118, 88, 43, 168, 10, 0, 1, 0, 192,
  4, 0, 0, 48, 0, 0, 0, 35, 99, 210, 110, 16, 0, 0, 0, 1] ++ List.replicate 12 0 ++ [255] ++ List.replicate 46 0 ++
  [64, 0, 0, 0, 1] ++ List.replicate 12 0 ++ [7, 0, 0, 160, 134, 1, 0, 1, 0, 0, 0, 232, 3, 0, 0, 64, 13, 3, 0, 16]
  ++ List.replicate 12 0 ++ [16] ++ List.replicate 6 0 ++ [64, 0, 0, 0, 8, 0, 1] ++ List.replicate 65 0 ++ [32, 0,
  0, 0, 1] ++ List.replicate 13 0 ++ [1, 0, 64, 0, 0, 0, 128, 0, 0, 0, 8] ++ List.replicate 7 0 ++ [64, 0, 0, 0,
  192, 0, 0, 0, 192, 1] ++ List.replicate 18 0 ++ [1] ++ List.replicate 447 0 ++ [32] ++ List.replicate 63 0 ++ [32]
  ++ List.replicate 63 0 ++ [64, 0, 0, 0, 1] ++ List.replicate 12 0 ++ List.replicate 63 255 ++ List.replicate 48 0
  ++ [32, 0, 0, 0, 1] ++ List.replicate 11 0 ++ [1, 0, 3, 7] ++ List.replicate 14 0 ++ [32] ++ List.replicate 29 0
  ++ [32, 0, 0, 0, 1] ++ List.replicate 11 0 ++ [144, 1, 144, 1, 144, 1, 226, 4] ++ List.replicate 40 0 ++ [120,
  153, 102, 71, 252, 72, 11, 166, 53, 27, 242, 119, 226, 105, 137, 192, 195, 26, 181, 4, 3, 56, 82, 138, 126, 79, 3,
  141, 24, 123, 242, 124, 206, 126, 123, 71, 120, 195, 156, 69, 124, 117, 180, 99, 22, 231, 234, 151, 171, 112, 209,
  217, 252, 228, 5, 254, 142, 221, 74, 178, 59, 89, 194, 182]

/-- That key in a signer slot. -/
def baseSigner : Signer := ⟨true, p256g.1, p256g.2, 0⟩

/-- The image as the module parses it, but for its digest. -/
def parsedImage : Image :=
  { signer := [105, 139, 234, 99, 220, 68, 163, 68], structs := [⟨0, 255, 0, 0, 0, 0⟩]
    streams := [⟨0, 7, 0, 100000, 1, 1000, 200000, 16, 0, 0x1000, 64, 8, 1, 0, 0⟩]
    graphs := [{ steps := [⟨1, false, [], {}, List.replicate 5 {}⟩], code := List.replicate 8 0, kv := none, maxInput := 64
                 power := List.replicate 6 0 }]
    shed := [0], hostWins := [⟨1, 0, true, true, 7, 0, 0x200000, 0⟩], envelope := ⟨400, 400, 400, 1250⟩ }

/-- The image as the module parses it. -/
def signedIm : Image := { parsedImage with digest := sha256 signedImage }

/-- A switch to profile 7, which holds that image, at a phase of its mode change. -/
def switchState (ph : SwitchPhase) (ch : ModeKind × Bool × Nat) (restoring : Bool) : State :=
  ({ State.reset with
    sec := { op := { state := 1, signers := [(7, baseSigner)] } }, now := 1000005, ep := { change := some ch }
    mem := mwrite [] (shadowBase 7) signedImage
    img := { switch := some ⟨3, 7, some 0, restoring, false, ph, none⟩ } }).setShadow 7
      { size := 1344, digest := sha256 signedImage, made := true }

theorem signedImage_parses (d : List Byte) : parseImage signedImage d = { parsedImage with digest := d } := by
  have h : parseImage signedImage [] = parsedImage := by decide +kernel
  have e : parseImage signedImage d = { parseImage signedImage [] with digest := d } := by simp only [parseImage]
  rw [e, h]

theorem signedImage_signature : signatureOk baseSigner signedImage = true := by decide +kernel

set_option maxRecDepth 100000 in
theorem signedImage_sections : (((secTable signedImage).any fun e => crc32c (slice signedImage e.off e.len) != e.crc) = false ∧
    tableOk signedImage = true) ∧ reservedOk signedImage = true ∧ rangesOk signedImage = true ∧
    contentsOk signedImage signedIm = true := by decide +kernel

theorem signedImage_head : signedImage.length = 1344 ∧ rd signedImage 0 4 = 0x4B564B41 ∧ rd signedImage 4 2 = 1 ∧
    rd signedImage 6 2 = 0x40 ∧ rd signedImage 0x30 4 = 0x40 ∧ rd signedImage 0x10 2 = 0x0760 ∧ rd signedImage 0x12 1 = 0xB0 ∧
    rd signedImage 8 4 = 1344 ∧ rd signedImage 0x34 4 = 1280 ∧ rd signedImage 0x18 4 = 0 ∧ rd signedImage 0x14 4 = 0 := by
  decide +kernel

theorem signedImage_loads (ph : SwitchPhase) (ch : ModeKind × Bool × Nat) (r : Bool) :
    loadImage (loadEnv (switchState ph ch r)) signedImage = .ok signedIm := by
  obtain ⟨h0, h1, h2, h3, h4, h5, h6, h7, h8, h9, h10⟩ := signedImage_head
  obtain ⟨⟨k1, k2⟩, k3, k4, k5⟩ := signedImage_sections
  have g : signerOf (loadEnv (switchState ph ch r)) signedImage = some baseSigner := by
    show signerOf (loadEnv (switchState .drain (.quiesce, false, 0) false)) signedImage = _; decide +kernel
  have p : parseImage signedImage (sha256 signedImage) = signedIm := signedImage_parses _
  have f : (loadEnv (switchState ph ch r)).fwVersion = 0 := rfl
  simp [loadImage, h0, h1, h2, h3, h4, h5, h6, h7, h8, h9, h10, k1, k2, k3, k4, k5, g, f, signedImage_signature, show baseSigner.floor = 0 from rfl, p]

theorem switchState_bytes (ph : SwitchPhase) (ch : ModeKind × Bool × Nat) (r : Bool) :
    (switchState ph ch r).shadowBytes 7 = signedImage := by
  have k : ((shadowLines 7 1344).takeWhile (readable (switchState ph ch r))).length = 6 := by
    show ((shadowLines 7 1344).takeWhile (readable (switchState .drain (.quiesce, false, 0) false))).length = 6; decide +kernel
  have z : ((switchState ph ch r).shadow 7).size = 1344 := rfl
  have m : (switchState ph ch r).mem = mwrite [] (shadowBase 7) signedImage := by
    simp only [switchState, State.setShadow]
  rewrite [State.shadowBytes, z, k, m, show min 1344 (256 * 6) = 1344 by decide]
  have w := mread_mwrite [] (shadowBase 7) signedImage
  rewrite [signedImage_head.1] at w
  exact w

/-- The module loads it. -/
theorem switchState_loads (ph : SwitchPhase) (ch : ModeKind × Bool × Nat) (r : Bool) :
    loadImage (loadEnv (switchState ph ch r)) ((switchState ph ch r).shadowBytes 7) = .ok signedIm := by
  rw [switchState_bytes, signedImage_loads]

theorem switchImage_of {s : State} {w : Switch} {im : Image} (h : loadImage (loadEnv s) (s.shadowBytes w.target) = .ok im) :
    switchImage s w = some im := by simp only [switchImage, h]

theorem switchState_image (ph : SwitchPhase) (ch : ModeKind × Bool × Nat) (r : Bool) (w : Switch) (t : w.target = 7) :
    switchImage (switchState ph ch r) w = some signedIm := switchImage_of (by rw [t]; exact switchState_loads ph ch r)

theorem switchState_shadow (ph : SwitchPhase) (ch : ModeKind × Bool × Nat) (r : Bool) :
    ((switchState ph ch r).shadow 7).digest = sha256 signedImage := by
  unfold switchState State.shadow State.setShadow; simp only [tget_tput_self]

theorem switchState_input (ph : SwitchPhase) (ch : ModeKind × Bool × Nat) (r : Bool) :
    fitInput (switchState ph ch r) = fitInput State.reset := by unfold switchState State.setShadow fitInput; rfl

theorem signedIm_fits : (fit (fitInput State.reset) signedIm).toOption.isSome = true ∧
    (bindClusters State.reset.flp.cur signedIm).toOption.isSome = true ∧ (signedIm.streams.map (·.id)).Nodup := by
  decide +kernel

/-- Step 5 of the switch: the shadow's digest matches, and the image loads. -/
theorem witness_SwitchSteps_quiesced (r : Bool) :
    let q := switchState .quiesce (.quiesce, true, 5) r
    q.img.switch = some ⟨3, 7, some 0, r, false, .quiesce, none⟩ ∧ q.ep.change = some (.quiesce, true, 5) ∧
      sha256 (q.shadowBytes 7) = (q.shadow 7).digest ∧ loadImage (loadEnv q) (q.shadowBytes 7) = .ok signedIm ∧
      q.coreOn 271 = true :=
  ⟨rfl, rfl, by rw [switchState_bytes, switchState_shadow], switchState_loads _ _ _, rfl⟩

/-- Steps 6 to 8: its commit, before and after. -/
theorem witness_SwitchSteps (r past : Bool) :
    let w : Switch := ⟨3, 7, some 0, r, false, .commit, none⟩
    let p := switchState .commit (.structure_, past, 5) r
    p.img.switch = some w ∧ w.target < 8 ∧ p.ep.change = some (.structure_, past, 5) ∧ p.now = 5 + 1000000 ∧
      switchImage p w = some signedIm ∧ (bindClusters State.reset.flp.cur signedIm).toOption.isSome = true ∧
      p.flp.cur = State.reset.flp.cur ∧ p.coreOn 271 = true ∧ p.flp.deferred = [] ∧
      (fit (fitInput p) signedIm).toOption.isSome = true ∧ (signedIm.streams.map (·.id)).Nodup :=
  ⟨rfl, by show 7 < 8; decide, rfl, rfl, switchState_image _ _ _ _ rfl, signedIm_fits.2.1, rfl, rfl, rfl,
    by rw [switchState_input]; exact signedIm_fits.1, signedIm_fits.2.2⟩

/-- Its shadow voided before step 5, and every cluster fenced before step 7. -/
theorem witness_SwitchSteps_fails :
    (let q := (switchState .quiesce (.quiesce, true, 5) false).setShadow 7 {}
     sha256 (q.shadowBytes 7) ≠ (q.shadow 7).digest ∧ (q.shadow 7).loadError = 0) ∧
    let c := { switchState .commit (.structure_, true, 5) false with
      flp := { cur := { cluster := (List.range 68).map fun i => (i, 3) } } }
    (fit (fitInput c) signedIm).toOption = none := by decide +kernel

theorem witness_ProfileSwitchRefusals :
    let j := job 3 0x0201 [7, 0]
    let off := { cmdState j with img := { running := some (streamImage 7) } }
    let busy := { cmdState j with img := { flashOp := some (.slot 2 1 []) } }
    let bad := cmdState j
    let skipped := { cmdState j with img := { slots := [(7, { state := 2 })] }, boot := { ready := true, slotSkip := 0x80 } }
    let changing := { cmdState j with ep := { change := some (.sf 4 true 0, true, 5) } }
    newJob changing 3 0x0201 = some j ∧ changing.ep.change.isSome = true ∧
    newJob skipped 3 0x0201 = some j ∧ bit skipped.boot.slotSkip 7 = true ∧ skipped.ep.change = none ∧
    newJob bad 3 0x0201 = some j ∧ j.malformed 2 = false ∧ j.arg 0 = 7 ∧ j.arg 1 = 0 ∧
    newJob off 3 0x0201 = some j ∧ off.img.running.isSome = true ∧ off.img.cmdEn = false ∧
    newJob busy 3 0x0201 = some j ∧ busy.img.running = none ∧ busy.img.flashOp = some (.slot 2 1 []) ∧
    bad.img.running = none ∧ bad.img.switch = none ∧ bad.img.flashOp = none ∧ bad.boot.ready = true ∧ bad.ep.change = none ∧
      (bad.fslot 7).state ≠ 2 := by decide +kernel

theorem witness_FlashWrites_begin :
    (let j := job 3 0x0202 [7, hostAddr, 4]
     let s := cmdState j
     newJob s 3 0x0202 = some j ∧ j.malformed 3 = false ∧ j.arg 0 ≤ 7 ∧ 0 < j.arg 2 ∧ j.arg 2 ≤ 0x3800000 ∧
       runningSlot s (j.arg 0) = false ∧ flashBusy s = false ∧
       ∃ u, fetchLink s (j.arg 1) (j.arg 2) (some [1, 2, 3, 4, 5]) = (.bytes [1, 2, 3, 4], u)) ∧
    (let j := job 3 0x0203 [7]
     let s := cmdState j
     newJob s 3 0x0203 = some j ∧ j.malformed 1 = false ∧ j.arg 0 ≤ 7 ∧ runningSlot s (j.arg 0) = false ∧ flashBusy s = false) ∧
    let j := job 3 0x0204 [1, hostAddr, 4]
    let s := cmdState j
    newJob s 3 0x0204 = some j ∧ j.malformed 3 = false ∧ j.arg 0 ≤ 1 ∧ 0 < j.arg 2 ∧ j.arg 2 ≤ 0x800000 ∧
      (j.arg 0 == 1) ≠ s.img.fwRunB ∧ flashBusy s = false ∧
      ∃ u, fetchLink s (j.arg 1) (j.arg 2) (some [1, 2, 3, 4, 5]) = (.bytes [1, 2, 3, 4], u) := by
  refine ⟨⟨?_, ?_, ?_, ?_, ?_, ?_, ?_, bytes_of ?_⟩, by decide +kernel, ?_, ?_, ?_, ?_, ?_, ?_, ?_, bytes_of ?_⟩ <;> decide +kernel

theorem witness_FlashWrites_complete : ∀ op ∈ [FlashOp.erase 3 7, .slot 3 7 [], .fw 3 true []],
    let s := { cmdState (job 3 0x0202 []) with img := { flashOp := some op, pulse := true } }
    s.resetting = false ∧ s.img.flashOp = some op ∧ ∀ l ∈ shadowLines 7 1344, readable s l = true := by decide +kernel

/-- A reference to a bundle at 0x200000, staged at start into window 0. -/
def bundleRef : BundleRef := ⟨[9], 0x1000, 0x200000, true, false, 0⟩

/-- The module running an image with that reference, the bundle resident, and a taken command. -/
def bundleState (j : Job) : State :=
  { cmdState j with img := { running := some { slocalImage with bundles := [bundleRef] }, resident := [([9], 0x200000, 0x1000)] } }

theorem witness_BundleCommands :
    (let j := job 3 0x0205 [0, hostAddr, 4]
     let s := bundleState j
     refOf s 0 = some bundleRef ∧ bundleBusy s = false ∧ newJob s 3 0x0205 = some j ∧ j.arg 0 = 0 ∧ j.malformed 3 = false ∧
       ∃ u, fetchLink s (j.arg 1) (j.arg 2) (some [1, 2, 3, 4]) = (.bytes [1, 2, 3, 4], u)) ∧
    (∀ op ∈ [0x0206, 0x0207],
      let j := job 3 op [0]
      let s := bundleState j
      (windowNo s bundleRef.window).isSome = true ∧ newJob s 3 op = some j ∧ j.arg 0 = 0 ∧ j.malformed 1 = false ∧
        isResident s bundleRef = true) ∧
    let s := bundleState (job 3 0 [])
    bundleRef.atStart = true ∧ tget false s.img.staged 0 = false ∧ s.img.stagings = [] := by
  refine ⟨⟨?_, ?_, ?_, ?_, ?_, bytes_of ?_⟩, ?_, ?_⟩ <;> decide +kernel

/-- A table record of slot 1: sixteen segments, all coefficients zero (Table 9-4). -/
def tableBytes : List Byte := [1, 4] ++ List.replicate (0x840 - 2) 0

theorem witness_TableCommands :
    (let j := job 3 0x0901 [hostAddr, 0x840, 1]
     let s := cmdState j
     newJob s 3 0x0901 = some j ∧ j.malformed 3 = false ∧ j.arg 2 ≤ 1 ∧ j.arg 1 % 0x840 = 0 ∧ 0 < j.arg 1 ∧
       j.arg 1 ≤ 17 * 0x840 ∧ tableRefused s = false ∧ tableSetOk (tableRecs tableBytes) = true ∧ s.coreOn 271 = true ∧
       ∃ u, fetchLink s (j.arg 0) (j.arg 1) (some tableBytes) = (.bytes tableBytes, u)) ∧
    ∀ p ∈ [(0, 0), (1, 1), (1, 2)],
      let j := job 3 0x0902 [p.1, p.2]
      let s := cmdState j
      newJob s 3 0x0902 = some j ∧ j.malformed 2 = false ∧ j.arg 0 = p.1 ∧ j.arg 1 = p.2 ∧ tableRefused s = false ∧
        (∀ k < 272, s.coreOn k = true → emptyNamed s (s.core k).sfu.shadowBank = false) ∧ s.coreOn 271 = true := by
  refine ⟨⟨?_, ?_, ?_, ?_, ?_, ?_, ?_, ?_, ?_, bytes_of ?_⟩, ?_⟩ <;> decide +kernel

theorem witness_ModeChanges : ∀ past ∈ [false, true], ∀ compat ∈ [0, 1, 2],
    let s := { cmdState (job 3 0x0902 [1, 2]) with
      ep := { change := some (.sf 3 true compat, past, 5), pendMode := some true }, now := 1000005
      cores := [(0, { sfu := { shadow := some (true, true) } })] }
    s.ep.change = some (.sf 3 true compat, past, 5) ∧ 5 + 1000000 ≤ s.now ∧ putOff s = false ∧
      s.coreOn 0 = true ∧ (s.core 0).sfu.shadow = some (true, true) := by decide +kernel

/-- Every kind of receiver late. -/
theorem witness_ModeChanges_late : [Receiver.core 271, .bonded 15, .lpddr 0, .slice 127, .palm 127] ≠ [] ∧
    State.reset.inService 3 127 = true ∧ State.reset.engineOn 127 = true := by decide +kernel

theorem witness_ModeChanges_codes : codesOk (cmdState (job 3 0x0902 [1, 2])).flp.cur := reset_codes

/-! ### Witnesses: module commands, security, the Visor -/

theorem witness_ModuleCommands :
    (let j := job 3 0x0D01 [2, 0x1000, 0x1000]
     let s := { cmdState j with img := { running := some (streamImage 7) } }
     newJob s 3 0x0D01 = some j ∧ hostWindow s 2 = some ⟨2, 2, true, false, 7, 0, 0x1000, 0⟩ ∧ j.malformed 3 = false ∧
       j.arg 0 = 2 ∧ j.arg 1 % 4096 = 0 ∧ j.arg 1 < 2 ^ 52 ∧ j.arg 2 ≤ 0x1000 ∧ copyFrom s 2 = false) ∧
    (let j := job 3 0x0F01 [2, 271]
     let s := cmdState j
     newJob s 3 0x0F01 = some j ∧ unitOf (j.arg 0) (j.arg 1) = some (.core 271) ∧ j.malformed 2 = false ∧
       unitFenced s (.core 271) = false ∧ unitBound s (.core 271) = false ∧ s.img.switch = none ∧ s.boot.ready = true ∧
       s.rst.partials = [] ∧ covering s (.core 271) = none) ∧
    newJob (cmdState (job 3 0x0F02 [])) 3 0x0F02 = some (job 3 0x0F02 []) ∧ (job 3 0x0F02 []).malformed 0 = false ∧
    ∀ r ∈ [12, 15],
      let j := job 3 0x0F03 [r, 7]
      newJob (cmdState j) 3 0x0F03 = some j ∧ j.malformed 2 = false ∧ j.arg 0 = r := by decide +kernel

/-- A provisioned module with a taken security command. -/
def secState (j : Job) : State :=
  { cmdState j with sec := { op := { state := 1, signers := [(7, ⟨true, 1, 2, 3⟩)] } } }

/-- Refusals before any signature is looked at: while a flash write runs, from the host, on a module provisioned or not. -/
theorem witness_SecurityCommands_refused :
    (∀ p ∈ [(0x1101, [1]), (0x1102, []), (0x1103, []), (0x1104, []), (0x1105, []), (0x1106, []), (0x1107, []), (0x1108, []),
            (0x1109, [])],
      let j := job 16 p.1 p.2
      let s := { secState j with img := { flashOp := some (.erase 3 7) } }
      newJob s 16 p.1 = some j ∧ secBusy s = true ∧ newJob (cmdState j) 16 p.1 = some j ∧ secBusy (cmdState j) = false ∧
        (cmdState j).sec.op.state = 0 ∧ newJob (secState j) 16 p.1 = some j ∧ secBusy (secState j) = false ∧
        (secState j).sec.op.state ≠ 0) ∧
    (∀ p ∈ [(0x1102, 10, [7, 1]), (0x1103, 1, [6]), (0x1104, 2, [6, 9]), (0x1104, 2, [7, 2]), (0x1104, 2, [0xFF, 1]), (0x1105, 3, [9]),
            (0x1108, 1, [0]), (0x1108, 1, [86401])],
      let j := job 16 p.1 p.2.2
      newJob (secState j) 16 p.1 = some j ∧ j.badAuth p.2.1 = false) ∧
    (job 16 0x1107 [1]).badAuth 0 = true ∧ (signerAt (secState (job 3 0 [])) 7).valid = true ∧
    (signerAt (secState (job 3 0 [])) 7).floor = 3 ∧ (signerAt (secState (job 3 0 [])) 6).valid = false ∧
    (setting 9 0 0).isNone = true ∧ ({ fwA := { security := 0 } } : Img).fw false = { security := 0 } ∧
    (job 16 0x1101 [1]).malformed 8 = false ∧ (job 16 0x1101 [0, 0, 0, 0, 0, 0, 0, 0, 1]).malformed 8 = true ∧
    newJob (cmdState (job 3 0x1101 [1])) 3 0x1101 = some (job 3 0x1101 [1]) := by decide +kernel

theorem witness_SecurityCommands :
    (let j := job 16 0x1101 [1]
     let s := cmdState j
     secBusy s = false ∧ newJob s 16 0x1101 = some j ∧ j.malformed 8 = false ∧ s.sec.op.state = 0) ∧
    (let j := job 3 0x1109 []
     newJob (secState j) 3 0x1109 = some j ∧ j.malformed 0 = false ∧ secBusy (secState j) = false) ∧
    (∀ p ∈ [(0x1102, [6, 1, 0, 0, 0, 2, 0, 0, 0, 5], 10), (0x1103, [7], 1), (0x1104, [7, 3], 2), (0x1105, [1, 3], 3),
            (0x1106, [1, 0, 0, 0, 2], 8), (0x1107, [], 0), (0x1108, [86400], 1)],
      let j := job 3 p.1 p.2.1
      let s := secState j
      secBusy s = false ∧ s.sec.op.state ≠ 0 ∧ newJob s 3 p.1 = some j ∧ j.badAuth p.2.2 = false) ∧
    (signerAt (secState (job 3 0 [])) 6).valid = false ∧ (signerAt (secState (job 3 0 [])) 7).valid = true ∧
    (signerAt (secState (job 3 0 [])) 7).floor = 3 ∧ (setting 1 3 0).isSome = true ∧
    let j := job 3 0x1104 [0xFF, 2]
    let s := { secState j with img := { fwA := { security := 2 } } }
    newJob s 3 0x1104 = some j ∧ j.badAuth 2 = false ∧ j.arg 0 = 0xFF ∧ s.sec.op.fwFloor ≤ j.arg 1 ∧ j.arg 1 < 2 ^ 32 ∧
      j.arg 1 ≤ (s.img.fw s.img.fwRunB).security := by decide +kernel

/-- A Visor session with group 0 of core 0 selected. -/
def visState (x : Group) : State :=
  { ts x with vis := { until_ := some 10 }, hlk := { up := true }, boot := { ready := true } }

theorem visState_open (x : Group) : BarOpen (visState x) := ⟨rfl, rfl, by show 0 < 4096; decide⟩

/-- The state that a step of that group issues in. -/
def stepped (x : Group) : State :=
  let y := { x with stepDone := false }
  let s := visState x
  let v := { s with hlk := { s.hlk with barTicks := recent s s.hlk.barTicks ++ [s.now] } }
  (v.setGrp 0 0 y).setGrp 0 0 { y with st := .running, skipBp := true, stepping := true }

/-- A legal word, one whose operand is on its way, an illegal word, and groups in a wait or at a barrier. -/
theorem witness_VisorStepIssuesOne :
    (∀ x ∈ [({ tg 0 with st := .halted } : Group), { tg 0 with st := .halted, stall := .tokens 0x86 1 },
            { tg 0 with st := .halted, stall := .barrier 1 }],
      let s := visState x
      s.vis.until_.isSome = true ∧ s.vis.core < 272 ∧ s.coreOn s.vis.core = true ∧ class0Core s 0 = false ∧
        (s.grp 0 0).st = .halted) ∧
    (let w := wd 0x01 [(8, 3), (16, 1), (24, 2)]
     let x := { tg w with st := .halted }
     let h := { x with outst := [⟨0, 0xF0000, 2, 1, 4, false, true, 1, [], [], none⟩] }
     Comes (stepped x) 0 0 w ∧ legal w = true ∧ x.hazard (operandsOf ((stepped x).core 0) 0 w) = false ∧ (bodyOf 1).isSome = true ∧
       (∀ f, bodyOf (major w) = some f → ((f (stepped x) 0 0 w .ok).grp 0 0).st = .running) ∧
       Comes (stepped h) 0 0 w ∧ h.hazard (operandsOf ((stepped h).core 0) 0 w) = true) ∧
    let w := wd 0x01 [(8, 3), (16, 1), (24, 2), (63, 1)]
    Comes (stepped { tg w with st := .halted }) 0 0 w ∧ legal w = false := by
  refine ⟨by decide +kernel, ⟨by unfold Comes; decide +kernel, by decide +kernel, by decide +kernel, by decide +kernel, ?_,
    by unfold Comes; decide +kernel, by decide +kernel⟩, by unfold Comes; decide +kernel⟩
  intro f h
  have e : bodyOf 1 = some f := h
  simp only [bodyOf, Option.some.injEq] at e
  subst e
  decide +kernel

theorem witness_VisorCommands :
    (∀ p ∈ [(GState.running, none), (.halted, none), (.running, some (0, 3)), (.trapped, none)],
      let s := visState { tg 0 with st := p.1, req := p.2 }
      s.vis.until_.isSome = true ∧ s.vis.core < 272 ∧ s.coreOn s.vis.core = true ∧ class0Core s 0 = false ∧
        (s.grp 0 0).st = p.1 ∧ (s.grp 0 0).req = p.2) ∧
    (let s := { (ringState 0 [] { state := 1 }) with vis := { until_ := some 10, core := 4 } }
     (recent s s.hlk.barTicks).length < 4096 ∧ s.hlk.up = true ∧
       s.vis.until_.isSome = true ∧ s.coreOn 4 = true ∧ class0Core s 4 = true) ∧
    ∀ v ∈ [0x1F007F, 0x100001F, 0x2000000, 0x3000000],
      fld v 27 24 < 4 ∧ (fld v 27 24 = 0 → fld v 7 0 < 128) ∧ (fld v 27 24 = 1 → fld v 7 0 < 32) := by decide +kernel

/-! ### Witnesses: partial resets and fences -/

/-- A partial reset that began at tick 0, in the module at tick `now`. -/
def resetState (u : UnitRef) (now : Nat) : State :=
  { State.reset with rst := { State.reset.rst with partials := [⟨u, 2, 0, false, none⟩] }, now := now }

theorem witness_UnitResets :
    (∀ u ∈ [UnitRef.core 271, .palm 127, .slice 127, .bonded 15, .lpddr 15, .cluster 67, .partition 3],
      unitFenced State.reset u = false ∧ State.reset.resetting = false ∧ covering State.reset u = none ∧
        unitCode u ∉ State.reset.evt.recovered) ∧
    (let s := { State.reset with evt := { recovered := [unitCode (.bonded 15)] } }
     unitFenced s (.bonded 15) = false ∧ unitCode (.bonded 15) ∈ s.evt.recovered ∧ putOff s = false) ∧
    (∀ p ∈ [(UnitRef.core 271, 20000), (.bonded 15, 200000), (.bonded 15, 200001), (.slice 127, 40000), (.lpddr 15, 200000),
              (.palm 127, 10000), (.cluster 67, 20000), (.partition 3, 20000), (.slice 127, 200000)],
      let s := resetState p.1 p.2
      s.rst.partials.find? (fun q => q.unit == p.1) = some ⟨p.1, 2, 0, false, none⟩ ∧ putOff s = false ∧
        drainLimit p.1 ≤ p.2) ∧
    State.reset.inService 3 127 = true ∧ (State.reset.slice 127).fencing = none ∧
    (let s := resetState (.slice 127) 40000
     homesHeld s 127 = false ∧ (s.engine 127).shares = [] ∧ s.windows = []) ∧
    (let s := (resetState (.slice 127) 200000).setSlice 127 { held := [⟨.group 0 0 0 0, .read, 0, 4, 7⟩] }
     s.hlk.queue = [] ∧ (s.slice 127).miss = [] ∧ (s.slice 127).inq ++ (s.slice 127).held = [⟨.group 0 0 0 0, .read, 0, 4, 7⟩]) ∧
    let s := { State.reset with rst := { partials := [⟨.slice 127, 2, 0, false, none⟩, ⟨.bonded 0, 2, 0, false, none⟩] } }
    homesHeld (s.setEngine 127 { shares := [share] }) 127 = true := by decide +kernel

theorem witness_UnitResets_codes : codesOk State.reset.flp.cur := reset_codes

theorem witness_FencedUnitsStayFenced : ∀ p ∈ [(1, 67), (2, 271), (3, 127), (4, 15), (5, 0)],
    let s := { State.reset with flp := { cur := FloorPlan.put {} p.1 p.2 3 } }
    s.unitState p.1 p.2 = 3 ∧ movesTo p.1 3 1 ≤ 3 ∧ State.reset.unitState p.1 p.2 < movesTo p.1 0 3 ∧
      putOff State.reset = false ∧ putOff { State.reset with img := { switch := some ⟨3, 7, some 0, false, false, .quiesce, none⟩ } } = true ∧
      movesTo 3 1 2 = 3 ∧ movesTo 3 2 1 = 3 := by decide +kernel

/-! ### Witnesses: control space, the command page, the link -/

/-- The link up on a ready module. -/
def linkState (h : Hlk) : State := { State.reset with boot := { ready := true }, hlk := { h with up := true }, now := 100000 }

theorem witness_ControlSpace :
    let s := linkState { barTicks := List.replicate 3 1, cfgTicks := List.replicate 63 1 }
    s.hlk.up = true ∧ hostOpen s = true ∧ (recent s s.hlk.barTicks).length < 4096 ∧ s.boot.ready = true ∧
    (recent s s.hlk.cfgTicks).length < 64 ∧
    (∀ off ∈ [(0 : Nat), 0x7FFFFC, 0x900000], w1cWrite { s with hlk := s.hlk } off 0xFFFFFFFF = none ∧ (off < 0x800000 ∨ 0x900000 ≤ off)) ∧
    { s with vis := { until_ := some 10 } }.vis.until_.isSome = true := by decide +kernel

theorem witness_ControlSpace_early : let s := { linkState {} with boot := {} }
    s.hlk.up = true ∧ hostOpen s = false := by decide +kernel

theorem witness_HostWriteLimits : ∀ n ∈ [63, 64],
    let s := linkState { cfgTicks := List.replicate n 1 }
    let f := linkState { barTicks := List.replicate 4096 1 }
    s.hlk.up = true ∧ hostOpen s = true ∧ s.boot.ready = true ∧
    (s.hlk.cfgTicks.filter fun t => decide (s.now < t + 100000)).length = n ∧
    (s.hlk.barTicks.filter fun t => decide (s.now < t + 100000)).length < 4096 ∧
    hostOpen f = true ∧ 4096 ≤ (f.hlk.barTicks.filter fun t => decide (f.now < t + 100000)).length := by decide +kernel

theorem witness_CommandPage :
    (let s := linkState { entries := [(0, { state := 1, body := [1, 2] }), (31, { state := 1 }), (16, { state := 1 }), (15, { state := 1 }),
                                      (14, { state := 1, taken := true }), (13, { state := 1 })] }
     s.boot.ready = true ∧ stopped s = false ∧ (postedEntries s).take 4 = [16, 31, 0, 13]) ∧
    ∀ p ∈ [(0, 8), (0, 255), (2, 8), (2, 255)],
      let s := linkState { entries := [(15, { state := p.1 })] }
      s.hlk.up = true ∧ hostOpen s = true ∧ (recent s s.hlk.barTicks).length < 4096 ∧ (s.entry 15).state = p.1 ∧ 8 ≤ p.2 := by
  decide +kernel

/-- An image with a device window of each permission, at 0x10000 and 0x20000, and the ring of stream 0 in the second. -/
def hdmImage : Image :=
  { streamImage 7 with
    streams := [{ str 7 with ringBase := 0x20000, resultBase := 0x21000 }]
    hostWins := [⟨1, 0, true, false, 7, 0x10000, 0x10000, 0x10000⟩, ⟨1, 1, true, true, 7, 0x20000, 0x10000, 0x20000⟩] }

/-- That image running on a ready module with the link up, and the status word of slot 0. -/
def hdmState (w : Nat) : State :=
  { linkState {} with img := { running := some hdmImage, bind := [(0, 1)] }, mem := mwrite [] 0x20000 (leBytes 8 w) }

theorem witness_HostMemoryAccesses_read :
    let s := hdmState 0
    s.hlk.up = true ∧ hostOpen s = true ∧ lines64 0x10000 1 = [0x400] ∧ lines64 0x1003F 1 = [0x400] ∧ lines64 0 1 = [0] ∧
    s.hlk.queue = [] ∧ (hostMay s (.read 0x10000 1)).1 = true ∧
    (∃ w b, hdmLine s false 0x400 = some w ∧ (devRead s false w.1.cls w.2 64).1.toOption = some b) ∧
    hdmLine s false 0 = none := by
  refine ⟨by decide +kernel, by decide +kernel, by decide +kernel, by decide +kernel, by decide +kernel, rfl,
    by decide +kernel, ⟨(⟨1, 0, true, false, 7, 0x10000, 0x10000, 0x10000⟩, 0x10000), List.replicate 64 0, by decide +kernel, by decide +kernel⟩,
    by decide +kernel⟩

theorem witness_HostMemoryAccesses_write :
    let s := hdmState 0
    let u := settleSlots s [(0, 0)]
    let v := settleSlots (hdmState 2) [(0, 0)]
    hdmLine s true 0x400 = none ∧ lines64 0x20000 8 = [0x800] ∧ (hdmLine s true 0x800).map (·.2) = some 0x20000 ∧
    (hostMay s (.write 0x20000 (leBytes 8 1))).1 = true ∧ (hostMay s (.write 0x28000 [1])).1 = true ∧
    (resolve s false 0x20000).toOption.isSome = true ∧ (resolve s false 0x20008).toOption.isSome = true ∧
    (resolve s false 0x28000).toOption.isSome = true ∧ (hdmLine s true 0xA00).map (·.2) = some 0x28000 ∧
    (∀ i < 256, partAt s (0x28000 + i) = none) ∧
    (∀ i < 8, partAt s (0x20000 + i) = some (0, 0, .status)) ∧ heldStatus u 0 0 = 0 ∧
    leftStatus u 0 0 ((List.range 8).map fun i => (0x20000 + i, (leBytes 8 1).getD i 0)) = 1 ∧
    (∀ i < 8, partAt s (0x20008 + i) = some (0, 0, .body)) ∧ heldStatus v 0 0 % 16 ≠ 0 := by decide +kernel

/-- Before the module is ready, and on a provisioned module whose IDE streams have failed. -/
theorem witness_HostMemoryAccesses_closed :
    (let s := { linkState {} with boot := {} }
     s.hlk.up = true ∧ hostOpen s = false ∧ s.hlk.queue = [] ∧ s.boot.ready = false) ∧
    let s := { linkState { ide := 3 } with sec := { op := { state := 1 } } }
    s.hlk.up = true ∧ hostOpen s = false ∧ s.hlk.queue = [] ∧ s.boot.ready = true := by decide +kernel

/-- An answer with data whose write may go on, and one that a slice's Cuff holds. -/
theorem witness_LinkAndBackInvalidations_data : ∃ off, ∀ ps ∈ [[], (List.range 128).map fun k => (⟨.slice (Fin.ofNat 128 k), 2, 0, false, none⟩ : Partial)],
    let s := { hdmState 0 with rst := { partials := ps } }
    let b := { s with hlk := { s.hlk with biOut := [(true, 0x800, 0)], dir := [0x800] } }
    takeFirst (fun x => x.2.1 == 0x800) b.hlk.biOut = some ((true, 0x800, 0), []) ∧ hdmOf b (64 * 0x800) = some off ∧
      b.hlk.up = true ∧ (hostMay b (.write off (slice [1] 0 64))).1 = ps.isEmpty := ⟨0x20000, by decide +kernel⟩

theorem witness_LinkAndBackInvalidations :
    (let s := linkState { width := 16 }
     s.hlk.up = true ∧ s.sec.hotPolicy = false ∧ 0 < min s.hlk.width (lanesLeft (setBit s.hlk.lanesDown 15))) ∧
    (let s := { State.reset with boot := { cur := { steps := [(11, { outcome := 2 })] } }, pins := { pwrGood := true } }
     s.hlk.up = false ∧ linkLit s = true ∧ 0 < min 4 (min (lanesLeft s.hlk.lanesDown) (limitLanes s.boot.linkLimit))) ∧
    (let s := linkState { entries := [(15, { state := 1 })] }
     (s.entry 15).state = 1 ∧ (s.entry 15).taken = false) ∧
    let s := { linkState { biOut := [(true, 5, 0), (false, 7, 1), (false, 7, 2)] } with now := 4001 }
    takeFirst (fun b => b.2.1 == 7) s.hlk.biOut = some ((false, 7, 1), [(true, 5, 0), (false, 7, 2)]) ∧ 1 + 4000 ≤ s.now ∧
      (hdmOf (hdmState 0) (64 * 0x800)).isSome = true := by
  decide +kernel

/-- An established session of a transport. -/
def sessState (p : Port) : State :=
  { linkState { mgmtUp := true, mgmtLit := true } with
    sec := { sessions := [⟨p, 7, true, 0, 0, 0⟩, ⟨p, 8, false, 0, 0, 0⟩], nextSession := 9, rngOk := true }
    boot := { ready := true, cur := { steps := [(2, { outcome := 2 }), (9, { outcome := 2 })] } }, pins := { pwrGood := true } }

theorem witness_IdeKeys :
    let k : IdeStream := ⟨.io, 0, true, false⟩
    let s := { sessState .doe with hlk := { up := true, keys := [⟨k, [], true⟩] } }
    sessionAt s .doe 7 = some ⟨.doe, 7, true, 0, 0, 0⟩ ∧ allZero ([1] : List Byte) = false ∧ (∃ y ∈ s.hlk.keys, y.ide = k) ∧
    ∃ y ∈ s.hlk.keys, y.active = true := by decide +kernel

theorem witness_ManagementPortAndDoe :
    let s := sessState .mgmt
    mgmtOpen s = true ∧ arrivals s < 2000 ∧ (sessionAt s .mgmt 7).isSome = true ∧ (s.entry 31).state = 0 ∧
    (0 : BitVec 32).toNat = s.sec.ipv4 ∧ (0 : BitVec 128).toNat = s.sec.ipv6 ∧
    s.hlk.mgmtLit = true ∧ s.pins.pwrGood = true ∧ s.pwr.off = false ∧
    s.hlk.up = true ∧ s.resetting = false ∧ s.boot.ready = true ∧ headerOk [1] = false ∧
    (let b := leBytes 4 0x504D5643 ++ [1, 3] ++ leBytes 2 0 ++ List.replicate 8 0
     headerOk b = true ∧ rd b 5 1 = 3) := by decide +kernel

theorem witness_SpdmMessages : ∀ p ∈ [Port.mgmt, .doe],
    let s := sessState p
    arrives s p ∧ rngRefuses s = false ∧
    (let x := beBytes 32 p256g.1 ++ beBytes 32 p256g.2
     onCurve (beNat (slice x 0 32), beNat (slice x 32 32)) = true) ∧
    sessionsOn s p < 4 ∧ 4 ≤ sessionsOn { s with sec := { sessions := List.replicate 4 ⟨p, 7, true, 0, 0, 0⟩ } } p ∧
    (∃ x ∈ s.sec.sessions, x.port = p ∧ x.id = 8 ∧ x.established = false) ∧ (sessionAt s p 7).isSome = true ∧
    let u := { s with now := 180000000000 }
    u.sec.sessions.find? (fun x => x.port == p && x.id == 7) = some ⟨p, 7, true, 0, 0, 0⟩ ∧ 0 + 180000000000 ≤ u.now := by
  intro p hp
  simp only [List.mem_cons, List.not_mem_nil, or_false] at hp
  rcases hp with rfl | rfl
  · exact ⟨by unfold arrives; decide +kernel, by decide +kernel⟩
  · exact ⟨by unfold arrives; decide +kernel, by decide +kernel⟩

/-! ### Witnesses: boot, resets, power -/

/-- A distribution that waits for two receivers to answer the close of its round. -/
def fwdRun (round : Nat) (ws : List Receiver) : FwdRun :=
  { env := env, more := [], fencedAt := 0, round := round, closeAt := 5, waiting := ws, short := [(.core 0, [0])] }

theorem witness_BootCommands :
    State.reset.pins.pwrGood = false ∧ State.reset.rst.pinLow = false ∧
    { State.reset with rst := { pinLow := true } }.rst.pinLow = true ∧
    (∀ skip ∈ [true, false],
      let s := { State.reset with boot := { imageSkip := skip, cur := { steps := [(10, { outcome := 2 }), (14, { outcome := 1 })] } } }
      imageReady s = true ∧ s.boot.imageSkip = skip) ∧
    let s := { State.reset with boot := { cur := { steps := [(1, { outcome := 1, start := 5 })] } }, now := 10000005, pins := { pwrGood := true } }
    runningStep s.boot.cur = some 1 ∧ s.boot.ready = false ∧ s.boot.terminal = false ∧ canReset s = true ∧
      armedAt s.boot.cur 1 + stepLimit 1 ≤ s.now := by decide +kernel

/-- A module that has tripped, its input gone or not. -/
theorem witness_BootCommands_tripped : ∀ gone ∈ [true, false],
    let s := { State.reset with pwr := { State.reset.pwr with off := true, inputGone := gone } }
    s.pwr.off = true ∧ s.pwr.inputGone = gone ∧ s.rst.pinLow = false := by decide +kernel

theorem witness_BootCommands_answers : ∀ round ∈ [0, 3], ∀ ws ∈ [[Receiver.core 0], [.core 0, .palm 127]],
    let x := fwdRun round ws
    let s := { State.reset with boot := { fwd := some x }, now := 20005 }
    s.boot.fwd = some x ∧ .core 0 ∈ x.waiting ∧ s.resetting = false ∧ x.closeAt + 20000 ≤ s.now ∧ x.round = round ∧
      x.waiting.filter (· != .core 0) = ws.tail := by decide +kernel

theorem witness_WarmResets :
    (let s := { State.reset with pins := { pwrGood := true }, boot := { ready := true }, evt := { fatalAt := some 5 }, now := 10000005 }
     canReset s = true ∧ s.evt.fatalAt = some 5 ∧ s.evt.lockstep = false ∧ 5 + 10000000 ≤ s.now ∧ s.boot.ready = true) ∧
    (let s := { State.reset with rst := { phase := .crownWait, since := 5 }, now := 1000005, img := { pulse := true } }
     s.rst.phase = .crownWait ∧ s.rst.since + 1000000 ≤ s.now ∧ s.img.pulse = true) ∧
    (let s := { State.reset with rst := { phase := .pulseWait, pinLow := true } }
     s.rst.phase = .pulseWait ∧ s.rst.pinLow = true) ∧
    let s := { State.reset with rst := { phase := .held, cause := 2 }, pins := { pwrGood := true } }
    s.rst.phase = .held ∧ s.pins.pwrGood = true ∧ s.pwr.off = false ∧ s.rst.cause ≠ 1 := by decide +kernel

theorem witness_PowerAndRegions :
    let s := State.reset
    s.pwr.off = false ∧ (∀ k : Fin 2, s.pwr.bcvOk.testBit k = true) ∧ 0 < s.pwr.vcachePhases ∧ 0 < s.pwr.vcmpPhases ∧
    (s.region 67).phasesOk = 0xF ∧ putOff s = false ∧ s.unitState 1 67 = 0 ∧
    (let s := { s with now := 150005 }.setRegion 67 { waiting := true, since := 5 }
     nextRegion s = some 67 ∧ 100 * (1037 + 8) ≤ 95 * (availAmps s).1 ∧ 95 * (availAmps s).1 < 100 * (1038 + 8) ∧
       (s.region 67).since + 150000 ≤ s.now) ∧
    ((s.setRegion 67 { closing := true }).region 67).closing = true := by decide +kernel

/-- A cluster with three phases, its cores in service, loses another. -/
theorem witness_PowerAndRegions_second :
    let s := State.reset.setRegion 67 { phasesOk := 0xE }
    s.pwr.off = false ∧ putOff s = false ∧ (s.region 67).phasesOk ≠ 0xF ∧ bit (s.region 67).phasesOk 3 = true ∧
      s.inService 1 67 = true ∧ ∃ k ∈ coresOf 67, s.inService 2 k = true := by decide +kernel

/-- A module that runs stream 0 of class 7 or 0 on cluster 1, its clusters at these levels, diode 1 at this reading. -/
def thermState (cls level temp : Nat) (fails : Bool) : State :=
  { ringState cls [] { state := 1, cls := cls } with
    pins := { pwrGood := true }
    thm := { diodes := (List.range 24).map fun d => (d, { failed := fails, temp := temp }), level := (List.range 68).map fun c => (c, level) } }

/-- Readings of diode 0 in each range of Table 16-8, with every cluster at 0 or at 4; the highest that does not trip. -/
theorem witness_ThrottleLevels : ∀ cls ∈ [0, 7], ∀ level ∈ [0, 4], ∀ n ∈ [0xFD80, 1392, 1440, 1472, 1520, 1600, 1679],
    let s := thermState cls level 0 false
    let v := BitVec.ofNat 16 n
    s.pins.pwrGood = true ∧ -640 ≤ v.toInt ∧ v.toInt < 1680 ∧ s.pwr.capSince = none ∧ servedBy 0 ≠ [] ∧
      s.level 1 = level ∧ ((lowClusters s 0).contains 1 || (highClusters s 0).contains 1) = true := by decide +kernel

/-- The last serving diode fails; readings outside the ranges; power above the cap, for 1 ms, and at 95 % of it. -/
theorem witness_ThrottleLevels_limits :
    (let s := thermState 7 0 0 true
     ∃ p ∈ servedBy 0, ∀ k ∈ servingDiodes p, k ≠ 0 → (s.diode k).failed = true) ∧
    ((0xFD7F : BitVec 16).toInt < -640 ∧ 2400 < (0x961 : BitVec 16).toInt ∧ (0xFE1F : BitVec 16).toInt < -480) ∧
    let s := { thermState 0 4 0 false with pwr := { capSince := some 0 }, now := 1000000 }
    s.img.running = some (streamImage 0) ∧ (streamImage 0).envelope.powerCap = 600 ∧
      (allLow s).all (fun c => s.level c == 4) = true ∧ 600 < (601 : BitVec 16).toNat ∧ 100 * (570 : BitVec 16).toNat ≤ 95 * 600 := by
  decide +kernel

theorem witness_SensorReadings :
    (let s := { State.reset with pins := { pwrGood := true }, sec := { rngOk := true }, img := { running := some (streamImage 7) } }
     s.pins.pwrGood = true ∧ s.pwr.off = false ∧ s.sec.rngOk = true ∧ s.img.running = some (streamImage 7) ∧
       (0xF9F : BitVec 16).toNat < 10 * (streamImage 7).envelope.inputMin) ∧
    ([0xFD80, 0x68F].all fun n => let v := BitVec.ofNat 16 n; decide (-640 ≤ v.toInt) && decide (v.toInt < 1680)) = true ∧
    ([0x690, 0x960].all fun n => let v := BitVec.ofNat 16 n; decide (1680 ≤ v.toInt) && decide (v.toInt ≤ 2400)) = true ∧
    ([0xFE20, 0x960].all fun n => let v := BitVec.ofNat 16 n; decide (-480 ≤ v.toInt) && decide (v.toInt ≤ 2400)) = true := by
  decide +kernel

theorem witness_VisorCommands_expiry :
    let s := { State.reset with vis := { until_ := some 10 }, now := 10 }
    s.vis.until_ = some 10 ∧ 10 ≤ s.now ∧ ∀ c g, (s.grp c g).st ≠ .trapped :=
  ⟨rfl, by decide, fun c g => by show GState.idle ≠ .trapped; decide⟩

/-- A trapped group of a request's block. -/
theorem witness_VisorCommands_held :
    let x : Group := { tg 0 with st := .trapped, trapCode := 8, req := some (0, 3) }
    let s := { ringState 7 [] { state := 1, reqs := [⟨3, 0, 0, 0, true, none, some 0, 0, none⟩] } with
      cores := [(4, { hold := true, groups := [(0, x)] })], vis := { until_ := some 10, core := 4 } }
    s.vis.until_ = some 10 ∧ 10 ≤ s.now ∧ s.coreOn 4 = true ∧ class0Core s 4 = false ∧ (s.grp 4 0).st = .trapped ∧
      liveReq s (s.grp 4 0) = some (0, 3) ∧ 0 ∈ (s.grp 4 0).slots ∧ holdingTrap s 4 0 = some x ∧
      (s.cores.all fun c => c.1 == 4 && c.2.groups.all fun g => g.1 == 0) = true := by decide +kernel

/-! ### Witnesses: the event log and reads of control space -/

/-- No record of the link open, one about to be too old, and one that still coalesces. -/
theorem witness_EventLog :
    let s := fun (o : List (Nat × Nat × Nat × Nat × Nat)) => { linkState {} with sec := { rngOk := true }, evt := { opened := o }, now := 1000000 }
    let hit := fun (l : List (Nat × Nat × Nat × Nat × Nat)) =>
      (s l).evt.opened.find? fun o => o.1 == 0xA && o.2.1 == 0 && o.2.2.1 == 0 && decide ((s l).now < o.2.2.2.2 + 1000000)
    (s []).sec.rngOk = true ∧ (s []).hlk.up = true ∧ hit [] = none ∧ hit [(0xA, 0, 0, 5, 0)] = none ∧
      hit [(0xA, 0, 0, 5, 1)] = some (0xA, 0, 0, 5, 1) := by decide +kernel

theorem witness_ControlSpaceReads :
    let s := sessState .mgmt
    mgmtOpen s = true ∧ arrivals s < 2000 ∧ (sessionAt s .mgmt 7).isSome = true := by decide +kernel

/-! ### The spec's worked examples -/

/-- 8.11: IADD u5, u5, 64. -/
theorem test_iadd :
    let x := ran .iadd ((tg 0x0000100040858501).setU 5 1)
    x.getU 5 = 65 ∧ x.pc = 0xF0008 := by decide +kernel

/-- 8.11: FFMA v8, v1, v18, v27 with 2.0, 3.0 and 1.0 in lane 31. -/
theorem test_ffma :
    (ran .ffma ((((tg 0x0000001B12010823).setV 1 31 0x40000000).setV 18 31 0x40400000).setV 27 31 0x3F800000)).getV 8 31 =
      0x40E00000 := by decide +kernel

/-- 8.11: the FFMA with its imm bit set is illegal: trap 0x01 with detail 0x23, v8 as it was. -/
theorem test_ffma_illegal :
    let s := after (exec (.ffma 0 0 .ok) ((ts ((tg 0x0000101B12010823).setV 8 0 7)).updCore 0 fun c => { c with hold := true }))
    (s.grp 0 0).trapCode = 1 ∧ (s.grp 0 0).trapDetail = 0x23 ∧ (s.grp 0 0).pc = 0xF0000 ∧ (s.grp 0 0).getV 8 0 = 7 := by
  decide +kernel

/-- 8.11: WAIT u6, {token 0} with a descriptor error. -/
theorem test_wait_error :
    let x := ran .wait ((tg 0x18663).setToken 0 { err := true, why := 9 })
    x.getU 6 = 0x110 ∧ x.token 0 = {} ∧ x.pend = some (0, 9) ∧ x.pc = 0xF0008 := by decide +kernel

/-- 8.11: the instruction after that WAIT does not issue; the group takes trap 0x03 with detail 0. -/
theorem test_error_after_wait :
    let s := after (exec (.bra 0 0 .ok) ((ts { tg bra with pend := some (0, 9) }).updCore 0 fun c => { c with hold := true }))
    (s.grp 0 0).trapCode = 3 ∧ (s.grp 0 0).trapDetail = 0 ∧ (s.grp 0 0).st = .trapped ∧ (s.grp 0 0).stack = [] := by
  decide +kernel

/-- 8.11: BRA v9, 0xF_0180, rpc 0xF_01C0, taken by lane 3 alone. -/
theorem test_bra :
    let x := ran .bra ((tg bra).setV 9 3 7)
    x.pc = 0xF0008 ∧ x.mask = 0xFFFFFFF7 ∧ x.stop = some 0xF01C0 ∧
      x.stack = [⟨0xF0180, 8, some 0xF01C0⟩, ⟨0xF01C0, 0xFFFFFFFF, none⟩] := by decide +kernel

/-- 8.11: MX.ISSUE [u2 + 0x200] reads the 64 bytes at u2 + 0x200. -/
theorem test_mx_issue_address : descAddr ((tg 0).setU 2 0x1000) 0x0000000002008260 = 0x1200 := by decide +kernel

/-- The operand rows of the example of 4.7. -/
def rowA : OpRow := ⟨8, [0x0E, 0x04] ++ List.replicate 30 0 ++ [0x1F] ++ List.replicate 31 0, [125, 120], 125, false⟩
/-- Its activations. -/
def rowB : OpRow := ⟨6, [0xC5, 0x12] ++ List.replicate 30 0 ++ [0x7E] ++ List.replicate 31 0, [130, 131], 131, false⟩

/-- 4.7: accumulator, FP32 and BF16 results, and the MXFP8 write-back. -/
theorem test_dot :
    let a := dotRow {} rowA rowB
    let w := windowExp 8 6 (anchorOf 125 131)
    a.v = 0x616450000000 ∧ a.flags = 0 ∧ w = -36 ∧ roundOut 0 (a.value w) = (0x44C2C8A0, 0) ∧
      roundOut 1 (a.value w) = (0x44C3, 0) ∧ (mxBlock 6 [a.value w]).1 = 0x81 ∧ (mxBlock 6 [a.value w]).2.1.head? = some 0x7C := by
  decide +kernel

/-- 7.4: the FP32 atomic add of lanes 0, 1, 2 and 5 to 16,777,216.0. -/
theorem test_atomic_fadd :
    atomLanes .fadd 32 0x4B800000 [(0, 0x3F800000, 0), (1, 0x3F800000, 0), (2, 0x40000000, 0), (5, 0x40400000, 0)] =
      (0x4B800002, [(0, 0x4B800000), (1, 0x4B800000), (2, 0x4B800000), (5, 0x4B800001)]) := by decide +kernel

/-- 9.3: slot 3 at 2.875, native and in compatibility mode. -/
theorem test_loadable :
    let t : TblRec := { q := 1, coef := (List.replicate 5 (0, 0)) ++ [(0x40000001, 0x3F800001)] ++ List.replicate 10 (0, 0) }
    (loadable false t 0x40380000).1 = 0x40300001 ∧ (loadable true t 0x40380000).1 = 0x40300002 := by decide +kernel

/-- 9.6: ops 0x1 and 0x3 over a row of 2¹²⁷, here of 8 elements: the sum overflows, mean and deviation do not. -/
theorem test_rowstat :
    let xs := List.replicate 8 (0x7F000000 : Word)
    rowStat 1 xs 0 = (0x7F800000, 0, flOf) ∧ rowStat 3 xs 0 = (0x7F000000, 0, 0) := by decide +kernel

/-- 12.1 and 11.1: the line at 0x12_3456_7800. -/
theorem test_place :
    place 0x1234567800 = .lpddr 1 0x23456800 ∧ pageOf 0x1234567800 = (1, 0x468AD, 0x468ACF) ∧ pageDev 1 0x468AD = 0x468ACF ∧
      bucket (0x1234567800 / 256) = 8 ∧ 0x1234567800 / 256 % 4096 = 0x678 := by decide +kernel

/-- Homes of 11.1 with S009 and S040 fenced, as far as S008 is concerned: it holds buckets 8, 70, 132 and 194 of H0. -/
def twoFenced : State :=
  { State.reset with
    flp := { cur := { slice := [(9, 3), (40, 3)] } }
    homes := [(70, 8), (132, 8), (194, 8)].foldl (fun t e => setHome t 0 e.1 e.2)
      ([(72, 10), (136, 12), (200, 14)].foldl (fun t e => setHome t 0 e.1 e.2) []) }

/-- 11.6: the buckets of S008 are dealt to S010, S011, S012 and S013. -/
theorem test_slice_fence :
    let t := after (exec (.sliceFence 8) (twoFenced.setSlice 8 { fencing := some (2, 141) }))
    [8, 70, 132, 194].map (homeEntry t 0) = [10, 11, 12, 13] ∧ t.unitState 3 8 = 3 := by decide +kernel

/-- 1.2: core 141's registers, and its place in the block of C35. -/
theorem test_core_block : coreAt 0x1814000 = some (141, 0) ∧ coreAt 0x1817FFC = some (141, 0x3FFC) := by decide +kernel

/-- 1.7: S077 falls to half width with the record at generation 2. -/
theorem test_delta :
    let t := floorChange { State.reset with flp := { cur := { generation := 2 } } } 3 77 1 2 37 true
    t.flp.cur.generation = 4 ∧ t.flp.cur.sliceSet = 2 ^ 77 ∧
      tget {} t.flp.deltas 0 = { generation := 4, unitType := 3, unitId := 77, old := 0, new := 1, reason := 2, detail := 37 } := by
  decide +kernel

/-- 18.3: the record of the second change of S077. -/
theorem test_event_record :
    let b := evBytes { cls := 3, source := 1, code := 2, unitType := 3, unitId := 77, reason := 8, fault := true, detail := 141 }
    slice b 4 4 = [3, 1, 2, 0] ∧ slice b 0x10 6 = [3, 0, 0x4D, 0, 8, 1] ∧ b.length = 32 := by decide +kernel

/-- 13.4: the status words of slot 5. -/
theorem test_status_words :
    statusWord 2 0 0 32050 = 0x000007D320000002 ∧ statusWord 4 0 18 400000 = 0x000061A800012004 ∧
      statusWord 5 0 48 938412 = 0x0000E51AC0030005 := by decide +kernel

/-- 19.4: 38.0 °C at the inlet under inlet_max 40.0 °C. -/
theorem test_thermistor :
    let t := after (exec (.thermistorSample 0 (some 0x260))
      { State.reset with pins := { pwrGood := true }, img := { running := some { envelope := ⟨400, 150, 400, 0⟩ } } })
    (tget {} t.thm.ntcs 0).temp = 0x260 ∧ t.pwr.envInlet = false := by decide +kernel

/-- 19.4: a broken lead. -/
theorem test_thermistor_lost :
    (after (exec (.thermistorSample 0 none) { State.reset with pins := { pwrGood := true } })).pwr.inletLost = true := by
  decide +kernel

/-- R218: the canonical bonded memory takes a written byte, and gives up one that is zero again. -/
theorem test_memory_form : mwrite [] 5 [1, 0, 2] = [(5, 1), (7, 2)] ∧ mwrite [(5, 1), (7, 2)] 5 [0] = [(7, 2)] := by decide

/-- R281: a posted entry of an unknown opcode is refused with status 0x0001 at the poll. -/
theorem test_unknown_opcode :
    let t := after (exec .commandPagePoll (linkState { entries := [(0, { state := 1, body := [0xFF, 0xFF] })] }))
    (t.entry 0).state = 4 ∧ (t.entry 0).status = 1 := by decide +kernel

/-- R317: a core's reset clears the core and leaves local memory zero. -/
theorem test_core_reset :
    let s := (resetState (.core 5) 10).setCore 5 { lm := [(0, 1)], groups := [(0, tg 0)] }
    let t := after (exec (.partialResetComplete (.core 5)) s)
    (t.core 5).groups = [] ∧ (t.core 5).lm = [] ∧ t.rst.partials = [] := by decide +kernel

end Sys2Proof.Tests
end

section
/-! Refusals of the command page (R280), and the three checks of PROFILE_SWITCH (R36, O35). -/

namespace Sys2Proof.Machine

/-! ### A refused command (R280) -/

theorem newJob_entry {s : State} {entry opcode : Nat} {j : Job} (h : newJob s entry opcode = some j) :
    j.entry = entry := by
  obtain ⟨-, hmatch⟩ := Option.filter_eq_some_iff.mp h
  have hboth : j.entry = entry ∧ j.opcode = opcode := by simpa using hmatch
  exact hboth.1

@[simp] theorem dropJob_entry (s : State) (entry n : Nat) : (dropJob s entry).entry n = s.entry n := rfl

@[simp] theorem authErr_hlk (s : State) (opcode status : Nat) : (authErr s opcode status).hlk = s.hlk := by
  unfold authErr; split <;> rfl
@[simp] theorem authErr_img (s : State) (opcode status : Nat) : (authErr s opcode status).img = s.img := by
  unfold authErr; split <;> rfl
@[simp] theorem authErr_fit (s : State) (opcode status : Nat) : (authErr s opcode status).fit = s.fit := by
  unfold authErr; split <;> rfl
@[simp] theorem authErr_streams (s : State) (opcode status : Nat) : (authErr s opcode status).streams = s.streams := by
  unfold authErr; split <;> rfl
@[simp] theorem authErr_ep (s : State) (opcode status : Nat) : (authErr s opcode status).ep = s.ep := by
  unfold authErr; split <;> rfl

@[simp] theorem refuseCmd_img (s : State) (j : Job) (status : Nat) : (refuseCmd s j status).img = s.img := by
  simp [refuseCmd, dropJob, writeEntry]
@[simp] theorem refuseCmd_fit (s : State) (j : Job) (status : Nat) : (refuseCmd s j status).fit = s.fit := by
  simp [refuseCmd, dropJob, writeEntry]
@[simp] theorem refuseCmd_streams (s : State) (j : Job) (status : Nat) : (refuseCmd s j status).streams = s.streams := by
  simp [refuseCmd, dropJob, writeEntry]
@[simp] theorem refuseCmd_ep (s : State) (j : Job) (status : Nat) : (refuseCmd s j status).ep = s.ep := by
  simp [refuseCmd, dropJob, writeEntry]

/-- R280: the entry of a refused command reads refused, with its status. -/
theorem refuseCmd_entryIs (s : State) (j : Job) (status : Nat) : EntryIs (refuseCmd s j status) j.entry 4 status := by
  have hentry : (refuseCmd s j status).entry j.entry = (writeEntry s j.entry 4 status).entry j.entry := by
    simp [refuseCmd, State.entry, dropJob]
  simp [EntryIs, hentry, writeEntry]

/-! ### What PROFILE_SWITCH checks (R36, R369, Table 14-5) -/

theorem slotWriting_iff (s : State) : slotWriting s = true ↔ ∃ k n b, s.img.flashOp = some (.slot k n b) := by
  unfold slotWriting
  split
  next k n b hop => simp [hop]
  next hop => simpa using hop

theorem switchBusy_iff (s : State) : switchBusy s = true ↔
    s.img.switch.isSome = true ∨ (∃ k n b, s.img.flashOp = some (.slot k n b)) ∨ s.boot.ready = false ∨
      s.ep.change.isSome = true := by
  simp [switchBusy, ← slotWriting_iff, or_assoc]

theorem slotValid_eq_false_iff (s : State) (n : Nat) :
    slotValid s n = false ↔ (s.fslot n).state ≠ 2 ∨ bit s.boot.slotSkip n = true := by
  simp only [slotValid, Bool.and_eq_false_iff, beq_eq_false_iff_ne, Bool.not_eq_false']

section Checks

variable {s : State} {e : Fin 32} {j : Job} (hj : newJob s e 0x0201 = some j)
  (hform : ¬ (j.malformed 2 = true ∨ 7 < j.arg 0 ∨ 1 < j.arg 1))
include hj hform

/-- R36's first check: a switch by command is not enabled while an image runs. -/
theorem execProfileSwitch_notEnabled (hoff : s.img.running.isSome = true ∧ s.img.cmdEn = false) :
    execProfileSwitch e s = .next (refuseCmd s j 0xF) := by
  simp [execProfileSwitch, hj, hform, hoff]

/-- R36's second check: the command would meet another switch, a slot write, an image load or a mode change. -/
theorem execProfileSwitch_busy (hon : ¬ (s.img.running.isSome = true ∧ s.img.cmdEn = false))
    (hbusy : switchBusy s = true) : execProfileSwitch e s = .next (refuseCmd s j 3) := by
  simp [execProfileSwitch, hj, hform, hon, hbusy]

/-- R36's third check: the target slot is not one that the switch can take. -/
theorem execProfileSwitch_slotInvalid (hon : ¬ (s.img.running.isSome = true ∧ s.img.cmdEn = false))
    (hidle : switchBusy s = false) (hslot : slotValid s (j.arg 0) = false) :
    execProfileSwitch e s = .next (refuseCmd s j 5) := by
  simp [execProfileSwitch, hj, hform, hon, hidle, hslot]

end Checks

/-- Settles O35: each check, where those before it pass, refuses the command, and a refusal writes nothing but the command's
entry, its job and SEC_AUTH_ERR. -/
theorem profileSwitchRefusals : Obligations.ProfileSwitchRefusals := by
  intro s e j hj hbody hslot hmode refused off busy
  have hform : ¬ (j.malformed 2 = true ∨ 7 < j.arg 0 ∨ 1 < j.arg 1) := by
    simp [hbody, hslot, hmode]
  have hrefused : ∀ status, execProfileSwitch e s = .next (refuseCmd s j status) → refused status := fun status h =>
    ⟨refuseCmd s j status, h, newJob_entry hj ▸ refuseCmd_entryIs s j status, refuseCmd_img .., refuseCmd_streams ..,
      refuseCmd_ep .., refuseCmd_fit ..⟩
  have hidle : ¬ busy → switchBusy s = false := fun h => Bool.eq_false_iff.mpr (h ∘ (switchBusy_iff s).mp)
  refine ⟨fun hoff => hrefused _ ?_, fun hon hbusy => hrefused _ ?_, fun hon hnot hbad => hrefused _ ?_⟩
  · exact execProfileSwitch_notEnabled hj hform hoff
  · exact execProfileSwitch_busy hj hform hon ((switchBusy_iff s).mpr hbusy)
  · exact execProfileSwitch_slotInvalid hj hform hon (hidle hnot) ((slotValid_eq_false_iff s _).mpr hbad)

end Sys2Proof.Machine

end

section
/-! The issue of a word that a group has come to, and BRA with its stack (R144, O11). -/

namespace Sys2Proof.Machine

/-! ### Issue of the word that a group has come to -/

theorem allOps_of_legal {w : Nat} (h : legal w = true) : allOps.contains (major w) = true := by
  simp only [legal, Bool.and_eq_true] at h
  obtain ⟨⟨⟨⟨hop, -⟩, -⟩, -⟩, -⟩ := h
  exact hop

/-- A group comes to the word `w` as the group `y`, its stack popped, in the state `s1`: an illegal word traps, one with an
operand on its way leaves the state as it is, any other goes to its effect. -/
theorem issue_of_fetched {s s1 : State} {c g w : Nat} {want : Option Nat} {y : Group} (hmay : mayIssue s c g = true)
    (hpend : (s.grp c g).pend = none) (hpop : popStops 33 (s.grp c g) = y)
    (hs1 : (if (s.grp c g).stop = some (s.grp c g).pc then s.setGrp c g y else s) = s1)
    (hpc : pcOk (s.core c) y.pc.toNat = true) (hfetch : fetched y y.pc.toNat = some w)
    (hbp : bpHit (s.core c) g y.pc.toNat = false ∨ y.skipBp = true ∨ class0Core s c = true)
    (hwant : want.any (· != major w) = false) :
    issue s c g want .ok = if legal w then
        if y.hazard (operandsOf (s.core c) g w) then .stop s else .go s1 w
      else .stop (takeTrap s1 c g 1 (major w) 0 0) := by
  have hskip : (bpHit (s.core c) g y.pc.toNat && !y.skipBp && !class0Core s c) = false := by
    rcases hbp with h | h | h <;> simp [h]
  simp only [issue, hmay, hpend, hpop, hs1, hpc, hfetch, hskip, hwant, badSource, regEcc, Bool.not_true,
    Bool.false_eq_true, if_false]
  cases hlegal : legal w with
  | true => simp only [allOps_of_legal hlegal, Bool.not_true, Bool.false_eq_true, if_false, if_true]
  | false => cases allOps.contains (major w) <;> simp

theorem issue_of_comes {s : State} {c g w : Nat} (h : Comes s c g w) :
    issue s c g none .ok = if legal w then
        if (s.grp c g).hazard (operandsOf (s.core c) g w) then .stop s else .go s w
      else .stop (takeTrap s c g 1 (major w) 0 0) := by
  obtain ⟨hruns, hst, hstall, hpend, hstop, hpc, hfetch, hbp⟩ := h
  have hmay : mayIssue s c g = true := by rcases hstall with hstall | hstall <;> simp [mayIssue, hruns, hst, hstall]
  exact issue_of_fetched hmay hpend (popStops_of_ne _ _ hstop) (if_neg hstop) hpc hfetch hbp rfl

/-! ### BRA (R144) -/

/-- A lane that is active at the branch. -/
def Active (x : Group) (l : Nat) : Prop := l < 32 ∧ x.mask.getLsbD l = true

/-- The predicate of a lane, as R169 words it. -/
def Taken (x : Group) (w l : Nat) : Prop := ¬((x.reg (fRd w) l = 0) ↔ bit w 16 = false)

/-- The active lanes that a branch takes. -/
def takenLanes (x : Group) (w : Nat) : Word :=
  (lanes x.mask).foldl (fun m l => if holds x w l then m ||| (1#32 <<< l) else m) 0

/-- The active lanes that fall through. -/
def fallLanes (x : Group) (w : Nat) : Word := x.mask &&& ~~~takenLanes x w

theorem holds_iff (x : Group) (w l : Nat) : holds x w l = true ↔ Taken x w l := by
  cases hb : bit w 16 <;> simp [holds, Taken, hb]

theorem getLsbD_foldl_lanes (p : Nat → Bool) (l : Nat) (hl : l < 32) (ls : List Nat) (m : Word) :
    (ls.foldl (fun m l => if p l then m ||| (1#32 <<< l) else m) m).getLsbD l =
      (m.getLsbD l || (ls.contains l && p l)) := by
  induction ls generalizing m with
  | nil => simp
  | cons a ls ih =>
    rw [List.foldl_cons, ih]
    by_cases hal : a = l
    · subst hal; cases p a <;> simp [hl]
    · have hbit : (1#32 <<< a).getLsbD l = false := by
        simp only [BitVec.getLsbD_shiftLeft, BitVec.getLsbD_one]
        simp; omega
      cases p a <;> simp [hbit, Ne.symm hal]

theorem getLsbD_takenLanes {x : Group} {w l : Nat} (hl : l < 32) :
    (takenLanes x w).getLsbD l = (x.mask.getLsbD l && holds x w l) := by
  have hmem : (lanes x.mask).contains l = x.mask.getLsbD l := by
    rw [Bool.eq_iff_iff, List.contains_iff_mem, lanes_mem]; simp [hl]
  rw [takenLanes, getLsbD_foldl_lanes _ l hl, hmem]
  simp

theorem mem_takenLanes {x : Group} {w l : Nat} (hl : l < 32) :
    (takenLanes x w).getLsbD l = true ↔ Active x l ∧ Taken x w l := by
  rw [getLsbD_takenLanes hl, Bool.and_eq_true, holds_iff, Active, and_iff_right hl]

theorem mem_fallLanes {x : Group} {w l : Nat} (hl : l < 32) :
    (fallLanes x w).getLsbD l = true ↔ Active x l ∧ ¬Taken x w l := by
  have hnot : (~~~takenLanes x w).getLsbD l = !(takenLanes x w).getLsbD l := by simp [hl]
  rw [fallLanes, BitVec.getLsbD_and, hnot, Bool.and_eq_true, Bool.not_eq_true', ← Bool.not_eq_true,
    mem_takenLanes hl, Active, and_iff_right hl]
  exact ⟨fun ⟨hm, hn⟩ => ⟨hm, fun ht => hn ⟨hm, ht⟩⟩, fun ⟨hm, hn⟩ => ⟨hm, fun ⟨_, ht⟩ => hn ht⟩⟩

theorem word_eq_zero_iff (m : Word) : m = 0 ↔ ∀ l, l < 32 → ¬m.getLsbD l = true := by
  constructor
  · rintro rfl l -; simp
  · intro h; exact BitVec.eq_of_getLsbD_eq fun l hl => by simp [h l hl]

theorem takenLanes_eq_zero_iff {x : Group} {w : Nat} : takenLanes x w = 0 ↔ ∀ l, Active x l → ¬Taken x w l := by
  rw [word_eq_zero_iff]
  exact ⟨fun h l ha ht => h l ha.1 ((mem_takenLanes ha.1).mpr ⟨ha, ht⟩),
    fun h l hl hm => ((mem_takenLanes hl).mp hm).elim (h l)⟩

theorem fallLanes_eq_zero_iff {x : Group} {w : Nat} : fallLanes x w = 0 ↔ ∀ l, Active x l → Taken x w l := by
  rw [word_eq_zero_iff]
  exact ⟨fun h l ha => Classical.byContradiction fun ht => h l ha.1 ((mem_fallLanes ha.1).mpr ⟨ha, ht⟩),
    fun h l hl hm => ((mem_fallLanes hl).mp hm).elim fun ha ht => ht (h l ha)⟩

section Branch

variable {x : Group} {w : Nat}

/-- Every active lane is taken: the group jumps. -/
theorem branch_of_none_falls (hfall : fallLanes x w = 0) : branch x w = some (x.goto (target w 40 24)) :=
  if_pos hfall

/-- Active lanes, and none is taken: the group goes on. -/
theorem branch_of_none_taken (hfall : fallLanes x w ≠ 0) (htaken : takenLanes x w = 0) : branch x w = some x.next :=
  (if_neg hfall).trans (if_pos htaken)

/-- The lanes part, and two more entries fit on the stack. -/
theorem branch_of_parts (hfall : fallLanes x w ≠ 0) (htaken : takenLanes x w ≠ 0) (hroom : x.stack.length ≤ 30) :
    branch x w = some { x.next with
      mask := fallLanes x w, stop := some (target w 57 41)
      stack := ⟨target w 40 24, takenLanes x w, some (target w 57 41)⟩ :: ⟨target w 57 41, x.mask, x.stop⟩ :: x.stack } :=
  (if_neg hfall).trans <| (if_neg htaken).trans <| if_neg (by omega)

/-- The lanes part, and the stack has no room for two more entries. -/
theorem branch_of_full (hfall : fallLanes x w ≠ 0) (htaken : takenLanes x w ≠ 0) (hfull : 30 < x.stack.length) :
    branch x w = none :=
  (if_neg hfall).trans <| (if_neg htaken).trans <| if_pos (by omega)

end Branch

section Exec

variable {s : State} {c : Fin 272} {g : Fin 16} {w : Nat} (hissues : Issues s c g w) (hmajor : major w = 0x80)
include hissues hmajor

/-- A branch of which the stack holds the entries changes nothing but the group. -/
theorem exec_bra_of_branch {y : Group} (hy : branch (s.grp c g) w = some y) :
    ∃ t, exec (.bra c g .ok) s = .next t ∧ GroupOnly s t c g ∧ t.grp c g = y := by
  have hbody : issueAs 0x80 c g .ok s bodyBra = s.setGrp c g y := by
    rw [issueAs_of_issues hissues _ hmajor]; simp [bodyBra, hy]
  exact ⟨_, congrArg Host.Outcome.next hbody, groupOnly_setGrp s c g y, grp_setGrp s c g y⟩

theorem exec_bra_of_full (hfull : branch (s.grp c g) w = none) :
    exec (.bra c g .ok) s = .next (takeTrap s c g 0x0B 0 0 0) := by
  have hbody : issueAs 0x80 c g .ok s bodyBra = takeTrap s c g 0x0B 0 0 0 := by
    rw [issueAs_of_issues hissues _ hmajor]; simp [bodyBra, hfull]
  exact congrArg Host.Outcome.next hbody

end Exec

/-! ### The stack is popped before an instruction issues (R144) -/

/-- The group after its stack has been popped down to the entry `e`. -/
def Group.popTo (x : Group) (e : StackEnt) (below : List StackEnt) : Group :=
  { x with pc := e.pc, mask := e.mask, stop := e.stop, stack := below }

/-- Pops go on through the entries that stand at their own stop address, to the first that does not. -/
theorem popStops_of_stack {k : Nat} {above below : List StackEnt} {e : StackEnt} {x : Group}
    (hk : above.length < k) (hstack : x.stack = above ++ e :: below) (hstop : x.stop = some x.pc)
    (habove : ∀ a ∈ above, a.stop = some a.pc) (hend : e.stop ≠ some e.pc) : popStops k x = x.popTo e below := by
  obtain ⟨k, rfl⟩ := Nat.exists_eq_add_one_of_ne_zero (Nat.ne_zero_of_lt hk)
  induction above generalizing k x with
  | nil =>
    rw [popStops, if_pos hstop, hstack]
    exact popStops_of_ne k _ hend
  | cons a above ih =>
    rw [popStops, if_pos hstop, hstack]
    obtain ⟨k, rfl⟩ := Nat.exists_eq_add_one_of_ne_zero (Nat.ne_zero_of_lt (Nat.lt_of_succ_lt_succ hk))
    exact ih (x := x.popTo a (above ++ e :: below)) rfl (habove a (by simp)) (fun b hb => habove b (by simp [hb])) k
      (Nat.lt_of_succ_lt_succ hk)

/-- A group at its stop address hands the body what its popped stack leads to. -/
theorem issueAs_of_popTo {s : State} {c : Fin 272} {g : Fin 16} {w : Nat} {e : StackEnt} {below : List StackEnt}
    (hstop : (s.grp c g).stop = some (s.grp c g).pc) (hpop : popStops 33 (s.grp c g) = (s.grp c g).popTo e below)
    (h : Issues (s.setGrp c g ((s.grp c g).popTo e below)) c g w) (f : Body) :
    issueAs (major w) c g .ok s f = f (s.setGrp c g ((s.grp c g).popTo e below)) c g w .ok := by
  obtain ⟨⟨⟨hruns, hst, hstall, hpend, -, hpc, hfetch, hbp⟩, hstepping⟩, hlegal, hhazard⟩ := h
  simp only [grp_setGrp, core_setGrp] at hst hstall hpend hpc hfetch hbp hstepping hhazard
  have hmay : mayIssue s c g = true := by
    change s.coreRuns c = true at hruns
    change (s.grp c g).st = _ at hst
    change (s.grp c g).stall = _ ∨ (s.grp c g).stall = _ at hstall
    rcases hstall with hstall | hstall <;> simp [mayIssue, hruns, hst, hstall]
  have hissue := issue_of_fetched (want := some (major w)) hmay hpend hpop (if_pos hstop) hpc hfetch hbp (by simp)
  change Group.hazard _ (operandsOf (s.core c) g w) = false at hhazard
  rw [hlegal, hhazard] at hissue
  have hnotStepped : (s.grp c g).stepped = false := by
    change (s.grp c g).stepping = false at hstepping
    simp [Group.stepped, hstepping]
  rw [issueAs, hissue]
  simp [finishIssue, hnotStepped, endStep]

/-- Settles O11: the four cases of the branch, and the pops before an instruction issues. -/
theorem divergentBranch : Obligations.DivergentBranch := by
  constructor
  · intro s c g w hissues hmajor
    refine ⟨fun hall => ?_, fun ⟨l, hl⟩ hnone => ?_, fun ⟨l, hl, htl⟩ ⟨m, hm, hfm⟩ => ?_⟩
    · exact exec_bra_of_branch hissues hmajor (branch_of_none_falls (fallLanes_eq_zero_iff.mpr hall))
    · exact exec_bra_of_branch hissues hmajor
        (branch_of_none_taken (fun h => hnone l hl (fallLanes_eq_zero_iff.mp h l hl)) (takenLanes_eq_zero_iff.mpr hnone))
    · have hfall : fallLanes (s.grp c g) w ≠ 0 := fun h => hfm (fallLanes_eq_zero_iff.mp h m hm)
      have htaken : takenLanes (s.grp c g) w ≠ 0 := fun h => takenLanes_eq_zero_iff.mp h l hl htl
      refine ⟨fun hroom => ?_, fun hfull => exec_bra_of_full hissues hmajor (branch_of_full hfall htaken hfull)⟩
      obtain ⟨t, hexec, honly, hgrp⟩ := exec_bra_of_branch hissues hmajor (branch_of_parts hfall htaken hroom)
      exact ⟨t, _, _, hexec, honly, fun i hi => ⟨mem_fallLanes hi, mem_takenLanes hi⟩, hgrp⟩
  · intro s c g w above below e x u hstack hlen hstop habove hissues body
    have hend : e.stop ≠ some e.pc := by
      obtain ⟨⟨⟨-, -, -, -, hne, -⟩, -⟩, -⟩ := hissues
      simpa [u] using hne
    have hroom : above.length < 33 := by
      rw [hstack, List.length_append] at hlen; omega
    exact issueAs_of_popTo hstop (popStops_of_stack hroom hstack hstop habove hend) hissues body

end Sys2Proof.Machine

end

section
/-! The memory system leaves the cores alone but for the answers it gives their groups. -/

namespace Sys2Proof.Machine

/-! ### What leaves the cores as they are -/

theorem foldl_cores {α : Type} {f : State → α → State} (hf : ∀ s a, (f s a).cores = s.cores) (l : List α) (s : State) :
    (l.foldl f s).cores = s.cores :=
  List.foldlRecOn l f (motive := fun t => t.cores = s.cores) rfl fun t ht a _ => (hf t a).trans ht

theorem ite_cores {p : Prop} [Decidable p] {s t u : State} (ht : t.cores = s.cores) (hu : u.cores = s.cores) :
    (if p then t else u).cores = s.cores := by split <;> assumption

@[simp] theorem updSlice_cores (s : State) (n : Nat) (f : Slice → Slice) : (s.updSlice n f).cores = s.cores := rfl
@[simp] theorem updStream_cores (s : State) (n : Nat) (f : Stream → Stream) : (s.updStream n f).cores = s.cores := rfl

@[simp] theorem setMc_cores (s : State) (lpddr : Bool) (n : Nat) (v : Ctlr) : (s.setMc lpddr n v).cores = s.cores := by
  unfold State.setMc; split <;> rfl
@[simp] theorem updMc_cores (s : State) (lpddr : Bool) (n : Nat) (f : Ctlr → Ctlr) :
    (s.updMc lpddr n f).cores = s.cores := by simp [State.updMc]

@[simp] theorem release_cores (s : State) (n : Nat) : (release s n).cores = s.cores := by
  unfold release; dsimp only; split <;> rfl
@[simp] theorem deliver_cores (s : State) (n : Nat) (r : Req) : (deliver s n r).cores = s.cores := by simp [deliver]
@[simp] theorem sendBack_cores (s : State) (n : Nat) (r : Req) : (sendBack s n r).cores = s.cores := rfl
@[simp] theorem admitCtl_cores (s : State) (lpddr : Bool) (c : Nat) : (admitCtl s lpddr c).cores = s.cores := by
  unfold admitCtl; dsimp only; split
  · rfl
  · exact setMc_cores ..
@[simp] theorem chargeCtl_cores (s : State) (lpddr : Bool) (c cls : Nat) : (chargeCtl s lpddr c cls).cores = s.cores := by
  unfold chargeCtl; dsimp only; split <;> simp [countOver]
@[simp] theorem chargeSlice_cores (s : State) (k cls n : Nat) : (chargeSlice s k cls n).cores = s.cores := by
  unfold chargeSlice; dsimp only; split <;> simp [countOver]
@[simp] theorem countMerge_cores (s : State) (k cls : Nat) : (countMerge s k cls).cores = s.cores := rfl
@[simp] theorem joinMiss_cores (s : State) (k : Nat) (r : Req) : (joinMiss s k r).cores = s.cores := rfl
@[simp] theorem toChannel_cores (s : State) (r : MemReq) : (toChannel s r).cores = s.cores := by simp [toChannel]
@[simp] theorem queueWrite_cores (s : State) (n line cls : Nat) (ws : List (Nat × Byte)) :
    (queueWrite s n line cls ws).cores = s.cores := by simp [queueWrite]

/-! Events -/

@[simp] theorem logEvent_cores (s : State) (ev : EvRec) : (logEvent s ev).cores = s.cores := rfl
@[simp] theorem correction_cores (s : State) (source ut uid code detail : Nat) :
    (correction s source ut uid code detail).cores = s.cores := by
  unfold correction; dsimp only; split <;> simp
@[simp] theorem raiseFault_cores (s : State) (ut id reason : Nat) : (raiseFault s ut id reason).cores = s.cores := by
  unfold raiseFault; repeat' split
  all_goals rfl
@[simp] theorem faultEvent_cores (s : State) (ev : EvRec) : (faultEvent s ev).cores = s.cores := by simp [faultEvent]
@[simp] theorem faultIf_cores (s : State) (c0 : Bool) (ev : EvRec) : (faultIf s c0 ev).cores = s.cores := by
  unfold faultIf; split <;> simp
@[simp] theorem memError_cores (s : State) (lpddr : Bool) (ch cause cls line : Nat) :
    (memError s lpddr ch cause cls line).cores = s.cores := by simp [memError]

/-! The two tiers -/

@[simp] theorem pageCorrection_cores (s : State) (c : Nat) : (pageCorrection s c).cores = s.cores := by
  simp [pageCorrection]
@[simp] theorem pageError_cores (s : State) (c p cause cls line : Nat) :
    (pageError s c p cause cls line).cores = s.cores := by
  unfold pageError; split <;> simp
@[simp] theorem fetchPage_cores (s : State) (c p cls : Nat) (noise : LpNoise) :
    (fetchPage s c p cls noise).2.cores = s.cores := by
  unfold fetchPage
  split
  · rfl
  · have hread : (if (readPage s c p noise).corrected then pageCorrection (chargeCtl s false (ctrCh (ctrLine c p)) cls) c
        else chargeCtl s false (ctrCh (ctrLine c p)) cls).cores = s.cores := ite_cores (by simp) (by simp)
    cases hres : (readPage s c p noise).res with
    | error e => simpa only [hres] using hread
    | ok b => simpa only [hres] using ite_cores hread ((updMc_cores ..).trans hread)
@[simp] theorem setCtr_cores (s : State) (c p : Nat) (e : CtrEnt) : (s.setCtr c p e).cores = s.cores := by
  simp [State.setCtr]
@[simp] theorem rollover_cores (s : State) (c p : Nat) : (rollover s c p).cores = s.cores := by simp [rollover]
@[simp] theorem writePage_cores (s : State) (c p : Nat) (plain : List Byte) (poison : Bool) :
    (writePage s c p plain poison).cores = s.cores := by
  simp only [writePage, updMc_cores, setCtr_cores]
  split <;> simp
@[simp] theorem drainEntry_cores (s : State) (c i : Nat) (noise : LpNoise) : (drainEntry s c i noise).cores = s.cores := by
  unfold drainEntry
  split
  · rfl
  · dsimp only; split
    · simp only [memError_cores, chargeCtl_cores, updMc_cores]
    · split
      · simp only [writePage_cores, chargeCtl_cores, updMc_cores]
      · split <;>
          simp only [logEvent_cores, writePage_cores, chargeCtl_cores, fetchPage_cores, updMc_cores]
@[simp] theorem makeMergeRoom_cores (k : Nat) (s : State) (c p cls : Nat) :
    (makeMergeRoom k s c p cls).cores = s.cores := by
  induction k generalizing s with
  | zero => rfl
  | succ k ih =>
    unfold makeMergeRoom; dsimp only; split
    · rfl
    · simp [ih]
@[simp] theorem dieWrite_cores (s : State) (line : Nat) (ws : List (Nat × Byte)) : (dieWrite s line ws).cores = s.cores := by
  unfold dieWrite; repeat' split
  all_goals rfl
@[simp] theorem updBad_cores (s : State) (c line : Nat) (f : List Nat → List Nat) : (updBad s c line f).cores = s.cores := by
  unfold updBad; split <;> simp
@[simp] theorem bondedStore_cores (s : State) (c line : Nat) (ws : List (Nat × Byte)) :
    (bondedStore s c line ws).cores = s.cores := by simp [bondedStore, soundAfter]
@[simp] theorem storeAtCtl_cores (s : State) (lpddr : Bool) (c line cls : Nat) (ws : List (Nat × Byte)) :
    (storeAtCtl s lpddr c line cls ws).cores = s.cores := by
  unfold storeAtCtl; dsimp only; split <;> simp
@[simp] theorem backingLine_cores (s : State) (line cls : Nat) : (backingLine s line cls).2.cores = s.cores := by
  unfold backingLine; dsimp only
  split
  · split
    · simp
    · have hpage := fetchPage_cores (chargeCtl s (channelOf (256 * line)).1 (channelOf (256 * line)).2 cls)
        (channelOf (256 * line)).2 (pageOf (256 * line)).2.1 cls quiet
      split
      next hfetch => rw [hfetch] at hpage; simpa using hpage
      next hfetch => rw [hfetch] at hpage; simpa using hpage
  · split <;> simp
@[simp] theorem writeBack_cores (s : State) (n line cls : Nat) (ws : List (Nat × Byte)) :
    (writeBack s n line cls ws).cores = s.cores := by
  unfold writeBack; dsimp only; split
  · rfl
  · split
    · simp
    · simp [foldl_cores]

/-! The host-line directory -/

@[simp] theorem sendSnp_cores (s : State) (data : Bool) (l : Nat) : (sendSnp s data l).cores = s.cores := rfl
@[simp] theorem dirInvalidate_cores (s : State) (l : Nat) : (dirInvalidate s l).cores = s.cores := by
  unfold dirInvalidate; split <;> simp
@[simp] theorem dirInvRange_cores (s : State) (a n : Nat) : (dirInvRange s a n).cores = s.cores :=
  foldl_cores dirInvalidate_cores _ s
@[simp] theorem dirRecall_cores (s : State) (a n : Nat) : (dirRecall s a n).2.cores = s.cores :=
  foldl_cores (fun t l => by split <;> simp) _ s
@[simp] theorem snoopReq_cores (s : State) (r : Req) : (snoopReq s r).2.cores = s.cores := by
  have hread : ∀ cls a n, (snoopRead s cls a n).2.cores = s.cores := fun cls a n => by
    unfold snoopRead; split <;> simp
  unfold snoopReq
  split
  · exact hread ..
  · exact hread ..
  · rfl

/-! Lines of a slice -/

section Send

variable {send : State → Nat → Nat → Nat → List (Nat × Byte) → State}
  (hsend : ∀ s n line cls ws, (send s n line cls ws).cores = s.cores)
include hsend

theorem evict_cores (s : State) (n set way cls : Nat) : (evict send s n set way cls).cores = s.cores := by
  unfold evict; dsimp only; split <;> simp [hsend]
theorem allocate_cores (s : State) (n : Nat) (h : Home) (w : Option WinRec) (cls : Nat) :
    (allocate send s n h w cls).2.cores = s.cores := by
  unfold allocate; split
  · rfl
  · simp [evict_cores hsend]
theorem storeLine_cores (s : State) (k : Nat) (h : Home) (cls : Nat) (ws : List (Nat × Byte)) :
    (storeLine send s k h cls ws).cores = s.cores := by
  unfold storeLine; dsimp only; split
  · simp
  · have hplace := allocate_cores hsend (s.updSlice k fun sl => undead sl (h.backing / 256)) k h (windowAt s h.backing) cls
    split
    next hat => rw [hat] at hplace; simpa using hplace
    next hbypass => rw [hbypass] at hplace; simpa [hsend] using hplace

end Send

@[simp] theorem startMiss_cores (s : State) (k : Nat) (h : Home) (r : Req) : (startMiss s k h r).cores = s.cores := by
  simp only [startMiss, toChannel_cores, updSlice_cores]
  split
  · rfl
  · exact allocate_cores queueWrite_cores ..
@[simp] theorem retireLine_cores (s : State) (k : Nat) (h : Home) (L : Nat) : (retireLine s k h L).cores = s.cores := by
  simp only [retireLine, dirInvRange_cores, updSlice_cores]
  split <;> simp
@[simp] theorem storeFilled_cores (s : State) (k : Nat) (h : Home) (cls : Nat) (ws : List (Nat × Byte)) :
    (storeFilled s k h cls ws).cores = s.cores := by
  unfold storeFilled; dsimp only; split <;> simp
@[simp] theorem readFilled_cores (s : State) (k : Nat) (h : Home) (pre : Nat) (b : List Byte) (off n : Nat) :
    (readFilled s k h pre b off n).2.cores = s.cores := by
  unfold readFilled; dsimp only
  split <;> exact ite_cores (by simp) rfl
@[simp] theorem fetchFill_cores (s : State) (k L : Nat) : (fetchFill s k L).2.cores = s.cores := by
  unfold fetchFill; dsimp only; split <;> simp
@[simp] theorem joinAll_cores (f : Nat) (s : State) (k L : Nat) : (joinAll f s k L).cores = s.cores := by
  induction f generalizing s with
  | zero => rfl
  | succ f ih =>
    unfold joinAll; split
    · rfl
    · split
      · rfl
      · simp only [ih]; split <;> simp
theorem mergeAt_cores {s t : State} {k L : Nat} (h : mergeAt s k L = some t) : t.cores = s.cores := by
  unfold mergeAt at h
  split at h
  · dsimp only at h
    split at h
    · cases h
    · cases h; exact joinAll_cores ..
  · cases h

/-! Requests -/

@[simp] theorem abortGoesOn_cores (s : State) : (abortGoesOn s).cores = s.cores := by
  unfold abortGoesOn; split
  · split <;> simp [startQuiesce]
  · rfl
@[simp] theorem updReq_cores (s : State) (n slot : Nat) (f : ReqSt → ReqSt) : (updReq s n slot f).cores = s.cores := rfl

/-! ### What only answers requests of the groups -/

/-- No group of `t` differs from that of `s` but in what its device accesses still wait for. -/
structure OnlyAnswers (s t : State) : Prop where
  grp : ∀ c g, { t.grp c g with outst := (s.grp c g).outst } = s.grp c g

namespace OnlyAnswers

theorem of_cores {s t : State} (h : t.cores = s.cores) : OnlyAnswers s t where
  grp c g := by
    have hgrp : t.grp c g = s.grp c g := by simp only [State.grp, State.core, h]
    rw [hgrp]

theorem refl (s : State) : OnlyAnswers s s := of_cores rfl

theorem trans {s t u : State} (h : OnlyAnswers s t) (k : OnlyAnswers t u) : OnlyAnswers s u where
  grp c g := (congrArg (fun x : Group => { x with outst := (s.grp c g).outst }) (k.grp c g)).trans (h.grp c g)

/-- What leaves the cores as they are may follow. -/
theorem cores {s t u : State} (h : OnlyAnswers s t) (k : u.cores = t.cores) : OnlyAnswers s u := h.trans (of_cores k)

theorem ite {p : Prop} [Decidable p] {s t u : State} (ht : OnlyAnswers s t) (hu : OnlyAnswers s u) :
    OnlyAnswers s (if p then t else u) := by split <;> assumption

theorem foldl {α : Type} {f : State → α → State} (hf : ∀ s a, OnlyAnswers s (f s a)) (l : List α) (s : State) :
    OnlyAnswers s (l.foldl f s) :=
  List.foldlRecOn l f (motive := OnlyAnswers s) (refl s) fun t ht a _ => ht.trans (hf t a)

end OnlyAnswers

theorem updGrp_only (s : State) (c g : Nat) {f : Group → Group} (hf : ∀ x : Group, { f x with outst := x.outst } = x) :
    OnlyAnswers s (s.updGrp c g f) where
  grp k j := by
    by_cases hk : k = c
    · subst hk
      by_cases hj : j = g
      · subst hj; rw [State.updGrp, grp_setGrp]; exact hf _
      · rw [State.updGrp, grp_setGrp_ne _ _ _ hj]
    · rw [State.updGrp, grp_setGrp_ne_core _ _ _ _ hk]

theorem answer_only (s : State) (r : Req) (res : Except Nat (List (Nat × Nat))) : OnlyAnswers s (answer s r res) := by
  unfold answer
  split
  · exact .refl s
  · exact updGrp_only _ _ _ fun x => rfl

theorem readLine_only (s : State) (k set way : Nat) (r : Req) : OnlyAnswers s (readLine s k set way r) := answer_only ..

theorem atomLine_only (s : State) (k set way : Nat) (r : Req) (op : AtomOp) (ls : List (Nat × Nat × Nat)) :
    OnlyAnswers s (atomLine s k set way r op ls) := by
  unfold atomLine
  refine OnlyAnswers.trans ?_ (answer_only ..)
  exact .of_cores (by simp)

theorem missOf_only (s : State) (k : Nat) (h : Home) (r : Req) : OnlyAnswers s (missOf s k h r) := by
  unfold missOf; dsimp only
  refine .ite (.ite ((OnlyAnswers.of_cores ?_).trans (answer_only _ r _)) (.of_cores ?_)) (.of_cores ?_) <;> simp

theorem serveHere_only (s : State) (k : Nat) (h : Home) (r : Req) : OnlyAnswers s (serveHere s k h r) := by
  unfold serveHere; dsimp only
  split
  · exact (OnlyAnswers.of_cores (by simp)).trans (answer_only _ r _)
  · exact (OnlyAnswers.of_cores (by simp [storeLine_cores queueWrite_cores])).trans (answer_only _ r _)
  · split
    · exact .ite (answer_only ..) (.ite ((OnlyAnswers.of_cores (updSlice_cores ..)).trans (readLine_only ..)) (missOf_only ..))
    · exact missOf_only ..
  · split
    · exact .ite (answer_only ..) (.ite ((OnlyAnswers.of_cores (updSlice_cores ..)).trans (atomLine_only ..)) (missOf_only ..))
    · exact missOf_only ..

theorem serveAnew_only (k : Nat) (h : Home) (rs : List Req) (s : State) : OnlyAnswers s (serveAnew k h rs s) := by
  induction rs generalizing s with
  | nil => exact .refl s
  | cons r rs ih => exact (OnlyAnswers.ite (.of_cores (joinMiss_cores ..)) (serveHere_only ..)).trans (ih _)

theorem serveWaiters_only (k : Nat) (h : Home) (pre : Nat) (f : FillEnd) (rs : List Req) (s : State) :
    OnlyAnswers s (serveWaiters k h pre f rs s).2 := by
  induction rs generalizing f s with
  | nil => exact .refl s
  | cons r rs ih =>
    unfold serveWaiters; dsimp only
    split
    · exact ((OnlyAnswers.of_cores (by simp)).trans (answer_only _ r _)).trans (serveAnew_only ..)
    · exact ((OnlyAnswers.of_cores (by simp)).trans (answer_only _ r _)).trans (ih ..)
    · exact ((OnlyAnswers.of_cores (by simp)).trans (answer_only _ r _)).trans (ih ..)
    · exact ((OnlyAnswers.of_cores (by simp)).trans (answer_only _ r _)).trans (ih ..)
    · exact (answer_only ..).trans (ih ..)
    · exact ih ..

theorem fillLine_only (s : State) (k L : Nat) (bytes : Option (List Byte)) (also : Option (Nat × Nat)) :
    OnlyAnswers s (fillLine s k L bytes also).2 := by
  unfold fillLine
  extract_lets waiters s1 many takers channel
  have hs1 : s1.cores = s.cores := rfl
  clear_value s1
  split
  · exact (OnlyAnswers.of_cores hs1).trans (.foldl (fun s r => answer_only ..) _ _)
  · extract_lets pre s2 s3 detail
    have hs2 : s2.cores = s.cores := by
      unfold s2; split
      · exact hs1
      · exact hs1
    have hs3 : OnlyAnswers s s3 := .of_cores (ite_cores hs2 hs2)
    clear_value s3 waiters
    dsimp only
    split
    · exact hs3.trans (serveWaiters_only ..)
    · exact hs3
    · split
      · exact (hs3.trans (serveWaiters_only ..)).trans (serveAnew_only ..)
      · exact (hs3.trans (serveWaiters_only ..)).trans (serveWaiters_only ..)

theorem fillNow_only (s : State) (k L : Nat) (also : Option (Nat × Nat)) : OnlyAnswers s (fillNow s k L also).2 :=
  (OnlyAnswers.of_cores (fetchFill_cores s k L)).trans (fillLine_only ..)

theorem settle_only (f : Nat) (s : State) (k L : Nat) : OnlyAnswers s (settle f s k L) := by
  induction f generalizing s with
  | zero => exact .refl s
  | succ f ih =>
    unfold settle; dsimp only
    split
    · exact .ite (.refl s) (((OnlyAnswers.of_cores (joinAll_cores ..)).trans (fillNow_only ..)).trans (ih _))
    · split
      · exact .refl s
      · split
        · exact ((OnlyAnswers.of_cores (updSlice_cores ..)).trans (answer_only ..)).trans (ih _)
        · refine OnlyAnswers.trans (.ite ?_ (.of_cores ?_)) (ih _)
          · exact (OnlyAnswers.of_cores (by simp)).trans (serveHere_only ..)
          · simp

theorem settleLine_only (s : State) (k L : Nat) : OnlyAnswers s (settleLine s k L) := settle_only ..

theorem homeWrite_only (s : State) (h : Home) (cls off : Nat) (bs : List Byte) :
    OnlyAnswers s (homeWrite s h cls off bs) := by
  unfold homeWrite; dsimp only
  split
  · exact .of_cores (deliver_cores ..)
  · split
    · have hsettled := settleLine_only s h.slice (h.backing / 256)
      exact .ite (hsettled.cores (deliver_cores ..)) (hsettled.cores (by simp [storeLine_cores writeBack_cores]))
    next t hmerge =>
      have hfill : OnlyAnswers s (fillNow (chargeSlice (countMerge t h.slice cls) h.slice cls bs.length) h.slice
          (h.backing / 256) none).2 := (OnlyAnswers.of_cores (by simp [mergeAt_cores hmerge])).trans (fillNow_only ..)
      split
      · exact .ite ((hfill.trans (settleLine_only ..)).cores (deliver_cores ..))
          ((hfill.trans (settleLine_only ..)).cores (storeLine_cores writeBack_cores ..))
      · exact hfill.cores (storeFilled_cores ..)

/-- A write at its homes answers requests of the groups, and changes nothing else of them. -/
theorem devWrite_only (s : State) (cls a : Nat) (bs : List Byte) : OnlyAnswers s (devWrite s cls a bs) := by
  refine OnlyAnswers.cores ?_ (dirInvRange_cores _ a bs.length)
  refine List.foldlRecOn _ _ (motive := fun p : Option Nat × State => OnlyAnswers s p.2) (.refl s) fun p hp pc _ => ?_
  split
  · exact hp
  · exact hp.trans (homeWrite_only ..)

/-! The end of a request -/

theorem closeSeq_only (s : State) (n q : Nat) : OnlyAnswers s (closeSeq s n q) := by
  have hpt : ∀ (t : State) (i : Nat), OnlyAnswers t (writePt t n q i) := fun t i => by
    unfold writePt; split
    · exact devWrite_only ..
    · exact .refl t
  have hrecord : ∀ t, OnlyAnswers t (writeSeqRecord t n q) := fun t => by
    unfold writeSeqRecord; split
    · exact devWrite_only ..
    · exact .refl t
  unfold closeSeq
  split
  · exact .refl s
  · exact ((OnlyAnswers.of_cores (State.setKv_cores ..)).trans (.foldl hpt _ _)).trans (hrecord _)

theorem closeSequences_only (s : State) (n slot : Nat) : OnlyAnswers s (closeSequences s n slot) :=
  .foldl (fun t _ => closeSeq_only t n _) _ s

theorem endRequest_only (s : State) (n slot state reason : Nat) : OnlyAnswers s (endRequest s n slot state reason) := by
  unfold endRequest
  split
  · exact .refl s
  · refine OnlyAnswers.cores ?_ (abortGoesOn_cores _)
    refine OnlyAnswers.cores ?_ (updStream_cores ..)
    refine OnlyAnswers.trans ?_ (devWrite_only ..)
    exact (OnlyAnswers.ite (closeSequences_only ..) (.refl s)).trans (devWrite_only ..)

theorem stepEnd_only (s : State) (req : Option (Nat × Nat)) : OnlyAnswers s (stepEnd s req) := by
  have hboundary : ∀ t n slot, OnlyAnswers t (stepBoundary t n slot) := fun t n slot => by
    unfold stepBoundary
    repeat' split
    · exact endRequest_only ..
    · exact .refl t
    · exact .refl t
  unfold stepEnd
  split
  · exact .ite (.refl s) ((OnlyAnswers.of_cores (updReq_cores ..)).trans (hboundary ..))
  · exact .refl s

end Sys2Proof.Machine

end

section
/-! What an instruction that the Visor steps does to its group, and the step itself (R153, O42). -/

namespace Sys2Proof.Machine

/-! ### A group that is to be tried again runs -/

/-- A group whose instruction is to be tried again still runs. -/
structure Group.Settled (x : Group) : Prop where
  running : x.stall = .retry → x.st = .running

theorem Group.Settled.of_running {x : Group} (h : x.st = .running) : x.Settled := ⟨fun _ => h⟩
theorem Group.Settled.of_stall {x : Group} (h : x.stall ≠ .retry) : x.Settled := ⟨fun k => absurd k h⟩
theorem Group.settled_next (x : Group) : x.next.Settled := .of_stall (by simp [Group.next])

theorem passBarrier_settled {x : Group} (h : x.Settled) : (passBarrier x).Settled := by
  unfold passBarrier; split
  · split
    · exact h
    · exact .of_stall (by simp)
  · exact h

theorem finishWait_stall (x : Group) (sel m : Nat) : (finishWait x sel m).stall = .none := rfl

theorem OnlyAnswers.settled {s t : State} (h : OnlyAnswers s t) {c g : Nat} (hs : (s.grp c g).Settled) :
    (t.grp c g).Settled := by
  have hstall : (t.grp c g).stall = (s.grp c g).stall := (congrArg Group.stall (h.grp c g) :)
  have hst : (t.grp c g).st = (s.grp c g).st := (congrArg Group.st (h.grp c g) :)
  exact ⟨fun k => hst.trans (hs.running (hstall ▸ k))⟩

/-! ### Groups after updates of their core -/

@[simp] theorem grp_updGrp (s : State) (c g : Nat) (f : Group → Group) : (s.updGrp c g f).grp c g = f (s.grp c g) :=
  grp_setGrp ..

/-- An update of a core that leaves its groups alone. -/
@[simp] theorem grp_updCore (s : State) (c : Nat) {f : Core → Core} (hf : ∀ co, (f co).groups = co.groups) (k j : Nat) :
    (s.updCore c f).grp k j = s.grp k j := by
  by_cases hk : k = c
  · subst hk; simp [State.updCore, State.grp, Core.grp, hf]
  · simp [State.updCore, State.grp, core_setCore_ne _ _ hk]

theorem grp_of_cores {s t : State} (h : t.cores = s.cores) (c g : Nat) : t.grp c g = s.grp c g := by
  simp only [State.grp, State.core, h]

@[simp] theorem orFlags_grp (s : State) (c fl k j : Nat) : (orFlags s c fl).grp k j = s.grp k j := by
  unfold orFlags; split
  · rfl
  · simp

theorem releaseBars_groups (co : Core) (base : Nat) : (releaseBars co base).groups = co.groups :=
  List.foldlRecOn _ _ (motive := fun d : Core => d.groups = co.groups) rfl fun d hd b _ => by
    split
    · exact hd
    · exact hd

theorem releaseBank_groups (co : Core) (g : Nat) : (releaseBank co g).groups = co.groups :=
  List.foldlRecOn _ _ (motive := fun d : Core => d.groups = co.groups) rfl fun d hd b _ => by
    split
    · exact hd
    · exact hd

/-- A barrier's phase that completes lets groups go on; none is left to be tried again. -/
theorem barTry_settled {co : Core} {g : Nat} (size b : Nat) (h : (co.grp g).Settled) :
    ((barTry co size b).grp g).Settled := by
  unfold barTry; dsimp only
  split
  · refine List.foldlRecOn _ _ (motive := fun d : Core => (d.grp g).Settled) h fun d hd k _ => ?_
    by_cases hk : g = k
    · subst hk
      rw [Core.updGrp, grp_setGrp_core]
      split
      · exact passBarrier_settled ⟨hd.running⟩
      · exact ⟨hd.running⟩
    · rw [Core.updGrp, grp_setGrp_core_ne _ _ hk]; exact hd
  · exact h

theorem barAll_settled {co : Core} {g : Nat} (base size : Nat) (h : (co.grp g).Settled) :
    ((barAll co base size).grp g).Settled :=
  List.foldlRecOn _ _ (motive := fun d : Core => (d.grp g).Settled) h fun d hd b _ => by
    split
    · exact barTry_settled size b hd
    · exact hd

theorem drainEnd_settled {s : State} {c g : Nat} (h : (s.grp c g).Settled) : ((drainEnd s c g).grp c g).Settled := by
  unfold drainEnd; dsimp only
  split
  · refine (stepEnd_only _ _).settled ?_
    split
    · rw [grp_updCore _ _ fun co => releaseBars_groups co _, grp_setGrp]; exact .of_stall (by simp)
    · rw [grp_setGrp]; exact .of_stall (by simp)
  · exact h

theorem updCore_settled {s : State} {c g : Nat} {f : Core → Core} (h : ((f (s.core c)).grp g).Settled) :
    ((s.updCore c f).grp c g).Settled := by
  rw [State.updCore, State.grp, core_setCore]; exact h

theorem endGroup_settled (s : State) (c g : Nat) : ((endGroup s c g).grp c g).Settled := by
  unfold endGroup
  dsimp only
  refine drainEnd_settled (updCore_settled (barAll_settled _ _ ?_))
  rw [Core.grp, releaseBank_groups, core_setGrp]
  change ((Core.setGrp _ g _).grp g).Settled
  rw [grp_setGrp_core]
  exact .of_stall (by simp)

/-! ### Traps of a stepped group (R153) -/

/-- The Visor steps a running group of a core that it may hold: the instruction issues whatever breakpoint it matches. -/
structure VisorSteps (s : State) (c g : Nat) : Prop where
  st : (s.grp c g).st = .running
  stepping : (s.grp c g).stepping = true
  skipBp : (s.grp c g).skipBp = true
  free : class0Core s c = false

theorem class0Core_congr {s t : State} (himg : t.img = s.img) (hstreams : t.streams = s.streams) (c : Nat) :
    class0Core t c = class0Core s c := by
  simp only [class0Core, State.ownerOf, State.structOf, State.streamRec, State.stream, himg, hstreams]

theorem VisorSteps.congr {s t : State} {c g : Nat} (h : VisorSteps s c g) (hgrp : t.grp c g = s.grp c g)
    (himg : t.img = s.img) (hstreams : t.streams = s.streams) : VisorSteps t c g :=
  ⟨hgrp ▸ h.st, hgrp ▸ h.stepping, hgrp ▸ h.skipBp, class0Core_congr himg hstreams c ▸ h.free⟩

/-- A core's update that leaves its groups alone. -/
theorem VisorSteps.updCore {s : State} {c g : Nat} (h : VisorSteps s c g) {k : Nat} {f : Core → Core}
    (hf : ∀ co, (f co).groups = co.groups) : VisorSteps (s.updCore k f) c g :=
  h.congr (grp_updCore s k hf c g) rfl rfl

/-- What writing a trap's event leaves alone. -/
structure EventOnly (s t : State) : Prop where
  cores : t.cores = s.cores
  img : t.img = s.img
  streams : t.streams = s.streams

theorem logEvent_eventOnly (s : State) (ev : EvRec) : EventOnly s (logEvent s ev) := ⟨rfl, rfl, rfl⟩

theorem faultEvent_eventOnly (s : State) (ev : EvRec) : EventOnly s (faultEvent s ev) := by
  have hraise : EventOnly s (raiseFault s ev.unitType ev.unitId ev.reason) := by
    unfold raiseFault; repeat' split
    all_goals exact ⟨rfl, rfl, rfl⟩
  exact ⟨hraise.cores, hraise.img, hraise.streams⟩

theorem faultPart_eventOnly (s : State) (ev : EvRec) : EventOnly s (faultPart s ev) := by
  unfold faultPart; split
  · exact logEvent_eventOnly ..
  · exact faultEvent_eventOnly ..

/-- A group as a trap leaves it where its block is held. -/
def Group.trap (x : Group) (code detail lane why : Nat) : Group :=
  { x with trapCode := code, trapDetail := detail, trapLane := lane, trapWhy := why, pend := none, st := .trapped
           stall := .none }

/-- A trap of a stepped group holds its block: the group stays in its slot, trapped (R150, R153). -/
theorem takeTrap_grp {s : State} {c g : Nat} (h : VisorSteps s c g) (code detail lane why : Nat) :
    (takeTrap s c g code detail lane why).grp c g = (s.grp c g).trap code detail lane why := by
  unfold takeTrap
  extract_lets x s1 s2 reason ev s3
  have hs2 : s2.grp c g = x.trap code detail lane why :=
    (grp_updCore s1 c (f := fun co => { co with trapped := setBit co.trapped g, trapSets := satInc 8 co.trapSets })
      (fun _ => rfl) c g).trans (grp_setGrp ..)
  have hevent : EventOnly s2 s3 := by
    unfold s3; repeat' split
    · exact logEvent_eventOnly ..
    · exact faultPart_eventOnly ..
    · exact faultEvent_eventOnly ..
  have hfree : class0Core s3 c = false := (class0Core_congr hevent.img hevent.streams c).trans h.free
  have hs3 : s3.grp c g = x.trap code detail lane why := (grp_of_cores hevent.cores c g).trans hs2
  have hstep : x.stepping = true := h.stepping
  rw [if_pos (by simp [hstep, hfree])]
  refine List.foldlRecOn _ _ (motive := fun t : State => t.grp c g = x.trap code detail lane why) hs3 fun t ht k _ => ?_
  split
  · exact ht
  next hk => rw [State.updGrp, grp_setGrp_ne _ _ _ fun e => hk (.inl e.symm)]; exact ht

theorem takeTrap_settled {s : State} {c g : Nat} (h : VisorSteps s c g) (code detail lane why : Nat) :
    ((takeTrap s c g code detail lane why).grp c g).Settled := by
  rw [takeTrap_grp h]; exact .of_stall (by simp [Group.trap])

theorem descTrap_settled {s : State} {c g : Nat} (h : VisorSteps s c g) (code cause : Nat) :
    ((descTrap s c g code cause).grp c g).Settled := by
  refine takeTrap_settled (h.updCore ?_) ..
  exact fun _ => rfl

/-! ### Instructions of a stepped group -/

/-- The instruction leaves a stepped group running, or with nothing to be tried again. -/
def Settles (f : Body) : Prop := ∀ s c g w, VisorSteps s c g → ((f s c g w .ok).grp c g).Settled

theorem updGrp_settled {s : State} {c g : Nat} {f : Group → Group} (h : (f (s.grp c g)).Settled) :
    ((s.updGrp c g f).grp c g).Settled := by rw [grp_updGrp]; exact h

theorem updGrp_next_settled (s : State) (c g : Nat) : ((s.updGrp c g Group.next).grp c g).Settled :=
  updGrp_settled (Group.settled_next _)

theorem setGrp_settled {s : State} {c g : Nat} {y : Group} (h : y.Settled) : ((s.setGrp c g y).grp c g).Settled := by
  rw [grp_setGrp]; exact h

/-- A group that is told to try again does run. -/
theorem stallRetry_settled {s : State} {c g : Nat} (h : (s.grp c g).st = .running) :
    ((stallRetry s c g).grp c g).Settled := updGrp_settled (.of_running h)

theorem aluBody_settled (f : Nat → Nat → Nat → Nat → Nat) (s : State) (c g w : Nat) (e : Ecc) :
    ((aluBody f s c g w e).grp c g).Settled := updGrp_settled (Group.settled_next _)

theorem bodyCvt_settles : Settles bodyCvt := fun s c g w _ => by
  unfold bodyCvt; dsimp only
  rw [orFlags_grp]; exact setGrp_settled (Group.settled_next _)

theorem bodySfEval_settles : Settles bodySfEval := fun s c g w _ => by
  unfold bodySfEval; dsimp only
  rw [orFlags_grp, grp_updCore]
  · exact setGrp_settled (Group.settled_next _)
  · exact fun _ => rfl

theorem bodyRowstat_settles : Settles bodyRowstat := fun s c g w h => by
  unfold bodyRowstat; extract_lets x a n bf e
  split
  · exact takeTrap_settled h ..
  · rw [orFlags_grp, grp_updCore]
    · exact setGrp_settled (Group.settled_next _)
    · exact fun _ => rfl

/-! Memory -/

theorem setAlert_cores (s : State) : (setAlert s).cores = s.cores := by unfold setAlert; split <;> rfl

/-- The W1C fields outside the core blocks lie outside the cores. -/
theorem blockW1c_cores {s t : State} {o m : Nat} (h : blockW1c s o m = some t) : t.cores = s.cores := by
  have hfit : ∀ o, fitW1c s o m = some t → t.cores = s.cores := fun o h => by
    unfold fitW1c at h
    repeat' split at h
    all_goals cases h
    all_goals rfl
  have hslice : ∀ n o, sliceW1c s n o m = some t → t.cores = s.cores := fun n o h => by
    unfold sliceW1c at h
    split at h
    all_goals cases h
    all_goals rfl
  unfold blockW1c at h
  split at h
  case h_4 => cases h; exact setAlert_cores _
  case h_10 =>
    split at h
    · exact hfit _ h
    · split at h
      · exact hslice _ _ h
      · repeat' split at h
        all_goals cases h
        all_goals exact updMc_cores ..
  all_goals cases h; rfl

/-- The W1C fields of a core lie outside its groups. -/
theorem coreW1c_groups {co d : Core} {o m : Nat} (h : coreW1c co o m = some d) : d.groups = co.groups := by
  unfold coreW1c at h
  split at h
  all_goals cases h
  all_goals rfl

theorem w1cWrite_grp {s t : State} {off m : Nat} (h : w1cWrite s off m = some t) (c g : Nat) : t.grp c g = s.grp c g := by
  unfold w1cWrite at h; dsimp only at h
  split at h
  next k r hat =>
    obtain ⟨d, hd, rfl⟩ := Option.map_eq_some_iff.mp h
    by_cases hk : c = k
    · subst hk; simp only [State.grp, core_setCore, Core.grp, coreW1c_groups hd]
    · simp only [State.grp, core_setCore_ne _ _ hk]
  · exact grp_of_cores (blockW1c_cores h) c g

@[simp] theorem storeCtlWord_grp (s : State) (off v c g : Nat) : (storeCtlWord s off v).grp c g = s.grp c g := by
  unfold storeCtlWord
  split
  next t ht => exact w1cWrite_grp ht c g
  · split
    · refine grp_updCore s _ ?_ c g
      exact fun _ => rfl
    · rfl

@[simp] theorem storeCtl_grp (s : State) (off : Nat) (bs : List Byte) (c g : Nat) : (storeCtl s off bs).grp c g = s.grp c g :=
  List.foldlRecOn _ _ (motive := fun t : State => t.grp c g = s.grp c g) rfl fun _ ht _ _ =>
    (storeCtlWord_grp ..).trans ht

theorem loadCtl_cores (s : State) (off n : Nat) : (loadCtl s off n).2.cores = s.cores := by
  unfold loadCtl; dsimp only; split <;> rfl

theorem storeKv_cores (s : State) (n c : Nat) (src : Src) (size : Nat) (bs : List Byte) :
    (storeKv s n c src size bs).2.cores = s.cores := by
  unfold storeKv; dsimp only; repeat' split
  all_goals rfl

/-- What an access does in control space leaves the groups alone. -/
theorem ctlParts_grp (s : State) (c g id size : Nat) (ts : List (Nat × Nat × ReqKind)) (k j : Nat) :
    (ctlParts s c g id size ts).st.grp k j = s.grp k j := by
  refine List.foldlRecOn _ _ (motive := fun p : CtlPart => p.st.grp k j = s.grp k j) rfl fun p hp t _ => ?_
  unfold ctlAccess; dsimp only
  split
  · rw [grp_of_cores (loadCtl_cores ..)]; exact hp
  · split
    · rw [grp_of_cores (storeKv_cores ..)]; exact hp
    · rw [storeCtl_grp]; exact hp
  · rw [grp_of_cores (loadCtl_cores ..)]; exact hp
  · exact hp

theorem sendReqs_cores (c cls : Nat) (rs : List (Nat × Req)) (s : State) : (sendReqs c cls rs s).2.2.cores = s.cores := by
  induction rs generalizing s with
  | nil => rfl
  | cons r rs ih =>
    unfold sendReqs; dsimp only; split
    · rw [ih, deliver_cores]
    · rfl

theorem sendRest_settled {s : State} {c g : Nat} (h : (s.grp c g).st = .running) (id : Nat) (rs : List (Nat × Req)) :
    ((sendRest s c g id rs).grp c g).Settled := by
  unfold sendRest; dsimp only
  split
  · exact updGrp_next_settled ..
  · refine stallRetry_settled ?_
    have hsent : ∀ f : Group → Group, (∀ x, (f x).st = x.st) →
        (((sendReqs c (s.coreClass c) rs s).2.2.updGrp c g f).grp c g).st = .running := fun f hf => by
      rw [grp_updGrp, hf, grp_of_cores (sendReqs_cores ..)]; exact h
    split
    · exact hsent (fun x => { x with outst := _ }) fun _ => rfl
    · exact hsent (fun x => { x with outst := _ }) fun _ => rfl

theorem deviceAccess_settled {s : State} {c g : Nat} (h : VisorSteps s c g) (w : Nat) (retire load : Bool) (regs : Nat)
    (mk : Group → List Nat → List (Nat × Nat × ReqKind)) :
    ((deviceAccess s c g w retire load regs mk).grp c g).Settled := by
  unfold deviceAccess; dsimp only
  split
  · exact sendRest_settled h.st ..
  · split
    · exact takeTrap_settled h ..
    · refine sendRest_settled ?_ _ _
      rw [grp_updGrp, ctlParts_grp]; exact h.st

/-- The addresses of a local access are checked: it traps, or it goes on in the state that it began in. -/
theorem localChecks_cases {s : State} {c g : Nat} (h : VisorSteps s c g) (w : Nat) (write : Bool) :
    (∃ t, localChecks s c g w write .ok = .error t ∧ (t.grp c g).Settled) ∨ localChecks s c g w write .ok = .ok s := by
  unfold localChecks; dsimp only
  split
  · exact .inl ⟨_, rfl, takeTrap_settled h ..⟩
  · exact .inr rfl

theorem bodyLd_settles : Settles bodyLd := fun s c g w h => by
  unfold bodyLd; dsimp only
  split
  · exact deviceAccess_settled h ..
  · obtain ⟨t, hchecks, ht⟩ | hchecks := localChecks_cases h w false
    · rw [hchecks]; exact ht
    · rw [hchecks]; exact updGrp_settled (Group.settled_next _)

theorem bodySt_settles : Settles bodySt := fun s c g w h => by
  unfold bodySt
  split
  · exact deviceAccess_settled h ..
  · obtain ⟨t, hchecks, ht⟩ | hchecks := localChecks_cases h w true
    · rw [hchecks]; exact ht
    · rw [hchecks]; exact updGrp_next_settled ..

theorem atomBody_settles (op : AtomOp) : Settles (atomBody op) := fun s c g w h => by
  unfold atomBody; dsimp only
  split
  · exact deviceAccess_settled h ..
  · obtain ⟨t, hchecks, ht⟩ | hchecks := localChecks_cases h w true
    · rw [hchecks]; exact ht
    · rw [hchecks]; exact updGrp_settled (Group.settled_next _)

theorem bodyFenceD_settles : Settles bodyFenceD := fun s c g w h => by
  unfold bodyFenceD
  split
  · exact stallRetry_settled h.st
  · exact updGrp_next_settled ..

theorem bodyCacheRetire_settles : Settles bodyCacheRetire := fun _ _ _ _ h => deviceAccess_settled h ..

/-! Descriptors and waits -/

theorem issueDesc_settles (tok : List Byte → Nat) (check : List Byte → Nat → Option Nat) (palm : Bool)
    (depth : Core → Nat) {put : Core → QEnt → Core} : Settles (issueDesc tok check palm depth put) :=
  fun s c g w h => by
    unfold issueDesc; dsimp only
    split
    · exact descTrap_settled h ..
    · split
      · exact stallRetry_settled h.st
      · exact updGrp_settled (Group.settled_next _)

theorem bodyWait_settles : Settles bodyWait := fun s c g w _ => by
  refine updGrp_settled ?_
  split
  · exact Group.settled_next _
  · split
    · exact .of_stall (by simp [finishWait_stall])
    · exact .of_stall (by simp)

/-! Fragments -/

theorem fragTrap_settled {s t : State} {c g : Nat} {open_ : Bool} {more : Bank → Bool} (h : VisorSteps s c g)
    (ht : fragTrap s c g open_ more = some t) : (t.grp c g).Settled := by
  unfold fragTrap at ht; extract_lets x ok at ht
  split at ht
  · cases ht; exact descTrap_settled h ..
  · split at ht
    · cases ht
    · cases ht; exact descTrap_settled h ..

theorem bodyFragOpen_settles : Settles bodyFragOpen := fun s c g w h => by
  unfold bodyFragOpen
  split
  next t ht => exact fragTrap_settled h ht
  · split
    · exact stallRetry_settled h.st
    · split
      · exact stallRetry_settled h.st
      · exact updGrp_next_settled ..

theorem bodyFragLdb_settles : Settles bodyFragLdb := fun s c g w h => by
  unfold bodyFragLdb; dsimp only
  split
  · exact takeTrap_settled h ..
  · split
    next t ht => exact fragTrap_settled h ht
    · split
      · exact stallRetry_settled h.st
      · exact updGrp_next_settled ..

theorem bodyFragMma_settles : Settles bodyFragMma := fun s c g w h => by
  unfold bodyFragMma; dsimp only
  split
  next t ht => exact fragTrap_settled h ht
  · split
    · exact stallRetry_settled h.st
    · exact updGrp_next_settled ..

theorem bodyFragRound_settles : Settles bodyFragRound := fun s c g w h => by
  unfold bodyFragRound; dsimp only
  split
  next t ht => exact fragTrap_settled h ht
  · split
    · exact .of_running h.st
    · split
      · exact stallRetry_settled h.st
      · rw [orFlags_grp]; exact updGrp_settled (Group.settled_next _)

/-! Control flow and barriers -/

theorem branch_stall {x y : Group} {w : Nat} (h : branch x w = some y) : y.stall = .none := by
  unfold branch at h; dsimp only at h
  repeat' split at h
  all_goals cases h
  all_goals rfl

theorem bodyBra_settles : Settles bodyBra := fun s c g w h => by
  unfold bodyBra
  split
  next y hy => exact setGrp_settled (.of_stall (by simp [branch_stall hy]))
  · exact takeTrap_settled h ..

theorem bodyJmpc_settles : Settles bodyJmpc := fun s c g w _ => by
  refine updGrp_settled ?_
  split
  · exact .of_stall (by simp [Group.goto, Group.next])
  · exact Group.settled_next _

theorem bodyExit_settles : Settles bodyExit := fun s c g w _ => by
  unfold bodyExit; dsimp only
  split
  · exact setGrp_settled (.of_stall (by simp [Group.next]))
  · exact endGroup_settled ..

theorem arrive_settles (wait : Bool) : Settles (arrive wait) := fun s c g w h => by
  unfold arrive; dsimp only
  split
  · exact takeTrap_settled h ..
  · split
    · exact takeTrap_settled h ..
    · refine updCore_settled (barTry_settled _ _ ?_)
      rw [core_setGrp]
      change ((Core.setGrp _ g _).grp g).Settled
      rw [grp_setGrp_core]
      split <;> exact .of_stall (by simp [Group.next])

/-- Every instruction of Table 8-2 leaves a stepped group running or with nothing to be tried again. The cases are numbered as
`bodyOf` lists the opcodes; those without a line of their own are of the ALU format. -/
theorem bodyOf_settles {op : Nat} {f : Body} (h : bodyOf op = some f) : Settles f := by
  unfold bodyOf at h
  split at h <;> cases h
  case h_26.refl => exact bodyCvt_settles
  case h_28.refl => exact bodyLd_settles
  case h_29.refl => exact bodySt_settles
  case h_30.refl | h_31.refl | h_32.refl | h_33.refl | h_34.refl | h_35.refl | h_36.refl | h_37.refl | h_38.refl |
      h_39.refl | h_40.refl => exact atomBody_settles _
  case h_41.refl => exact bodyFenceD_settles
  case h_42.refl => exact bodyCacheRetire_settles
  case h_43.refl | h_44.refl | h_45.refl => exact issueDesc_settles _ _ _ _
  case h_46.refl => exact bodyWait_settles
  case h_47.refl => exact bodyFragOpen_settles
  case h_48.refl => exact bodyFragLdb_settles
  case h_49.refl => exact bodyFragMma_settles
  case h_50.refl => exact bodyFragRound_settles
  case h_51.refl => exact bodyBra_settles
  case h_53.refl => exact bodyJmpc_settles
  case h_52.refl | h_54.refl | h_57.refl | h_60.refl =>
    exact fun _ _ _ _ _ => updGrp_settled (.of_stall (by simp [Group.goto, Group.next]))
  case h_55.refl => exact bodyExit_settles
  case h_56.refl => exact fun _ _ _ _ h => takeTrap_settled h ..
  case h_58.refl | h_59.refl => exact arrive_settles _
  case h_61.refl => exact bodySfEval_settles
  case h_62.refl => exact bodyRowstat_settles
  all_goals exact fun _ _ _ _ _ => aluBody_settled ..

/-! ### The step -/

theorem popStops_rest (k : Nat) (x : Group) :
    { popStops k x with pc := x.pc, mask := x.mask, stop := x.stop, stack := x.stack } = x := by
  induction k generalizing x with
  | zero => rfl
  | succ k ih =>
    unfold popStops
    split
    · split
      next e es hstack =>
        exact congrArg (fun y : Group => { y with pc := x.pc, mask := x.mask, stop := x.stop, stack := x.stack })
          (ih { x with pc := e.pc, mask := e.mask, stop := e.stop, stack := es })
      · rfl
    · rfl

theorem VisorSteps.setGrp {s : State} {c g : Nat} {y : Group} (h : VisorSteps s c g) (hst : y.st = (s.grp c g).st)
    (hstepping : y.stepping = (s.grp c g).stepping) (hskip : y.skipBp = (s.grp c g).skipBp) :
    VisorSteps (s.setGrp c g y) c g where
  st := by rw [grp_setGrp, hst, h.st]
  stepping := by rw [grp_setGrp, hstepping, h.stepping]
  skipBp := by rw [grp_setGrp, hskip, h.skipBp]
  free := h.free

/-- How an issue attempt of a stepped group ends: running and stepped still, or trapped. -/
theorem issue_stepped {s : State} {c g : Nat} (h : VisorSteps s c g) :
    (∃ t, issue s c g none .ok = .stop t ∧ (t.grp c g).Settled) ∨
      ∃ t w, issue s c g none .ok = .go t w ∧ VisorSteps t c g := by
  have hrest := popStops_rest 33 (s.grp c g)
  unfold issue
  split
  · exact .inl ⟨s, rfl, .of_running h.st⟩
  split
  · exact .inl ⟨_, rfl, takeTrap_settled h ..⟩
  extract_lets x pc s1
  have hs1 : VisorSteps s1 c g := by
    unfold s1; split
    · exact h.setGrp (congrArg Group.st hrest :) (congrArg Group.stepping hrest :) (congrArg Group.skipBp hrest :)
    · exact h
  have hskip : x.skipBp = true := (congrArg Group.skipBp hrest :).trans h.skipBp
  split
  · exact .inl ⟨_, rfl, takeTrap_settled hs1 ..⟩
  split
  · exact .inl ⟨s, rfl, .of_running h.st⟩
  rw [hskip]
  simp only [Bool.not_true, Bool.and_false, Bool.false_and, Bool.false_eq_true, if_false, Option.any_none, badSource]
  split
  · exact .inl ⟨_, rfl, takeTrap_settled hs1 ..⟩
  split
  · exact .inl ⟨_, rfl, takeTrap_settled hs1 ..⟩
  split
  · exact .inl ⟨s, rfl, .of_running h.st⟩
  · exact .inr ⟨_, _, rfl, hs1⟩

/-- A step that is over: the group runs still, or it says so. -/
def StepOver (x : Group) : Prop := x.st ≠ .running → x.stepDone = true ∧ x.stepping = false

/-- What the end of a step makes of its group (R153). -/
def Group.endStep (x : Group) : Group :=
  if x.stall = .retry then x
  else if x.st = .running then { x with st := .halted, haltCause := 2, stepDone := true, stepping := false, skipBp := false }
  else { x with stepDone := true, stepping := false }

@[simp] theorem endStep_grp (s : State) (c g : Nat) : (endStep true s c g).grp c g = (s.grp c g).endStep := by
  rw [endStep, if_pos rfl, grp_updGrp, Group.endStep]

theorem Group.Settled.stepOver {x : Group} (h : x.Settled) : StepOver x.endStep := by
  intro hst
  unfold Group.endStep at hst ⊢
  split at hst
  next hretry => exact absurd (h.running hretry) hst
  next hretry =>
    rw [if_neg hretry]
    split <;> exact ⟨rfl, rfl⟩

theorem Group.endStep_of_running {x : Group} (hst : x.st = .running) (hstall : x.stall ≠ .retry) :
    x.endStep = { x with st := .halted, haltCause := 2, stepDone := true, stepping := false, skipBp := false } :=
  (if_neg hstall).trans (if_pos hst)

theorem Group.endStep_of_stopped {x : Group} (hst : x.st ≠ .running) (hstall : x.stall ≠ .retry) :
    x.endStep = { x with stepDone := true, stepping := false } := (if_neg hstall).trans (if_neg hst)

theorem VisorSteps.stepped {s : State} {c g : Nat} (h : VisorSteps s c g) : (s.grp c g).stepped = true := by
  simp [Group.stepped, h.st, h.stepping]

/-- The effect of an opcode, none where Table 8-2 has none. -/
def anyBody : Body := fun t c g w ecc =>
  match bodyOf (major w) with
  | some f => f t c g w ecc
  | none => t

theorem anyBody_settles : Settles anyBody := fun s c g w h => by
  unfold anyBody
  split
  next f hf => exact bodyOf_settles hf s c g w h
  · exact .of_running h.st

/-- One issue attempt of a step ends with the group running still, or its step over. -/
theorem finishIssue_stepOver {s : State} {c g : Nat} (h : VisorSteps s c g) :
    StepOver ((finishIssue s c g .ok anyBody (issue s c g none .ok)).grp c g) := by
  obtain ⟨t, hissue, ht⟩ | ⟨t, w, hissue, ht⟩ := issue_stepped h <;> rw [hissue, finishIssue, h.stepped]
  · split
    next hst => exact fun hn => absurd hst hn
    · rw [endStep_grp]; exact ht.stepOver
  · rw [endStep_grp]; exact (anyBody_settles t c g w ht).stepOver

theorem finishWait_st (x : Group) (sel m : Nat) : (finishWait x sel m).st = x.st := by
  have hwr := fun (y : Group) v => (congrArg Group.st (wrN_rest 1 y sel 0 v) :)
  refine (hwr _ _).trans ?_
  exact List.foldlRecOn _ _ (motive := fun y : Group => y.st = x.st) rfl fun y hy k _ => hy

/-- Another look at a wait or a barrier leaves a running group running, with nothing to be tried again. -/
theorem endWait_waits {x : Group} (hst : x.st = .running) (h : ∃ a b, x.stall = .tokens a b) :
    (endWait x).st = .running ∧ (endWait x).stall ≠ .retry := by
  obtain ⟨sel, m, hstall⟩ := h
  simp only [endWait, hstall]
  split
  · exact ⟨(finishWait_st ..).trans hst, by simp [finishWait_stall]⟩
  · exact ⟨hst, by simp [hstall]⟩

theorem passBarrier_waits {x : Group} (hst : x.st = .running) (h : ∃ b, x.stall = .barrier b) :
    (passBarrier x).st = .running ∧ (passBarrier x).stall ≠ .retry := by
  obtain ⟨b, hstall⟩ := h
  simp only [passBarrier, hstall]
  split
  · exact ⟨hst, by simp [hstall]⟩
  · exact ⟨hst, by simp⟩

/-- R152: a step of a group in a wait or at a barrier looks at the stall again, and the group is halted. -/
theorem stepOne_of_waits {s : State} {c g : Nat} (hst : (s.grp c g).st = .running)
    (h : (∃ a b, (s.grp c g).stall = .tokens a b) ∨ ∃ b, (s.grp c g).stall = .barrier b) :
    ∃ y : Group, (stepOne s c g .ok).grp c g =
      { y with st := .halted, haltCause := 2, stepDone := true, stepping := false, skipBp := false } := by
  obtain h | h := h
  · obtain ⟨hrun, hstall⟩ := endWait_waits hst h
    obtain ⟨a, b, h⟩ := h
    refine ⟨endWait (s.grp c g), ?_⟩
    rw [← Group.endStep_of_running hrun hstall, stepOne, h]
    simp
  · obtain ⟨hrun, hstall⟩ := passBarrier_waits hst h
    obtain ⟨b, h⟩ := h
    refine ⟨passBarrier (s.grp c g), ?_⟩
    rw [← Group.endStep_of_running hrun hstall, stepOne, h]
    simp

/-- The state in which a step's instruction is fetched. -/
def refilled (s : State) (c g : Nat) : State :=
  let x := popStops 33 (s.grp c g)
  if (fetched x x.pc.toNat).isNone && pcOk (s.core c) x.pc.toNat then s.setGrp c g (refill (s.core c) x) else s

/-- A group that waits for nothing attempts to issue. -/
theorem stepOne_of_issues {s : State} {c g : Nat} (h : (s.grp c g).stall = .none ∨ (s.grp c g).stall = .retry) :
    stepOne s c g .ok = finishIssue (refilled s c g) c g .ok anyBody (issue (refilled s c g) c g none .ok) := by
  obtain h | h := h <;> · rw [stepOne, h]; rfl

theorem refilled_stepped {s : State} {c g : Nat} (h : VisorSteps s c g) : VisorSteps (refilled s c g) c g := by
  have hrest := popStops_rest 33 (s.grp c g)
  unfold refilled; extract_lets x
  split
  · exact h.setGrp (congrArg Group.st hrest :) (congrArg Group.stepping hrest :) (congrArg Group.skipBp hrest :)
  · exact h

theorem stepOne_stepOver {s : State} {c g : Nat} (h : VisorSteps s c g) : StepOver ((stepOne s c g .ok).grp c g) := by
  cases hstall : (s.grp c g).stall with
  | none => rw [stepOne_of_issues (.inl hstall)]; exact finishIssue_stepOver (refilled_stepped h)
  | retry => rw [stepOne_of_issues (.inr hstall)]; exact finishIssue_stepOver (refilled_stepped h)
  | tokens a b =>
    obtain ⟨y, hy⟩ := stepOne_of_waits h.st (.inl ⟨a, b, hstall⟩)
    rw [hy]; exact fun _ => ⟨rfl, rfl⟩
  | barrier b =>
    obtain ⟨y, hy⟩ := stepOne_of_waits h.st (.inr ⟨b, hstall⟩)
    rw [hy]; exact fun _ => ⟨rfl, rfl⟩

section Comes

variable {s : State} {c g w : Nat} (h : VisorSteps s c g) (hcomes : Comes s c g w)
include hcomes

/-- The word that the group comes to is in its fetch buffer. -/
theorem stepOne_of_comes : stepOne s c g .ok = finishIssue s c g .ok anyBody (issue s c g none .ok) := by
  obtain ⟨-, -, hstall, -, hstop, -, hfetch, -⟩ := hcomes
  have hs : refilled s c g = s := by simp [refilled, popStops_of_ne _ _ hstop, hfetch]
  rw [stepOne_of_issues hstall, hs]

include h

/-- R159: an illegal word traps, and the block is held. -/
theorem stepOne_of_illegal (hlegal : legal w = false) : (stepOne s c g .ok).grp c g =
    { (s.grp c g).trap 1 (major w) 0 0 with stepDone := true, stepping := false } := by
  have htrap := takeTrap_grp h 1 (major w) 0 0
  rw [stepOne_of_comes hcomes, issue_of_comes hcomes, hlegal]
  simp only [Bool.false_eq_true, if_false, finishIssue, htrap, h.stepped]
  rw [if_neg (by simp [Group.trap]), endStep_grp, htrap, Group.endStep_of_stopped] <;> simp [Group.trap]

/-- R174: an operand on its way leaves the group running. -/
theorem stepOne_of_hazard (hlegal : legal w = true)
    (hhazard : (s.grp c g).hazard (operandsOf (s.core c) g w) = true) : stepOne s c g .ok = s := by
  rw [stepOne_of_comes hcomes, issue_of_comes hcomes, hlegal, hhazard]
  simp [finishIssue, h.st]

/-- R153: the instruction issues, and the step ends. -/
theorem stepOne_of_issued (hlegal : legal w = true)
    (hhazard : (s.grp c g).hazard (operandsOf (s.core c) g w) = false) {f : Body} (hf : bodyOf (major w) = some f) :
    (stepOne s c g .ok).grp c g = ((f s c g w .ok).grp c g).endStep := by
  rw [stepOne_of_comes hcomes, issue_of_comes hcomes, hlegal, hhazard]
  simp [finishIssue, h.stepped, anyBody, hf]

end Comes

/-! ### The Visor's command -/

@[simp] theorem visorAnswer_grp (s : State) (status c g : Nat) : (visorAnswer s status).grp c g = s.grp c g := rfl

/-- The state of a BAR write that the module takes (R264). -/
def barCounted (s : State) : State := { s with hlk := { s.hlk with barTicks := recent s s.hlk.barTicks ++ [s.now] } }

theorem barWrite_of_open {s : State} (h : BarOpen s) (f : State → State) : barWrite s f = f (barCounted s) := by
  obtain ⟨hup, hhost, hticks⟩ := h
  simp [barWrite, barCounted, hup, hhost, hticks]

theorem visorCmd_of_session {s : State} (hsession : s.vis.until_.isSome = true) (hcore : s.vis.core < 272)
    (hon : s.coreOn s.vis.core = true) (f : State → Nat → Nat → State) :
    visorCmd s f = f (s.updGrp s.vis.core s.vis.group fun x => { x with stepDone := false }) s.vis.core s.vis.group := by
  have hnone : s.vis.until_.isNone = false := by simpa using hsession
  have hunit : ¬(Config.cores ≤ s.vis.core ∨ (!s.coreOn s.vis.core) = true) := by
    simp [hon, Config.cores, hcore]
  unfold visorCmd; dsimp only
  rw [hnone, if_neg Bool.false_ne_true, if_neg hunit]

theorem stepGroup_of_halted {s : State} {c g : Nat} (hfree : class0Core s c = false) (hst : (s.grp c g).st = .halted) :
    stepGroup .ok s c g =
      visorAnswer (stepOne (s.setGrp c g { s.grp c g with st := .running, skipBp := true, stepping := true }) c g .ok) 0 := by
  simp [stepGroup, hfree, hst, State.updGrp, Group.unhalt]

/-- Settles O42: the step of each group that the Visor may hold. -/
theorem visorStepIssuesOne : Obligations.VisorStepIssuesOne := by
  intro s hopen hsession hcore hon c g x hfree hhalted v u
  have hexec : exec (.visorStep .ok) s = .next (visorAnswer (stepOne u c g .ok) 0) := by
    have hx : (v.setGrp c g x).grp c g = x := grp_setGrp ..
    have hstep := stepGroup_of_halted (s := v.setGrp c g x) (g := g) hfree (by rw [hx]; exact hhalted)
    rw [hx] at hstep
    refine congrArg Host.Outcome.next ?_
    exact (barWrite_of_open hopen _).trans
      ((visorCmd_of_session (s := v) hsession hcore hon _).trans hstep)
  have hgrp : u.grp c g = { x with st := .running, skipBp := true, stepping := true } := grp_setGrp ..
  have hsteps : VisorSteps u c g := ⟨by rw [hgrp], by rw [hgrp], by rw [hgrp], hfree⟩
  clear_value u
  rw [hexec]
  refine ⟨⟨_, rfl, rfl, ?_⟩, fun hwaits => ⟨_, rfl, ?_⟩, fun w hcomes =>
    ⟨fun hlegal => ⟨_, rfl, ?_⟩, fun hlegal hhazard => ?_, fun hlegal hhazard f hf hrun => ⟨_, rfl, ?_⟩⟩⟩
  · rw [visorAnswer_grp]; exact stepOne_stepOver hsteps
  · obtain ⟨y, hy⟩ := stepOne_of_waits hsteps.st (by rw [hgrp]; exact hwaits)
    rw [visorAnswer_grp, hy]; exact ⟨rfl, rfl, rfl⟩
  · rw [visorAnswer_grp, stepOne_of_illegal hsteps hcomes hlegal]; exact ⟨rfl, rfl, rfl⟩
  · rw [stepOne_of_hazard hsteps hcomes hlegal (by rw [hgrp]; exact hhazard)]
  · rw [visorAnswer_grp, stepOne_of_issued hsteps hcomes hlegal (by rw [hgrp]; exact hhazard) hf, Group.endStep, hrun]
    rfl

end Sys2Proof.Machine

end

section
/-! What leaves the host link as it is, and what leaves its counts of host writes (R264) as they are. -/

namespace Sys2Proof.Machine

/-! ### The counts of host writes -/

/-- The ticks of the host writes that the module counts under R264: those of its BARs and those of configuration space. -/
def Hlk.writeTicks (h : Hlk) : List Nat × List Nat := (h.barTicks, h.cfgTicks)

theorem foldl_keeps {α β : Type} (p : State → β) {f : State → α → State} (hf : ∀ s a, p (f s a) = p s) (l : List α)
    (s : State) : p (l.foldl f s) = p s :=
  List.foldlRecOn l f (motive := fun t => p t = p s) rfl fun t ht a _ => (hf t a).trans ht

theorem foldl_hlk {α : Type} {f : State → α → State} (hf : ∀ s a, (f s a).hlk = s.hlk) (l : List α) (s : State) :
    (l.foldl f s).hlk = s.hlk := foldl_keeps State.hlk hf l s

theorem foldl_writeTicks {α : Type} {f : State → α → State}
    (hf : ∀ s a, (f s a).hlk.writeTicks = s.hlk.writeTicks) (l : List α) (s : State) :
    (l.foldl f s).hlk.writeTicks = s.hlk.writeTicks := foldl_keeps (fun t => t.hlk.writeTicks) hf l s

/-! ### Cores, groups and streams -/

@[simp] theorem updCore_hlk (s : State) (c : Nat) (f : Core → Core) : (s.updCore c f).hlk = s.hlk := rfl
@[simp] theorem setGrp_hlk (s : State) (c g : Nat) (x : Group) : (s.setGrp c g x).hlk = s.hlk := rfl
@[simp] theorem updGrp_hlk (s : State) (c g : Nat) (f : Group → Group) : (s.updGrp c g f).hlk = s.hlk := rfl
@[simp] theorem storeLm_hlk (s : State) (c : Nat) (ws : List (Nat × Byte)) : (s.storeLm c ws).hlk = s.hlk := rfl
@[simp] theorem updStream_hlk (s : State) (n : Nat) (f : Stream → Stream) : (s.updStream n f).hlk = s.hlk := rfl
@[simp] theorem updReq_hlk (s : State) (n slot : Nat) (f : ReqSt → ReqSt) : (updReq s n slot f).hlk = s.hlk := rfl
@[simp] theorem stallRetry_hlk (s : State) (c g : Nat) : (stallRetry s c g).hlk = s.hlk := rfl
@[simp] theorem issued_hlk (s : State) (c g k : Nat) : (issued s c g k).hlk = s.hlk := rfl
@[simp] theorem takeA0_hlk (s : State) (c n : Nat) : (takeA0 s c n).hlk = s.hlk := rfl
@[simp] theorem countHeld_hlk (s : State) (cls : Nat) : (countHeld s cls).hlk = s.hlk := rfl
@[simp] theorem visorAnswer_hlk (s : State) (status : Nat) : (visorAnswer s status).hlk = s.hlk := rfl
@[simp] theorem endStep_hlk (stepped : Bool) (s : State) (c g : Nat) : (endStep stepped s c g).hlk = s.hlk := by
  unfold endStep; split <;> rfl
@[simp] theorem orFlags_hlk (s : State) (c fl : Nat) : (orFlags s c fl).hlk = s.hlk := by
  unfold orFlags; split <;> rfl
@[simp] theorem abortGoesOn_hlk (s : State) : (abortGoesOn s).hlk = s.hlk := by
  unfold abortGoesOn; split
  · split <;> rfl
  · rfl
@[simp] theorem answer_hlk (s : State) (r : Req) (res : Except Nat (List (Nat × Nat))) :
    (answer s r res).hlk = s.hlk := by
  unfold answer; split <;> rfl

/-! ### Events and corrections -/

@[simp] theorem logEvent_hlk (s : State) (ev : EvRec) : (logEvent s ev).hlk = s.hlk := rfl
@[simp] theorem correction_hlk (s : State) (source ut uid code detail : Nat) :
    (correction s source ut uid code detail).hlk = s.hlk := by
  unfold correction; dsimp only; split <;> rfl
@[simp] theorem raiseFault_hlk (s : State) (ut id reason : Nat) : (raiseFault s ut id reason).hlk = s.hlk := by
  unfold raiseFault; repeat' split
  all_goals rfl
@[simp] theorem faultEvent_hlk (s : State) (ev : EvRec) : (faultEvent s ev).hlk = s.hlk := by simp [faultEvent]
@[simp] theorem faultIf_hlk (s : State) (c0 : Bool) (ev : EvRec) : (faultIf s c0 ev).hlk = s.hlk := by
  unfold faultIf; split <;> simp
@[simp] theorem faultPart_hlk (s : State) (ev : EvRec) : (faultPart s ev).hlk = s.hlk := by
  unfold faultPart; split <;> simp
@[simp] theorem coreCorrection_hlk (s : State) (c : Nat) : (coreCorrection s c).hlk = s.hlk := by simp [coreCorrection]
@[simp] theorem noteRow_hlk (s : State) (c kind row : Nat) : (noteRow s c kind row).hlk = s.hlk := by
  unfold noteRow; dsimp only; split <;> rfl
@[simp] theorem lmEcc_hlk (s : State) (c : Nat) (e : Ecc) : (lmEcc s c e).hlk = s.hlk := by
  unfold lmEcc; split <;> simp
@[simp] theorem regEcc_hlk (s : State) (c g : Nat) (e : Ecc) : (regEcc s c g e).hlk = s.hlk := by
  unfold regEcc; split <;> simp
@[simp] theorem tableEcc_hlk (s : State) (c : Nat) (e : Ecc) : (tableEcc s c e).hlk = s.hlk := by
  unfold tableEcc; split <;> simp

/-! ### The memory tiers -/

@[simp] theorem updSlice_hlk (s : State) (n : Nat) (f : Slice → Slice) : (s.updSlice n f).hlk = s.hlk := rfl
@[simp] theorem setMc_hlk (s : State) (lpddr : Bool) (n : Nat) (v : Ctlr) : (s.setMc lpddr n v).hlk = s.hlk := by
  unfold State.setMc; split <;> rfl
@[simp] theorem updMc_hlk (s : State) (lpddr : Bool) (n : Nat) (f : Ctlr → Ctlr) :
    (s.updMc lpddr n f).hlk = s.hlk := by simp [State.updMc]
@[simp] theorem admitCtl_hlk (s : State) (lpddr : Bool) (c : Nat) : (admitCtl s lpddr c).hlk = s.hlk := by
  unfold admitCtl; dsimp only; split
  · rfl
  · exact setMc_hlk ..
@[simp] theorem chargeCtl_hlk (s : State) (lpddr : Bool) (c cls : Nat) : (chargeCtl s lpddr c cls).hlk = s.hlk := by
  unfold chargeCtl; dsimp only; split <;> simp [countOver]
@[simp] theorem chargeSlice_hlk (s : State) (k cls n : Nat) : (chargeSlice s k cls n).hlk = s.hlk := by
  unfold chargeSlice; dsimp only; split <;> rfl
@[simp] theorem toChannel_hlk (s : State) (r : MemReq) : (toChannel s r).hlk = s.hlk := by simp [toChannel]
@[simp] theorem queueWrite_hlk (s : State) (n line cls : Nat) (ws : List (Nat × Byte)) :
    (queueWrite s n line cls ws).hlk = s.hlk := by simp [queueWrite]
@[simp] theorem memError_hlk (s : State) (lpddr : Bool) (ch cause cls line : Nat) :
    (memError s lpddr ch cause cls line).hlk = s.hlk := by simp [memError]
@[simp] theorem pageCorrection_hlk (s : State) (c : Nat) : (pageCorrection s c).hlk = s.hlk := by simp [pageCorrection]
@[simp] theorem pageError_hlk (s : State) (c p cause cls line : Nat) : (pageError s c p cause cls line).hlk = s.hlk := by
  unfold pageError; split <;> simp
@[simp] theorem fetchPage_hlk (s : State) (c p cls : Nat) (noise : LpNoise) :
    (fetchPage s c p cls noise).2.hlk = s.hlk := by
  unfold fetchPage; dsimp only
  split
  · rfl
  · split <;> simp [apply_ite State.hlk]
@[simp] theorem setCtr_hlk (s : State) (c p : Nat) (e : CtrEnt) : (s.setCtr c p e).hlk = s.hlk := by simp [State.setCtr]
@[simp] theorem rollover_hlk (s : State) (c p : Nat) : (rollover s c p).hlk = s.hlk := by simp [rollover]
@[simp] theorem writePage_hlk (s : State) (c p : Nat) (plain : List Byte) (poison : Bool) :
    (writePage s c p plain poison).hlk = s.hlk := by
  simp [writePage, apply_ite State.hlk]
@[simp] theorem drainEntry_hlk (s : State) (c i : Nat) (noise : LpNoise) : (drainEntry s c i noise).hlk = s.hlk := by
  unfold drainEntry; dsimp only
  split
  · rfl
  · split
    · simp
    · split
      · simp only [writePage_hlk, chargeCtl_hlk, updMc_hlk]
      · split <;> simp only [logEvent_hlk, writePage_hlk, chargeCtl_hlk, fetchPage_hlk, updMc_hlk]
@[simp] theorem makeMergeRoom_hlk (k : Nat) (s : State) (c p cls : Nat) : (makeMergeRoom k s c p cls).hlk = s.hlk := by
  induction k generalizing s with
  | zero => rfl
  | succ k ih =>
    unfold makeMergeRoom; dsimp only; split
    · rfl
    · simp [ih]
@[simp] theorem dieWrite_hlk (s : State) (line : Nat) (ws : List (Nat × Byte)) : (dieWrite s line ws).hlk = s.hlk := by
  unfold dieWrite; repeat' split
  all_goals rfl
@[simp] theorem updBad_hlk (s : State) (c line : Nat) (f : List Nat → List Nat) : (updBad s c line f).hlk = s.hlk := by
  unfold updBad; split <;> simp
@[simp] theorem bondedStore_hlk (s : State) (c line : Nat) (ws : List (Nat × Byte)) :
    (bondedStore s c line ws).hlk = s.hlk := by simp [bondedStore, soundAfter]
@[simp] theorem storeAtCtl_hlk (s : State) (lpddr : Bool) (c line cls : Nat) (ws : List (Nat × Byte)) :
    (storeAtCtl s lpddr c line cls ws).hlk = s.hlk := by
  unfold storeAtCtl; dsimp only; split <;> simp
@[simp] theorem backingLine_hlk (s : State) (line cls : Nat) : (backingLine s line cls).2.hlk = s.hlk := by
  unfold backingLine; dsimp only
  split
  · split
    · simp
    · have hpage := fetchPage_hlk (chargeCtl s (channelOf (256 * line)).1 (channelOf (256 * line)).2 cls)
        (channelOf (256 * line)).2 (pageOf (256 * line)).2.1 cls quiet
      split
      next hok => rw [hok] at hpage; simpa using hpage
      next herr => rw [herr] at hpage; simpa using hpage
  · split <;> simp
@[simp] theorem writeBack_hlk (s : State) (n line cls : Nat) (ws : List (Nat × Byte)) :
    (writeBack s n line cls ws).hlk = s.hlk := by
  unfold writeBack; dsimp only; split
  · rfl
  · split
    · simp
    · simp [foldl_hlk]

/-! ### Lines of a slice -/

@[simp] theorem joinMiss_hlk (s : State) (k : Nat) (r : Req) : (joinMiss s k r).hlk = s.hlk := rfl
@[simp] theorem countMerge_hlk (s : State) (k cls : Nat) : (countMerge s k cls).hlk = s.hlk := rfl
@[simp] theorem sendBack_hlk (s : State) (n : Nat) (r : Req) : (sendBack s n r).hlk = s.hlk := rfl
@[simp] theorem release_hlk (s : State) (n : Nat) : (release s n).hlk = s.hlk := by
  unfold release; dsimp only; split <;> rfl
@[simp] theorem deliver_hlk (s : State) (n : Nat) (r : Req) : (deliver s n r).hlk = s.hlk := by simp [deliver]

section Send

variable {send : State → Nat → Nat → Nat → List (Nat × Byte) → State}
  (hsend : ∀ s n line cls ws, (send s n line cls ws).hlk = s.hlk)
include hsend

theorem evict_hlk (s : State) (n set way cls : Nat) : (evict send s n set way cls).hlk = s.hlk := by
  unfold evict; dsimp only; split <;> simp [hsend]
theorem allocate_hlk (s : State) (n : Nat) (h : Home) (w : Option WinRec) (cls : Nat) :
    (allocate send s n h w cls).2.hlk = s.hlk := by
  unfold allocate; split
  · rfl
  · simp [evict_hlk hsend]
theorem storeLine_hlk (s : State) (k : Nat) (h : Home) (cls : Nat) (ws : List (Nat × Byte)) :
    (storeLine send s k h cls ws).hlk = s.hlk := by
  have hplace := allocate_hlk hsend (s.updSlice k fun sl => undead sl (h.backing / 256)) k h (windowAt s h.backing) cls
  unfold storeLine; dsimp only; split
  · rfl
  · split
    next hat => simpa [hat] using hplace
    next hbypass => simpa [hbypass, hsend] using hplace

end Send

@[simp] theorem startMiss_hlk (s : State) (k : Nat) (h : Home) (r : Req) : (startMiss s k h r).hlk = s.hlk := by
  simp only [startMiss, toChannel_hlk, updSlice_hlk]
  split
  · rfl
  · exact allocate_hlk queueWrite_hlk ..
@[simp] theorem missOf_hlk (s : State) (k : Nat) (h : Home) (r : Req) : (missOf s k h r).hlk = s.hlk := by
  simp [missOf, apply_ite State.hlk]
@[simp] theorem readLine_hlk (s : State) (k set way : Nat) (r : Req) : (readLine s k set way r).hlk = s.hlk :=
  answer_hlk ..
@[simp] theorem storeFilled_hlk (s : State) (k : Nat) (h : Home) (cls : Nat) (ws : List (Nat × Byte)) :
    (storeFilled s k h cls ws).hlk = s.hlk := by
  unfold storeFilled; dsimp only; split <;> simp
@[simp] theorem readFilled_hlk (s : State) (k : Nat) (h : Home) (pre : Nat) (b : List Byte) (off n : Nat) :
    (readFilled s k h pre b off n).2.hlk = s.hlk := by
  unfold readFilled; dsimp only
  split <;> simp [apply_ite State.hlk]
@[simp] theorem fetchFill_hlk (s : State) (k L : Nat) : (fetchFill s k L).2.hlk = s.hlk := by
  unfold fetchFill; dsimp only; split <;> simp
@[simp] theorem sendReqs_hlk (c cls : Nat) (rs : List (Nat × Req)) (s : State) : (sendReqs c cls rs s).2.2.hlk = s.hlk := by
  induction rs generalizing s with
  | nil => rfl
  | cons r rs ih =>
    unfold sendReqs; dsimp only; split
    · rw [ih, deliver_hlk]
    · rfl
@[simp] theorem sendRest_hlk (s : State) (c g id : Nat) (rs : List (Nat × Req)) : (sendRest s c g id rs).hlk = s.hlk := by
  simp [sendRest, apply_ite State.hlk]

end Sys2Proof.Machine

end

section
/-! What reaches the host-line directory, a request's end, a trap or control space leaves the counts of host writes (R264)
as they are. -/

namespace Sys2Proof.Machine

/-! ### The host-line directory -/

@[simp] theorem sendSnp_writeTicks (s : State) (data : Bool) (l : Nat) :
    (sendSnp s data l).hlk.writeTicks = s.hlk.writeTicks := rfl
@[simp] theorem dirInvalidate_writeTicks (s : State) (l : Nat) :
    (dirInvalidate s l).hlk.writeTicks = s.hlk.writeTicks := by
  unfold dirInvalidate; split <;> rfl
@[simp] theorem dirInvRange_writeTicks (s : State) (a n : Nat) :
    (dirInvRange s a n).hlk.writeTicks = s.hlk.writeTicks := foldl_writeTicks dirInvalidate_writeTicks _ s
@[simp] theorem dirRecall_writeTicks (s : State) (a n : Nat) :
    (dirRecall s a n).2.hlk.writeTicks = s.hlk.writeTicks :=
  foldl_writeTicks (fun t l => by split <;> simp) _ s
@[simp] theorem snoopRead_writeTicks (s : State) (cls a n : Nat) :
    (snoopRead s cls a n).2.hlk.writeTicks = s.hlk.writeTicks := by
  unfold snoopRead; split <;> simp
@[simp] theorem snoopReq_writeTicks (s : State) (r : Req) : (snoopReq s r).2.hlk.writeTicks = s.hlk.writeTicks := by
  unfold snoopReq; split <;> simp

/-! ### Requests at a slice -/

@[simp] theorem retireLine_writeTicks (s : State) (k : Nat) (h : Home) (L : Nat) :
    (retireLine s k h L).hlk.writeTicks = s.hlk.writeTicks := by
  unfold retireLine; dsimp only; split <;> simp
@[simp] theorem atomLine_writeTicks (s : State) (k set way : Nat) (r : Req) (op : AtomOp) (ls : List (Nat × Nat × Nat)) :
    (atomLine s k set way r op ls).hlk.writeTicks = s.hlk.writeTicks := by simp [atomLine]

@[simp] theorem serveHere_writeTicks (s : State) (k : Nat) (h : Home) (r : Req) :
    (serveHere s k h r).hlk.writeTicks = s.hlk.writeTicks := by
  unfold serveHere; dsimp only
  split
  · simp
  · simp [storeLine_hlk queueWrite_hlk]
  · split
    · repeat' split
      all_goals simp
    · simp
  · split
    · repeat' split
      all_goals simp
    · simp

@[simp] theorem serveAnew_writeTicks (k : Nat) (h : Home) (rs : List Req) (s : State) :
    (serveAnew k h rs s).hlk.writeTicks = s.hlk.writeTicks := by
  induction rs generalizing s with
  | nil => rfl
  | cons r rs ih =>
    unfold serveAnew; rw [ih]
    split <;> simp

@[simp] theorem serveWaiters_writeTicks (k : Nat) (h : Home) (pre : Nat) (f : FillEnd) (rs : List Req) (s : State) :
    (serveWaiters k h pre f rs s).2.hlk.writeTicks = s.hlk.writeTicks := by
  induction rs generalizing f s with
  | nil => rfl
  | cons r rs ih =>
    unfold serveWaiters; dsimp only
    split <;> simp [ih]

@[simp] theorem fillLine_writeTicks (s : State) (k L : Nat) (bytes : Option (List Byte)) (also : Option (Nat × Nat)) :
    (fillLine s k L bytes also).2.hlk.writeTicks = s.hlk.writeTicks := by
  unfold fillLine
  extract_lets ws s1 many takers cc
  split
  · rw [foldl_hlk fun _ _ => answer_hlk .., updSlice_hlk]
  · extract_lets pre s2 s3 e
    have hs3 : s3.hlk = s.hlk := by
      have hs2 : s2.hlk = s.hlk := by unfold s2; split <;> rfl
      unfold s3; split <;> exact hs2
    clear_value s3 takers many ws
    split
    · rw [serveWaiters_writeTicks, hs3]
    · rw [hs3]
    · dsimp only; split
      · rw [serveAnew_writeTicks, serveWaiters_writeTicks, hs3]
      · rw [serveWaiters_writeTicks, serveWaiters_writeTicks, hs3]

@[simp] theorem fillNow_writeTicks (s : State) (k L : Nat) (also : Option (Nat × Nat)) :
    (fillNow s k L also).2.hlk.writeTicks = s.hlk.writeTicks := by simp [fillNow]

@[simp] theorem joinAll_writeTicks (f : Nat) (s : State) (k L : Nat) :
    (joinAll f s k L).hlk.writeTicks = s.hlk.writeTicks := by
  induction f generalizing s with
  | zero => rfl
  | succ f ih =>
    unfold joinAll; split
    · rfl
    · split
      · rfl
      · dsimp only; rw [ih]; split <;> simp

theorem mergeAt_writeTicks {s t : State} {k L : Nat} (h : mergeAt s k L = some t) :
    t.hlk.writeTicks = s.hlk.writeTicks := by
  unfold mergeAt at h
  split at h
  · dsimp only at h
    split at h
    · cases h
    · cases h; exact joinAll_writeTicks ..
  · cases h

@[simp] theorem settle_writeTicks (f : Nat) (s : State) (k L : Nat) :
    (settle f s k L).hlk.writeTicks = s.hlk.writeTicks := by
  induction f generalizing s with
  | zero => rfl
  | succ f ih =>
    unfold settle
    split
    · split <;> simp [ih]
    · split
      · rfl
      · dsimp only; split
        · simp [ih]
        · rw [ih]; split <;> simp

@[simp] theorem settleLine_writeTicks (s : State) (k L : Nat) :
    (settleLine s k L).hlk.writeTicks = s.hlk.writeTicks := settle_writeTicks ..

@[simp] theorem homeWrite_writeTicks (s : State) (h : Home) (cls off : Nat) (bs : List Byte) :
    (homeWrite s h cls off bs).hlk.writeTicks = s.hlk.writeTicks := by
  have hstore := @storeLine_hlk _ writeBack_hlk
  unfold homeWrite; dsimp only
  split
  · simp
  · split
    · split <;> simp [hstore]
    next t hmerge =>
      split
      · split <;> simp [hstore, mergeAt_writeTicks hmerge]
      · simp [mergeAt_writeTicks hmerge]

@[simp] theorem devStore_writeTicks (s : State) (priv : Bool) (cls a : Nat) (bs : List Byte) :
    (devStore s priv cls a bs).2.hlk.writeTicks = s.hlk.writeTicks := by
  unfold devStore; dsimp only
  rw [dirInvRange_writeTicks]
  refine List.foldlRecOn _ _ (motive := fun p : Option Nat × State => p.2.hlk.writeTicks = s.hlk.writeTicks) rfl
    fun p hp pc _ => ?_
  split
  · exact hp
  · exact (homeWrite_writeTicks ..).trans hp
@[simp] theorem devWrite_writeTicks (s : State) (cls a : Nat) (bs : List Byte) :
    (devWrite s cls a bs).hlk.writeTicks = s.hlk.writeTicks := devStore_writeTicks ..

/-! ### The end of a request -/

@[simp] theorem writePt_writeTicks (s : State) (n q i : Nat) : (writePt s n q i).hlk.writeTicks = s.hlk.writeTicks := by
  unfold writePt; split <;> simp
@[simp] theorem writeSeqRecord_writeTicks (s : State) (n q : Nat) :
    (writeSeqRecord s n q).hlk.writeTicks = s.hlk.writeTicks := by
  unfold writeSeqRecord; split <;> simp
@[simp] theorem closeSeq_writeTicks (s : State) (n q : Nat) : (closeSeq s n q).hlk.writeTicks = s.hlk.writeTicks := by
  unfold closeSeq; split
  · rfl
  · simp [foldl_writeTicks]
@[simp] theorem closeSequences_writeTicks (s : State) (n slot : Nat) :
    (closeSequences s n slot).hlk.writeTicks = s.hlk.writeTicks := by simp [closeSequences, foldl_writeTicks]
@[simp] theorem writeStatus_writeTicks (s : State) (n slot state reason items commit : Nat) :
    (writeStatus s n slot state reason items commit).hlk.writeTicks = s.hlk.writeTicks := devWrite_writeTicks ..
@[simp] theorem endRequest_writeTicks (s : State) (n slot state reason : Nat) :
    (endRequest s n slot state reason).hlk.writeTicks = s.hlk.writeTicks := by
  unfold endRequest; split
  · rfl
  · dsimp only
    simp only [abortGoesOn_hlk, updStream_hlk, writeStatus_writeTicks, devWrite_writeTicks]
    split <;> simp
@[simp] theorem failRequest_writeTicks (s : State) (n slot reason : Nat) :
    (failRequest s n slot reason).hlk.writeTicks = s.hlk.writeTicks := endRequest_writeTicks ..
@[simp] theorem stepBoundary_writeTicks (s : State) (n slot : Nat) :
    (stepBoundary s n slot).hlk.writeTicks = s.hlk.writeTicks := by
  unfold stepBoundary; split
  · split <;> simp
  · rfl
@[simp] theorem stepEnd_writeTicks (s : State) (req : Option (Nat × Nat)) :
    (stepEnd s req).hlk.writeTicks = s.hlk.writeTicks := by
  unfold stepEnd; split
  · split <;> simp
  · rfl
@[simp] theorem failWhere_writeTicks (s : State) (n reason : Nat) (p : ReqSt → Bool) :
    (failWhere s n reason p).hlk.writeTicks = s.hlk.writeTicks := foldl_writeTicks (fun _ _ => endRequest_writeTicks ..) _ s
@[simp] theorem shedStream_writeTicks (s : State) (n : Nat) : (shedStream s n).hlk.writeTicks = s.hlk.writeTicks := by
  unfold shedStream; split
  · rfl
  · simp [stopRequests]

/-! ### The end of a block, and traps -/

@[simp] theorem drainEnd_writeTicks (s : State) (c g : Nat) : (drainEnd s c g).hlk.writeTicks = s.hlk.writeTicks := by
  unfold drainEnd; dsimp only; split
  · simp [apply_ite State.hlk]
  · rfl
@[simp] theorem endGroup_writeTicks (s : State) (c g : Nat) : (endGroup s c g).hlk.writeTicks = s.hlk.writeTicks := by
  simp [endGroup]
@[simp] theorem abortBlock_writeTicks (s : State) (c g : Nat) : (abortBlock s c g).hlk.writeTicks = s.hlk.writeTicks := by
  unfold abortBlock; dsimp only
  rw [foldl_writeTicks fun t k => drainEnd_writeTicks t c k, foldl_hlk fun _ _ => by rfl, updCore_hlk]
@[simp] theorem abortAs_writeTicks (s : State) (c g reason : Nat) :
    (abortAs s c g reason).hlk.writeTicks = s.hlk.writeTicks := by
  unfold abortAs; dsimp only
  repeat' split
  all_goals simp
@[simp] theorem takeTrap_writeTicks (s : State) (c g code detail lane why : Nat) :
    (takeTrap s c g code detail lane why).hlk.writeTicks = s.hlk.writeTicks := by
  unfold takeTrap
  extract_lets x s1 s2 reason ev s3
  have hevent : s3.hlk = s.hlk := by
    unfold s3; split
    · rfl
    · split <;> simp [s2, s1]
  split
  · rw [foldl_hlk fun _ _ => by split <;> rfl, hevent]
  · rw [abortAs_writeTicks, hevent]
@[simp] theorem descTrap_writeTicks (s : State) (c g code cause : Nat) :
    (descTrap s c g code cause).hlk.writeTicks = s.hlk.writeTicks := by simp [descTrap]

/-! ### Writes to control space -/

@[simp] theorem setAlert_hlk (s : State) : (setAlert s).hlk = s.hlk := by
  unfold setAlert; split <;> rfl

theorem fitW1c_hlk {s t : State} {o m : Nat} (h : fitW1c s o m = some t) : t.hlk = s.hlk := by
  unfold fitW1c at h
  repeat' split at h
  all_goals cases h
  all_goals rfl

theorem sliceW1c_hlk {s t : State} {n o m : Nat} (h : sliceW1c s n o m = some t) : t.hlk = s.hlk := by
  unfold sliceW1c at h
  split at h
  all_goals cases h
  all_goals rfl

theorem blockW1c_writeTicks {s t : State} {o m : Nat} (h : blockW1c s o m = some t) :
    t.hlk.writeTicks = s.hlk.writeTicks := by
  unfold blockW1c at h
  split at h
  case h_4 => cases h; simp
  case h_10 =>
    split at h
    · rw [fitW1c_hlk h]
    · split at h
      · rw [sliceW1c_hlk h]
      · repeat' split at h
        all_goals cases h
        all_goals simp
  all_goals cases h; rfl

theorem w1cWrite_writeTicks {s t : State} {off m : Nat} (h : w1cWrite s off m = some t) :
    t.hlk.writeTicks = s.hlk.writeTicks := by
  unfold w1cWrite at h; dsimp only at h
  split at h
  · obtain ⟨co, -, rfl⟩ := Option.map_eq_some_iff.mp h; rfl
  · exact blockW1c_writeTicks h

@[simp] theorem storeCtlWord_writeTicks (s : State) (off v : Nat) :
    (storeCtlWord s off v).hlk.writeTicks = s.hlk.writeTicks := by
  unfold storeCtlWord; split
  next t ht => exact w1cWrite_writeTicks ht
  · split <;> rfl
@[simp] theorem storeCtl_writeTicks (s : State) (off : Nat) (bs : List Byte) :
    (storeCtl s off bs).hlk.writeTicks = s.hlk.writeTicks := foldl_writeTicks (fun _ _ => storeCtlWord_writeTicks ..) _ s
@[simp] theorem loadCtl_hlk (s : State) (off n : Nat) : (loadCtl s off n).2.hlk = s.hlk := by
  unfold loadCtl; dsimp only; split <;> rfl
@[simp] theorem storeKv_hlk (s : State) (n c : Nat) (src : Src) (size : Nat) (bs : List Byte) :
    (storeKv s n c src size bs).2.hlk = s.hlk := by
  unfold storeKv; dsimp only; repeat' split
  all_goals rfl
@[simp] theorem ctlAccess_writeTicks (c g id size : Nat) (p : CtlPart) (t : Nat × Nat × ReqKind) :
    (ctlAccess c g id size p t).st.hlk.writeTicks = p.st.hlk.writeTicks := by
  unfold ctlAccess; dsimp only
  split
  · simp
  · split <;> simp
  · simp
  · rfl
@[simp] theorem ctlParts_writeTicks (s : State) (c g id size : Nat) (ts : List (Nat × Nat × ReqKind)) :
    (ctlParts s c g id size ts).st.hlk.writeTicks = s.hlk.writeTicks :=
  List.foldlRecOn _ _ (motive := fun p : CtlPart => p.st.hlk.writeTicks = s.hlk.writeTicks) rfl fun p hp t _ =>
    (ctlAccess_writeTicks c g id size p t).trans hp

end Sys2Proof.Machine

end

section
/-! What an instruction leaves of the counts of host writes (R264). -/

namespace Sys2Proof.Machine

/-- An effect that leaves the counts of host writes as they are. -/
def KeepsWriteTicks (f : Body) : Prop := ∀ s c g w ecc, (f s c g w ecc).hlk.writeTicks = s.hlk.writeTicks

theorem keepsWriteTicks_of_hlk {f : Body} (h : ∀ s c g w ecc, (f s c g w ecc).hlk = s.hlk) : KeepsWriteTicks f :=
  fun s c g w ecc => congrArg Hlk.writeTicks (h s c g w ecc)

theorem keepsWriteTicks_aluBody (f : Nat → Nat → Nat → Nat → Nat) : KeepsWriteTicks (aluBody f) :=
  keepsWriteTicks_of_hlk fun _ _ _ _ _ => rfl

/-! ### Loads, stores and atomics -/

theorem deviceAccess_writeTicks (s : State) (c g w : Nat) (retire load : Bool) (regs : Nat)
    (mk : Group → List Nat → List (Nat × Nat × ReqKind)) :
    (deviceAccess s c g w retire load regs mk).hlk.writeTicks = s.hlk.writeTicks := by
  unfold deviceAccess; dsimp only
  split
  · simp
  · split
    · simp
    · simp [sendAccess]

theorem localChecks_error_writeTicks {s t : State} {c g w : Nat} {write : Bool} {ecc : Ecc}
    (h : localChecks s c g w write ecc = .error t) : t.hlk.writeTicks = s.hlk.writeTicks := by
  unfold localChecks at h; dsimp only at h
  split at h
  · cases h; exact takeTrap_writeTicks ..
  · split at h
    · cases h; exact takeTrap_writeTicks ..
    · cases h

theorem localChecks_ok_hlk {s t : State} {c g w : Nat} {write : Bool} {ecc : Ecc}
    (h : localChecks s c g w write ecc = .ok t) : t.hlk = s.hlk := by
  unfold localChecks at h; dsimp only at h
  split at h
  · cases h
  · split at h
    · cases h
    · cases h; exact lmEcc_hlk ..

theorem bodyLd_keepsWriteTicks : KeepsWriteTicks bodyLd := fun s c g w ecc => by
  unfold bodyLd; dsimp only
  split
  · exact deviceAccess_writeTicks ..
  · split
    next h => exact localChecks_error_writeTicks h
    next h => simp [localChecks_ok_hlk h]

theorem bodySt_keepsWriteTicks : KeepsWriteTicks bodySt := fun s c g w ecc => by
  unfold bodySt; dsimp only
  split
  · exact deviceAccess_writeTicks ..
  · split
    next h => exact localChecks_error_writeTicks h
    next h => simp [localChecks_ok_hlk h]

theorem atomBody_keepsWriteTicks (op : AtomOp) : KeepsWriteTicks (atomBody op) := fun s c g w ecc => by
  unfold atomBody; dsimp only
  split
  · exact deviceAccess_writeTicks ..
  · split
    next h => exact localChecks_error_writeTicks h
    next h => simp [localChecks_ok_hlk h]

/-! ### Descriptors and fragments -/

theorem issueDesc_keepsWriteTicks (tok : List Byte → Nat) (check : List Byte → Nat → Option Nat) (palm : Bool)
    (depth : Core → Nat) (put : Core → QEnt → Core) : KeepsWriteTicks (issueDesc tok check palm depth put) :=
  fun s c g w ecc => by
    unfold issueDesc; dsimp only
    split
    · exact descTrap_writeTicks ..
    · split <;> simp

theorem fragTrap_writeTicks {s t : State} {c g : Nat} {opens : Bool} {more : Bank → Bool}
    (h : fragTrap s c g opens more = some t) : t.hlk.writeTicks = s.hlk.writeTicks := by
  unfold fragTrap at h; extract_lets x ok at h
  split at h
  · cases h; exact descTrap_writeTicks ..
  · split at h
    · cases h
    · cases h; exact descTrap_writeTicks ..

theorem bodyFragOpen_keepsWriteTicks : KeepsWriteTicks bodyFragOpen := fun s c g w ecc => by
  unfold bodyFragOpen
  split
  next h => exact fragTrap_writeTicks h
  · split
    · rfl
    · split <;> rfl

theorem bodyFragLdb_keepsWriteTicks : KeepsWriteTicks bodyFragLdb := fun s c g w ecc => by
  unfold bodyFragLdb; dsimp only
  split
  · exact takeTrap_writeTicks ..
  · split
    next h => exact fragTrap_writeTicks h
    · split <;> rfl

theorem bodyFragMma_keepsWriteTicks : KeepsWriteTicks bodyFragMma := fun s c g w ecc => by
  unfold bodyFragMma; dsimp only
  split
  next h => exact fragTrap_writeTicks h
  · split <;> rfl

theorem bodyFragRound_keepsWriteTicks : KeepsWriteTicks bodyFragRound := fun s c g w ecc => by
  unfold bodyFragRound; dsimp only
  split
  next h => exact fragTrap_writeTicks h
  · split
    · rfl
    · split
      · rfl
      · simp

/-! ### Control flow, barriers and special functions -/

theorem bodyBra_keepsWriteTicks : KeepsWriteTicks bodyBra := fun s c g w ecc => by
  unfold bodyBra
  split
  · rfl
  · exact takeTrap_writeTicks ..

theorem bodyExit_keepsWriteTicks : KeepsWriteTicks bodyExit := fun s c g w ecc => by
  unfold bodyExit; dsimp only
  split
  · rfl
  · exact endGroup_writeTicks ..

theorem arrive_keepsWriteTicks (wait : Bool) : KeepsWriteTicks (arrive wait) := fun s c g w ecc => by
  unfold arrive; dsimp only
  split
  · exact takeTrap_writeTicks ..
  · split
    · exact takeTrap_writeTicks ..
    · rfl

theorem bodyFenceD_keepsWriteTicks : KeepsWriteTicks bodyFenceD := fun s c g w ecc => by
  unfold bodyFenceD; split <;> rfl

theorem bodySfEval_keepsWriteTicks : KeepsWriteTicks bodySfEval := fun s c g w ecc => by
  unfold bodySfEval; dsimp only
  simp [apply_ite State.hlk]

theorem bodyRowstat_keepsWriteTicks : KeepsWriteTicks bodyRowstat := fun s c g w ecc => by
  unfold bodyRowstat
  extract_lets x a n bf e
  split
  · exact takeTrap_writeTicks ..
  · split
    · exact takeTrap_writeTicks ..
    · exact congrArg Hlk.writeTicks ((orFlags_hlk ..).trans (lmEcc_hlk ..))

/-- Every instruction of Table 8-2 leaves the counts of host writes as they are. The cases are numbered as `bodyOf` lists the
opcodes; those without a line of their own are of the ALU format. -/
theorem bodyOf_keepsWriteTicks {op : Nat} {f : Body} (h : bodyOf op = some f) : KeepsWriteTicks f := by
  unfold bodyOf at h
  split at h <;> cases h
  case h_26.refl => exact keepsWriteTicks_of_hlk fun _ _ _ _ _ => orFlags_hlk ..
  case h_28.refl => exact bodyLd_keepsWriteTicks
  case h_29.refl => exact bodySt_keepsWriteTicks
  case h_30.refl | h_31.refl | h_32.refl | h_33.refl | h_34.refl | h_35.refl | h_36.refl | h_37.refl | h_38.refl |
      h_39.refl | h_40.refl => exact atomBody_keepsWriteTicks _
  case h_41.refl => exact bodyFenceD_keepsWriteTicks
  case h_42.refl => exact fun _ _ _ _ _ => deviceAccess_writeTicks ..
  case h_43.refl | h_44.refl | h_45.refl => exact issueDesc_keepsWriteTicks _ _ _ _ _
  case h_47.refl => exact bodyFragOpen_keepsWriteTicks
  case h_48.refl => exact bodyFragLdb_keepsWriteTicks
  case h_49.refl => exact bodyFragMma_keepsWriteTicks
  case h_50.refl => exact bodyFragRound_keepsWriteTicks
  case h_51.refl => exact bodyBra_keepsWriteTicks
  case h_46.refl | h_52.refl | h_53.refl | h_54.refl | h_57.refl | h_60.refl =>
    exact keepsWriteTicks_of_hlk fun _ _ _ _ _ => updGrp_hlk ..
  case h_55.refl => exact bodyExit_keepsWriteTicks
  case h_56.refl => exact fun _ _ _ _ _ => takeTrap_writeTicks ..
  case h_58.refl | h_59.refl => exact arrive_keepsWriteTicks _
  case h_61.refl => exact bodySfEval_keepsWriteTicks
  case h_62.refl => exact bodyRowstat_keepsWriteTicks
  all_goals exact fun _ _ _ _ _ => keepsWriteTicks_aluBody _ _ _ _ _ _

/-! ### Issue -/

/-- The state that an issue attempt leaves. -/
def Issued.state : Issued → State
  | .stop t => t
  | .go t _ => t

theorem issue_writeTicks (s : State) (c g : Nat) (want : Option Nat) (ecc : Ecc) :
    (issue s c g want ecc).state.hlk.writeTicks = s.hlk.writeTicks := by
  unfold issue
  split
  · rfl
  split
  · exact takeTrap_writeTicks ..
  extract_lets x pc s1
  have hs1 : s1.hlk = s.hlk := by unfold s1; split <;> rfl
  have htrap : ∀ code detail lane why, (takeTrap s1 c g code detail lane why).hlk.writeTicks = s.hlk.writeTicks :=
    fun code detail lane why => by rw [takeTrap_writeTicks, hs1]
  repeat' split
  all_goals simp [Issued.state, htrap, hs1]

theorem anyBody_keepsWriteTicks : KeepsWriteTicks anyBody := fun s c g w ecc => by
  unfold anyBody; split
  next hf => exact bodyOf_keepsWriteTicks hf ..
  · rfl

theorem finishIssue_writeTicks {s : State} {f : Body} (hf : KeepsWriteTicks f) (c g : Nat) (ecc : Ecc) {r : Issued}
    (hr : r.state.hlk.writeTicks = s.hlk.writeTicks) : (finishIssue s c g ecc f r).hlk.writeTicks = s.hlk.writeTicks := by
  cases r with
  | stop t =>
    unfold finishIssue; dsimp only; split
    · exact hr
    · rw [endStep_hlk]; exact hr
  | go t w =>
    unfold finishIssue; dsimp only
    rw [endStep_hlk, hf]; exact hr

@[simp] theorem stepOne_writeTicks (s : State) (c g : Nat) (ecc : Ecc) :
    (stepOne s c g ecc).hlk.writeTicks = s.hlk.writeTicks := by
  unfold stepOne
  split
  · simp
  · simp
  · extract_lets x t
    have ht : t.hlk = s.hlk := by unfold t; split <;> rfl
    exact (finishIssue_writeTicks anyBody_keepsWriteTicks c g ecc (issue_writeTicks ..)).trans (congrArg _ ht)

end Sys2Proof.Machine

end

section
/-! The limits on the host's writes (R264, O47). -/

namespace Sys2Proof.Machine

/-! ### What a BAR write leaves of the counts -/

theorem visorCmd_writeTicks {f : State → Nat → Nat → State}
    (hf : ∀ s c g, (f s c g).hlk.writeTicks = s.hlk.writeTicks) (s : State) :
    (visorCmd s f).hlk.writeTicks = s.hlk.writeTicks := by
  unfold visorCmd; dsimp only
  split
  · rfl
  · split
    · rfl
    · rw [hf, updGrp_hlk]

@[simp] theorem haltGroup_hlk (s : State) (c g : Nat) : (haltGroup s c g).hlk = s.hlk := by
  unfold haltGroup; repeat' split
  all_goals rfl
@[simp] theorem resumeGroup_hlk (s : State) (c g : Nat) : (resumeGroup s c g).hlk = s.hlk := by
  unfold resumeGroup; split <;> rfl
@[simp] theorem stepGroup_writeTicks (ecc : Ecc) (s : State) (c g : Nat) :
    (stepGroup ecc s c g).hlk.writeTicks = s.hlk.writeTicks := by
  unfold stepGroup; repeat' split
  all_goals simp
@[simp] theorem abortGroup_writeTicks (s : State) (c g : Nat) : (abortGroup s c g).hlk.writeTicks = s.hlk.writeTicks := by
  unfold abortGroup; dsimp only; split <;> simp

@[simp] theorem writeGcmd_writeTicks (s : State) (v : Nat) : (writeGcmd s v).hlk.writeTicks = s.hlk.writeTicks := by
  unfold writeGcmd; split
  · rfl
  all_goals exact visorCmd_writeTicks (by simp) s

@[simp] theorem drawWord_hlk (s : State) : s.drawWord.2.hlk = s.hlk := rfl
@[simp] theorem stopField_hlk (s : State) (stop : Option Word) : (stopField s stop).2.hlk = s.hlk := by
  unfold stopField; split
  · rfl
  · exact drawWord_hlk s
@[simp] theorem visorLoad_hlk (s : State) (x : Group) (target lane i : Nat) :
    (visorLoad s x target lane i).2.hlk = s.hlk := by
  unfold visorLoad
  split
  case h_5 => exact stopField_hlk ..
  case h_6 =>
    split
    · rfl
    · split
      · rfl
      · exact (drawWord_hlk _).trans (drawWord_hlk s)
  case h_8 =>
    split
    · rfl
    · exact stopField_hlk ..
  all_goals rfl

@[simp] theorem visorAccess_hlk (v : Word) (write : Bool) (s : State) (c g : Nat) :
    (visorAccess v write s c g).hlk = s.hlk := by
  unfold visorAccess
  extract_lets x vis s1 target lane i r
  have hs1 : s1.hlk = s.hlk := rfl
  clear_value s1 lane target i
  split
  · exact hs1
  · split
    · split <;> exact hs1
    · have hload : r.2.hlk = s.hlk := (visorLoad_hlk ..).trans hs1
      split
      · exact hs1
      · exact hload

theorem visorReg_writeTicks {s t : State} {o v : Nat} (h : visorReg s o v = some t) :
    t.hlk.writeTicks = s.hlk.writeTicks := by
  have haccess : (visorCmd s (visorAccess (BitVec.ofNat 32 v) (bit v 31))).hlk.writeTicks = s.hlk.writeTicks :=
    visorCmd_writeTicks (by simp) s
  unfold visorReg at h; dsimp only at h
  repeat' split at h
  all_goals cases h
  case isFalse.isTrue => exact writeGcmd_writeTicks s v
  case isFalse.isFalse.isTrue => exact haccess
  all_goals rfl

theorem visorWrite_writeTicks {s t : State} {o v : Nat} (h : visorWrite s o v = some t) :
    t.hlk.writeTicks = s.hlk.writeTicks := by
  unfold visorWrite at h
  split at h
  · exact visorReg_writeTicks h
  · obtain ⟨u, -, rfl⟩ := Option.map_eq_some_iff.mp h
    split <;> rfl

theorem regWrite_writeTicks (s : State) (off v : Nat) : (regWrite s off v).hlk.writeTicks = s.hlk.writeTicks := by
  unfold regWrite; split
  next h => exact w1cWrite_writeTicks h
  · split
    · cases h : visorWrite s (off - 0x800000) v with
      | none => rfl
      | some t => exact visorWrite_writeTicks h
    · rfl

theorem entryWrite_writeTicks (s : State) (entry off : Nat) (bs : List Byte) :
    (entryWrite s entry off bs).hlk.writeTicks = s.hlk.writeTicks := by
  unfold entryWrite; dsimp only; split <;> rfl

/-! ### The limits -/

/-- A write beyond R264: discarded and counted in HLK_DROP.ctl, with its event. -/
def DiscardsWrite (s : State) (o : Host.Outcome State Fault Refusal) : Prop :=
  ∃ t, o = .next t ∧ t.hlk.dropCtl = satInc 16 s.hlk.dropCtl ∧ t.hlk.events = setBit s.hlk.events 3 ∧
    { t with hlk := s.hlk } = s ∧
    { t.hlk with dropCtl := s.hlk.dropCtl, events := s.hlk.events, evtSets := s.hlk.evtSets } = s.hlk

theorem discardsWrite_of_limit (s : State) : DiscardsWrite s (.next (hlkEvent (dropCtl s) 3)) :=
  ⟨_, rfl, rfl, rfl, rfl, rfl⟩

/-- A BAR write under R264: discarded at the limit, taken and counted below it. -/
def BarWriteLimited (s : State) (o : Host.Outcome State Fault Refusal) : Prop :=
  (4096 ≤ (recent s s.hlk.barTicks).length → DiscardsWrite s o) ∧
  ((recent s s.hlk.barTicks).length < 4096 → ∃ t, o = .next t ∧
    t.hlk.barTicks = recent s s.hlk.barTicks ++ [s.now] ∧ t.hlk.cfgTicks = s.hlk.cfgTicks)

section Open

variable {s : State} (hup : s.hlk.up = true)
include hup

theorem barWrite_of_full (hopen : hostOpen s = true) (hfull : 4096 ≤ (recent s s.hlk.barTicks).length)
    (f : State → State) : DiscardsWrite s (.next (barWrite s f)) := by
  have hdrop : barWrite s f = hlkEvent (dropCtl s) 3 := by
    simp [barWrite, hup, hopen, Nat.not_lt.mpr hfull]
  rw [hdrop]; exact discardsWrite_of_limit s

theorem barWrite_limited (hopen : hostOpen s = true) {f : State → State}
    (hf : ∀ t, (f t).hlk.writeTicks = t.hlk.writeTicks) : BarWriteLimited s (.next (barWrite s f)) := by
  refine ⟨fun hfull => barWrite_of_full hup hopen hfull f, fun hroom => ⟨_, rfl, ?_⟩⟩
  rw [barWrite_of_open ⟨hup, hopen, hroom⟩]
  exact Prod.mk.inj (hf (barCounted s))

theorem configWrite_of_full (hready : s.boot.ready = true) (hfull : 64 ≤ (recent s s.hlk.cfgTicks).length)
    (off : BitVec 12) (v : Word) : DiscardsWrite s (exec (.configWrite off v) s) := by
  have hdrop : exec (.configWrite off v) s = .next (hlkEvent (dropCtl s) 3) := by
    change execConfigWrite off v s = _
    simp [execConfigWrite, hup, hready, hfull]
  rw [hdrop]; exact discardsWrite_of_limit s

theorem configWrite_of_room (hready : s.boot.ready = true) (hroom : (recent s s.hlk.cfgTicks).length < 64)
    (off : BitVec 12) (v : Word) : ∃ t, exec (.configWrite off v) s = .next t ∧
      t.hlk.cfgTicks = recent s s.hlk.cfgTicks ++ [s.now] ∧ t.hlk.barTicks = s.hlk.barTicks := by
  change ∃ t, execConfigWrite off v s = _ ∧ _
  simp [execConfigWrite, hup, hready, Nat.not_le.mpr hroom]

theorem fitCountLoRead_of_open (hopen : hostOpen s = true) :
    exec .fitCountLoRead s = .next ((latchCount s).emit (.regData [BitVec.ofNat 32 s.now])) := by
  change execFitCountLoRead s = _
  simp [execFitCountLoRead, hup, hopen]

end Open

/-- Settles O47: a write beyond either limit is discarded, one within it is taken and counted, and a read is served whatever
the counts are. -/
theorem hostWriteLimits : Obligations.HostWriteLimits := by
  intro s hup gone bars cfgs bar
  refine ⟨fun hopen => ⟨fun off v => ?_, fun off v sets => ?_, fun e off bs => ?_, fun hfull => ?_⟩,
    fun hready off v => ⟨fun hfull => configWrite_of_full hup hready hfull off v,
      fun hroom => configWrite_of_room hup hready hroom off v⟩, fun hopen bars' cfgs' => ?_⟩
  · exact barWrite_limited hup hopen fun t => regWrite_writeTicks ..
  · exact barWrite_limited hup hopen fun t => regWrite_writeTicks ..
  · exact barWrite_limited hup hopen fun t => entryWrite_writeTicks ..
  · have hgone := barWrite_of_full hup hopen hfull
    exact ⟨hgone _, hgone _, hgone _, fun _ => hgone _, fun _ => ⟨hgone _, hgone _⟩⟩
  · exact ⟨_, fitCountLoRead_of_open hup hopen, rfl, rfl⟩

end Sys2Proof.Machine

end
